-- ==== Sys2Proof/Word.lean ====
section
/-! DEFINITION. Words, bytes and the two plain containers of the model: bytes as lists, and sparse tables.
All multi-byte quantities of the device are little-endian (R6); the byte-order helpers stand in Machine/Bits.lean. -/

namespace Sys2Proof

/-- One byte of memory or of a packet. -/
abbrev Byte := BitVec 8

/-- One FP32 lane, scalar register or 32-bit register word (R11, R82). -/
abbrev Word := BitVec 32

/-- A sparse table: entries sorted by strictly rising key, none of them equal to what an unlisted key reads as.
The operations that keep this form are in Machine/Table.lean. -/
abbrev Tab (α : Type) := List (Nat × α)

/-- A byte string (a packet payload, a flit, a mould image, a report), lowest byte first. -/
abbrev Bytes := List Byte

end Sys2Proof
end

