-- ==== Sys2Proof/Types.lean ====
section
/-! DEFINITION. The operand types of the commands: requesters, pattern operands, packets, flits, RoCEv2 requests,
ECC findings. Plain data, each with the rule that lays it out. -/

namespace Sys2Proof

/-- R17: the five requesters of register accesses. -/
inductive Requester where
  | host        -- the bound host (register regions, or Novvan on the host control class)
  | mgmt        -- the management port (Novvan over I3C)
  | archivist
  | jtagOwner
  | jtagVendor
deriving DecidableEq, Repr

/-- R98: the fields of a 128-bit pattern instruction other than its opcode. -/
structure Opds where
  fmtA  : Nat
  fmtB  : Nat
  flags : Nat
  opd0  : Nat
  opd1  : Nat
  opd2  : Nat
deriving DecidableEq, Repr

/-- R107, R179–R181: the check-bit errors that have appeared in stored words before this access: `ce` lists
addresses whose word the code corrects, `ue` addresses whose word it only detects. The environment supplies them;
an uncorrectable word then stays failed in State until a whole-word write. -/
structure Ecc where
  ce : List Nat
  ue : List Nat
deriving DecidableEq, Repr

/-- R219: a packet: its header fields, its payload and, when twin-addressed, its 16-byte trailer (R374). -/
structure Packet where
  dst      : Nat
  dstPart  : Nat
  kind     : Nat
  src      : Nat
  srcPart  : Nat
  cong     : Bool
  echo     : Bool
  twin     : Bool
  seq      : Nat
  length   : Nat
  age      : Nat
  addr     : Nat
  arg0     : Nat
  arg1     : Nat
  payload  : Bytes
  trailer  : Bytes
deriving DecidableEq, Repr

/-- R199, R202: a flit as the receiver decodes it: 256 bytes, the 96-bit link word, and whether one of its
codewords was uncorrectable. -/
structure Flit where
  bytes  : Bytes
  word   : Nat
  badFec : Bool
deriving DecidableEq, Repr

/-- R274–R280: the header of a RoCEv2 request that reaches the device. `badOp` marks an opcode the device does not
support. -/
structure Roce where
  srcAddr : Nat
  qp      : Nat
  psn     : Nat
  rkey    : Nat
  addr    : Nat
  ce      : Bool
  badOp   : Bool
deriving DecidableEq, Repr

/-- R425: what the device takes from a Novvan request beside its command and body. `bad`: its body is shorter than its command needs,
or a reserved field is not zero (R426). -/
structure Novvan where
  tag  : Nat
  path : Bool        -- true: the management port (M); false: the host control class (H)
  eid  : Nat         -- the MCTP endpoint that sent it (M), or the QP it came on (H)
  bad  : Bool
deriving DecidableEq, Repr

/-- R412, R413: how an update command comes: a write of UPD_CMD, or the Novvan message UPDATE_CMD. -/
inductive Via where
  | register (r : Requester)
  | message (m : Novvan)
deriving DecidableEq, Repr

/-- R391: what accompanies an owner command: the signing slot (4 when there is no signature), the public key and
the signature. -/
structure OwnerSig where
  slot : Nat
  key  : Bytes
  sig  : Bytes
deriving DecidableEq, Repr

/-- R293: an event record. -/
structure EvRec where
  source : Nat
  count  : Nat
  flags  : Nat
  ts     : Nat
  info   : Nat
deriving DecidableEq, Repr

/-- R183: who issues a plain near-memory access, in the numbering of MEM_UE_LOG's reader field (R196). -/
inductive Reader where
  | scrub | cellDma | queueEngine | ladle | nmu | peer | host
deriving DecidableEq, Repr

/-- R208: why a receiver judges a lane failed. -/
inductive LaneCause where
  | markers | codewords | symbols
deriving DecidableEq, Repr

/-- R168: a consumer that energy of a 10 µs interval goes to. -/
inductive Consumer where
  | queue (q part : Nat) (index : Nat)   -- a unit serving a work order
  | part  (p : Nat)                       -- a cell of a poured partition outside any run
  | riser
  | shell
deriving DecidableEq, Repr

end Sys2Proof
end

