-- ==== Sys2Proof/Syntax.lean ====
section
/-! DEFINITION. The commands of the block: one constructor per row of spec/opcode_table.json, with the row's operands. What the
environment measures, sends or delivers is an operand; what the device holds is in Machine/State.lean. -/

namespace Sys2Proof

/-- The commands of the YKB-9160. Units are named by the identifiers of R9. -/
inductive Instr where
  -- registers, pattern instructions, streams, runs, carrels, ledger, performance and trace (R11–R29, R83–R111)
  | registerWrite (r : Requester) (addr size value : Nat)
  | registerLowWordRead (r : Requester) (addr size : Nat)
  | refclkFailure
  | nop (cell : Nat) (o : Opds)
  | endRun (cell : Nat) (o : Opds)
  | jmp (cell : Nat) (o : Opds)
  | loop (cell : Nat) (o : Opds)
  | bnz (cell : Nat) (o : Opds)
  | wait (cell : Nat) (o : Opds)
  | incr (cell : Nat) (o : Opds)
  | raise (cell : Nat) (o : Opds)
  | recv (cell : Nat) (o : Opds) (e : Ecc)
  | send (cell : Nat) (o : Opds) (e : Ecc)
  | dmain (cell : Nat) (o : Opds) (e : Ecc)
  | dmaout (cell : Nat) (o : Opds) (e : Ecc)
  | ldw (cell : Nat) (o : Opds) (e : Ecc)
  | vld (cell : Nat) (o : Opds) (e : Ecc)
  | vst (cell : Nat) (o : Opds) (e : Ecc)
  | mma (cell : Nat) (o : Opds) (e : Ecc)
  | aclr (cell : Nat) (o : Opds)
  | acrd (cell : Nat) (o : Opds)
  | acwr (cell : Nat) (o : Opds)
  | vadd (cell : Nat) (o : Opds)
  | vmul (cell : Nat) (o : Opds)
  | vfma (cell : Nat) (o : Opds)
  | vmax (cell : Nat) (o : Opds)
  | vmin (cell : Nat) (o : Opds)
  | vexp2 (cell : Nat) (o : Opds)
  | vlog2 (cell : Nat) (o : Opds)
  | vrcp (cell : Nat) (o : Opds)
  | vrsqrt (cell : Nat) (o : Opds)
  | vrsum (cell : Nat) (o : Opds)
  | vrmax (cell : Nat) (o : Opds)
  | vqnt (cell : Nat) (o : Opds) (e : Ecc)
  | vsplat (cell : Nat) (o : Opds)
  | seti (cell : Nat) (o : Opds)
  | addi (cell : Nat) (o : Opds)
  | add (cell : Nat) (o : Opds)
  | muli (cell : Nat) (o : Opds)
  | streamWordHop (chan dst : Nat) (badParity : Bool)
  | runEnd (queue index : Nat)
  | carrelScrub (slot : Nat) (e : Ecc)
  | ledgerClearSat (r : Requester) (part : Nat)
  | ledgerClearNan (r : Requester) (part : Nat)
  | ledgerClearInv (r : Requester) (part : Nat)
  | ledgerClearResidue (r : Requester) (part : Nat)
  | ledgerClearTrips (r : Requester) (part : Nat)
  | perfFreeze (r : Requester) (freeze : Bool)
  | perfClear (r : Requester) (part : Nat)
  | traceReadAdvance (r : Requester) (read : Nat)
  | traceLostEntry
  -- pours, queues, work orders, sync counters (R132–R170)
  | pour (index : Nat)
  | pourFirstPass (image : Option Bytes)
  | pourSecondPass (image : Option Bytes)
  | pourTwinTimeout
  | pourComplete
  | patternSwap (queue index : Nat) (image : Option Bytes)
  | patternSwapWrite (image : Option Bytes)
  | unpour (index : Nat)
  | queueDoorbell (queue off value : Nat) (e : Ecc)
  | ctlDoorbell (r : Requester) (value : Nat)
  | dispatch (queue : Nat) (e : Ecc)
  | nopWorkOrder (queue index : Nat)
  | runPattern (queue index : Nat)
  | copy (queue index : Nat) (e : Ecc)
  | copyConvert (queue index : Nat) (e : Ecc)
  | digestCopy (queue index : Nat) (e : Ecc)
  | gather (queue index : Nat) (e : Ecc)
  | scatter (queue index : Nat) (e : Ecc)
  | ladleRs (queue index : Nat) (e : Ecc)
  | ladleAllReduce (queue index : Nat) (e : Ecc)
  | ladleAg (queue index : Nat) (e : Ecc)
  | ladleXchg (queue index : Nat) (e : Ecc)
  | signal (queue index : Nat)
  | waitWorkOrder (queue index : Nat)
  | fenceRecover (index : Nat)
  | fenceResetCell (index : Nat)
  | fenceResetCluster (index : Nat)
  | fenceResetShell (index : Nat)
  | testBarCell (index : Nat)
  | testBarLadle (index : Nat)
  | testBarNmu (index : Nat)
  | testBarIdleTimeout (index : Nat)
  | testBarComplete (kind unit : Nat) (pass : Bool)
  | attest (index : Nat)
  | workOrderComplete (queue index : Nat) (e : Ecc)
  | queueCancel (r : Requester) (queue : Nat)
  | queueDisable (r : Requester) (queue : Nat)
  | syncIncrementApply (counter amount : Nat)
  | syncCounterDoorbell (counter amount : Nat)
  | incrPacket (pkt : Packet)
  | incrAck (pkt : Packet)
  | incrResend (dev seq : Nat)
  | incrWithdrawTimeout (dev seq : Nat)
  | withdraw (req : Bool) (pkt : Packet)
  | withdrawResend (req : Bool) (dev seq : Nat)
  | withdrawAns (req : Bool) (pkt : Packet)
  | watchdogTrip (queue index : Nat)
  -- HBM stacks, shelves and near-memory units (R172–R192)
  | stackTempSample (stack : Nat) (temp : Int) (bad : Bool)
  | scrubRead (stack : Nat) (e : Ecc)
  | nmuRead (part : Nat) (reader : Reader) (addr len : Nat) (e : Ecc)
  | nmuWrite (part : Nat) (reader : Reader) (addr : Nat) (data : Bytes)
  | accOpen (stack tag addr len n fmt part plan : Nat)
  | accApply (stack tag pos : Nat) (data : Bytes) (crc : Nat) (e : Ecc)
  | accAbort (stack tag : Nat)
  | xcode (queue index src dst n fa fb : Nat) (e : Ecc)
  | grow (part table index row dst : Nat) (scatter : Bool) (e : Ecc)
  | digest (part region addr len : Nat) (e : Ecc)
  | zero (page : Bool) (n : Nat)
  | regionClear (r : Requester) (part : Nat)
  -- links, routing, runners, draining, the gang (R202–R245)
  | flitData (port : Nat) (f : Flit)
  | flitIdle (port : Nat) (f : Flit)
  | flitNak (port : Nat) (f : Flit)
  | flitHello (port : Nat) (f : Flit)
  | flitLanemap (port : Nat) (f : Flit)
  | nakRepeat (port : Nat)
  | laneFail (port lane : Nat) (cause : LaneCause)
  | lanemapRepeat (port : Nat)
  | laneMaskSwitch (port : Nat)
  | laneRetrain (port lane : Nat)
  | laneRestore (port lane : Nat)
  | portTrain (port : Nat) (locked : BitVec 8) (rtt : Nat)
  | helloSend (port : Nat)
  | portLossTimeout (port : Nat)
  | portRetrain (port : Nat) (locked : BitVec 8) (rtt : Nat)
  | linkRetrain (r : Requester) (port : Nat)
  | linkEnable (r : Requester) (port : Nat) (on : Bool)
  | packetForward (port vc wait : Nat)
  | unreach (pkt : Packet)
  | readReq (pkt : Packet) (e : Ecc)
  | writeReq (pkt : Packet)
  | resp (pkt : Packet)
  | requestResend (dev seq : Nat)
  | requestWithdrawTimeout (dev seq : Nat)
  | senderStateExpiry (dev : Nat)
  | rateLimitRaise (dev : Nat)
  | runSetup (pkt : Packet)
  | runSetupAnswer (runner : Nat) (ok : Bool)
  | runTeardown (pkt : Packet)
  | runData (port wait : Nat)
  | drain (r : Requester) (epoch : Nat)
  | drainComplete
  | drainTimeout
  | resume (r : Requester) (epoch : Nat)
  | protectedRegisterWrite (r : Requester) (off value : Nat)
  | gangBeaconSend
  | gangBeacon (pkt : Packet)
  | gangMasterTimeout
  | gangFollowTimeout
  -- chunks, sprue values, digests, notices (R246–R268)
  | chunkSend (plan : Nat) (e : Ecc)
  | chunk (ladle : Nat) (pkt : Packet) (e : Ecc)
  | chunkAck (pkt : Packet)
  | chunkResend (plan : Nat) (note : Bool) (ix : Nat) (e : Ecc)
  | sprue (pkt : Packet)
  | digestPacket (pkt : Packet)
  | notice (pkt : Packet)
  | verdictRound (plan : Nat)
  | collectiveStall (plan : Nat)
  | ldlAbort (r : Requester) (plan : Nat)
  -- Ethernet ports, RDMA, queue pairs, events (R271–R297)
  | hostLinkUp (port : Nat)
  | hostLinkDown (port : Nat)
  | hostPortRetrain (r : Requester) (port : Nat)
  | arpRequest (port addr : Nat)
  | neighborSolicitation (port addr : Nat)
  | pfcFrame (port cls : Nat) (pause : Bool)
  | foreignFrame
  | rdmaWriteMemory (h : Roce) (data : Bytes)
  | rdmaWriteDoorbell (h : Roce) (data : Bytes) (e : Ecc)
  | rdmaWriteRegister (h : Roce) (data : Bytes)
  | rdmaReadMemory (h : Roce) (len : Nat) (e : Ecc)
  | rdmaReadRegister (h : Roce) (len : Nat)
  | roceSend (h : Roce) (len : Nat)
  | rdmaReadResponse (qp psn : Nat)
  | roceAck (qp psn syn : Nat)
  | roceAckTimeout (qp : Nat)
  | cnp (qp : Nat)
  | cnpRateRaise (qp : Nat)
  | qpStateWrite (r : Requester) (qp state : Nat)
  | regionValidSet (r : Requester) (region : Nat)
  | evqConsumerWrite (r : Requester) (evq value : Nat)
  | eventRaise (value : Nat)
  | eventComplete (value : Nat)
  | eventBatch (group : Nat)
  | pfcPauseExpiry (port cls : Nat)
  -- power: samples, caps, setpoints, the gang budget (R300–R318, R432)
  | powerSample (watts vmain avail : Nat)
  | measurementFaultClear (gain : Nat)
  | powerEstimate (quads : List Nat) (other : Nat) (att : List (Consumer × Nat))
  | effectiveCapRecompute
  | capHostWrite (r : Requester) (watts : Nat)
  | capMgmtWrite (r : Requester) (watts : Nat)
  | setpointStep (quad rate : Nat)
  | pulsePeriod (quad n : Nat)
  | droopStart (quad : Nat)
  | droopEnd (quad us : Nat)
  | slackReport (slack : Nat)
  | gangPowerRound
  | slack (pkt : Packet)
  | alloc (pkt : Packet)
  | allocAck (pkt : Packet)
  | allocAckTimeout
  | capEmergAssert
  | capEmergRelease
  -- cooling: sensors, flow, throttles (R323–R335)
  | junctionSample (readings : List Int) (bad : List Nat)
  | packageSensorSample (readings : List Int) (bad : List Nat)
  | flowRecover
  | flowLossTimeout
  | thermalModelUpdate (watts : List Nat)
  | sensorImplausible (sensor : Nat)
  | sensorPlausible (sensor : Nat)
  | sensorDisagreeing (pair : Nat)
  | junctionThrottleTick (quad : Nat)
  | hbmThrottleTick (stack : Nat)
  | allowanceRise
  | trayStale
  -- resets, bring-up, tests, recovery (R340–R370, R433, R437)
  | por (straps : Nat)
  | bor
  | pinReset
  | pinResetRelease
  | wdtExpiry (limit : Bool)
  | lockUp
  | jtagReset
  | rstCmdL0 (r : Requester) (cell : Nat)
  | rstCmdL1 (r : Requester) (cluster : Nat)
  | rstCmdL2 (r : Requester) (part : Nat) (retrain : Bool)
  | rstCmdL3 (r : Requester)
  | idleReached (level unit : Nat)
  | idleTimeout (level unit : Nat)
  | resetComplete (level unit : Nat)
  | archivistBoot
  | hbmTrainingDone (stack : Nat) (ok : Bool)
  | ready
  | spareTestRound
  | suspectSlotTest (slot : Nat)
  | catSuspect (r : Requester) (cell : Nat)
  | catSlotClear (r : Requester) (slot : Nat)
  | cellStall (cell : Nat)
  | recoverCmd (r : Requester) (mask : Nat)
  | fenceDrainEnd (part : Nat)
  | hangRecordAssembled (part : Nat)
  | hangExportComplete (part : Nat)
  | hangExportTimeout (part n : Nat)
  | resetL2Failure (part : Nat)
  | vmainLoss
  | vmainRestore
  | refclkReturn
  | vbkpLoss
  | vbkpReturn
  -- twin operation (R373–R381)
  | twinFilterExpiry (pair part stream : Nat)
  | pourDigest (pkt : Packet)
  | range (pkt : Packet)
  | beat (pkt : Packet)
  | beatSend
  | leave (pkt : Packet)
  | diverged (pkt : Packet)
  | twinSilenceTimeout
  -- owner commands, presence, attestation, firmware update (R387–R415)
  | enrolKey (m : Novvan) (slot hash stuck : Nat) (sg : OwnerSig)
  | revokeSlot (m : Novvan) (slot stuck : Nat) (sg : OwnerSig)
  | programOwnerFuse (m : Novvan) (field value stuck : Nat) (sg : OwnerSig)
  | tightenPolicy (m : Novvan) (policy slots : Nat) (sg : OwnerSig)
  | relaxPolicy (m : Novvan) (policy slots : Nat) (sg : OwnerSig)
  | debugUnlockOwner (m : Novvan) (sg : OwnerSig)
  | debugUnlockVendor (m : Novvan) (key token : Bytes)
  | recoveryModeEntry (m : Novvan) (sg : OwnerSig)
  | clearAuditCounters (m : Novvan) (sg : OwnerSig)
  | acknowledgeSealBreak (m : Novvan) (sg : OwnerSig)
  | presenceAssertion
  | sealCheck (follows : Bool)
  | attestReportComplete (delayed : Bool)
  | arcLock (r : Requester)
  | folioHeader (m : Novvan) (data : Bytes)
  | folioData (m : Novvan) (ident ix : Nat) (data : Bytes) (stuck : Bool)
  | updateAbort (via : Via)
  | updateActivate (via : Via)
  | bankSyncComplete
  | ppNRelease
  -- I3C, MCTP, PLDM, Novvan, tray signals (R422–R433)
  | setdasa (static dyn : Nat)
  | rstdaa
  | setmrl (n : Nat)
  | setmwl (n : Nat)
  | setEndpointId (dst eid : Nat)
  | getEndpointId (dst : Nat)
  | getEndpointUuid (dst : Nat)
  | getMctpVersionSupport (dst type : Nat)
  | getMessageTypeSupport (dst : Nat)
  | mctpUnsupportedMessage
  | getTid
  | getPldmVersion (type : Nat)
  | getPldmTypes
  | getPldmCommands (type : Nat)
  | getPdrRepositoryInfo
  | getPdr
  | getSensorReading (n : Nat)
  | getStateSensorReadings (n : Nat)
  | pldmUnsupported (cmd : Nat)
  | keepalive (m : Novvan) (gen : Nat)
  | traySensors (m : Novvan) (inlet outlet : Int) (flow : Nat)
  | isolateNotice (m : Novvan) (cause : Nat)
  | isolateNoticeExpiry
  | regRead (m : Novvan) (addr n : Nat)
  | regWrite (m : Novvan) (addr : Nat) (values : List Nat)
  | bind (m : Novvan) (addrs : List Nat) (port qpn : Nat)
  | optionWrite (m : Novvan) (block : Bytes)
  | subscribe (m : Novvan) (mask : BitVec 256)
  | novvanReset (m : Novvan) (level part target : Nat) (retrain : Bool)
  | recover (m : Novvan) (mask : Nat)
  | capSet (m : Novvan) (watts : Nat)
  | novvanAttest (m : Novvan) (kind : Nat) (nonce : Bytes)
  | certChain (m : Novvan)
  | notificationReply (cmd tag : Nat)
  | notificationResend
  | replyExpiry (cmd tag : Nat)
  | orphanTimeout
  | events
  | strapSample (straps : Nat)
  | heartbeat
  | novvanReservedCommand (m : Novvan) (code : Nat)
  | replyRead (note : Bool) (cmd tag : Nat)
deriving DecidableEq, Repr

end Sys2Proof
end

