-- ==== Sys2Proof/Decode.lean ====
section
/-! DEFINITION. The command that a word of spec/opcode_table.json spells. -/

namespace Sys2Proof

/-- The table gives none of its rows any bits (every row's fields are empty), so no word spells a command. The 128-bit pattern
instructions of R98 are data of the device, decoded where a cell issues them (Machine/Operands.lean). -/
def decodeTableWord (_nbits _w : Nat) : Option Instr := none

end Sys2Proof
end

