-- ==== Sys2Proof/Config.lean ====
section
/-! DEFINITION. What the spec leaves open as a value, or names without the arithmetic: constants without a body, so that no proof
sees a value of them. -/

namespace Sys2Proof

/-- A free value: result number `k` of `w` bits (notes/assumptions/1). -/
opaque Config.freeValue (w : Nat) : Nat → BitVec w

/-- R114, R391: whether an SLH-DSA-SHA2-128s signature of a message verifies under the public key whose SHA-256 is `keyHash`
(notes/assumptions/10: FIPS 205's algorithm is outside the spec). -/
opaque Config.slhVerify (keyHash : Nat) (msg sig : Bytes) : Bool

/-- R386, R399: the SLH-DSA-SHA2-128f signature of a message by the attestation key derived from a 48-byte seed
(notes/assumptions/10). -/
opaque Config.slhSign (seed msg : Bytes) : Bytes

/-- R387: the four X.509 certificates of the chain of the device with a device secret and a unit ID, running an archivist_digest
(notes/assumptions/10). -/
opaque Config.certChain (secret unitId archivistDigest : Nat) : Bytes

/-- R390, R391: the code of an owner command and its payload, which no rule lays out (notes/assumptions/11): `k` is the command in the
order of R390's rows of the command table, `args` its operands. -/
opaque Config.ownerCode (k : Nat) : BitVec 16
opaque Config.ownerPayload (k : Nat) (args : List Nat) : Bytes

/-- R395: the message of a vendor unlock token bound to a unit ID (notes/assumptions/11). -/
opaque Config.unlockToken (unitId : Nat) : Bytes

/-- R405, R414: folio 0 and the image of component `c` as the factory stored them in both banks (notes/assumptions/5). -/
opaque Config.factoryFolio0 (c : Nat) : Bytes
opaque Config.factoryImage (c : Nat) : Bytes

/-- R308, R332: the step rate that 550 mV yields on this part, M steps/s (notes/assumptions/1). -/
opaque Config.rate550 : Nat

end Sys2Proof
end

