-- ==== Sys2Proof/Machine/Table.lean ====
section
/-! DEFINITION. Sparse tables (Sys2Proof.Word): read, write, clear a range. Every operation keeps the canonical form:
keys strictly rising, no entry equal to the value an unlisted key reads as. -/

namespace Sys2Proof.Machine

/-- What key `k` reads as; `d` when it is not listed. -/
def tget {α : Type} (d : α) : Tab α → Nat → α
  | [], _ => d
  | (k', v) :: t, k => if k' = k then v else tget d t k

/-- An entry in front of a table, left out when it equals the default. -/
def tcons {α : Type} [DecidableEq α] (d : α) (k : Nat) (v : α) (t : Tab α) : Tab α :=
  if v = d then t else (k, v) :: t

/-- Every listed key that satisfies `p` reads as the default again. -/
def tdrop {α : Type} (t : Tab α) (p : Nat → Bool) : Tab α :=
  t.filter (fun kv => !p kv.1)

/-- An entry put at its place in a table that does not list its key. -/
def tins {α : Type} [DecidableEq α] (d : α) (k : Nat) (v : α) : Tab α → Tab α
  | [] => tcons d k v []
  | (k', v') :: t => if k < k' then tcons d k v ((k', v') :: t) else (k', v') :: tins d k v t

/-- Writes key `k`. -/
def tset {α : Type} [DecidableEq α] (d : α) (t : Tab α) (k : Nat) (v : α) : Tab α :=
  tins d k v (tdrop t (fun j => j == k))

/-- Rewrites key `k` by a function. -/
def tup {α : Type} [DecidableEq α] (d : α) (t : Tab α) (k : Nat) (f : α → α) : Tab α :=
  tset d t k (f (tget d t k))

/-- Every listed key from `lo` up to but excluding `hi` reads as the default again. -/
def tclear {α : Type} (t : Tab α) (lo hi : Nat) : Tab α :=
  t.filter (fun kv => !(decide (lo ≤ kv.1) && decide (kv.1 < hi)))

/-- Every listed value changed by `f`, entries that become the default left out. -/
def tmap {α : Type} [DecidableEq α] (d : α) (f : Nat → α → α) : Tab α → Tab α
  | [] => []
  | (k, v) :: t => tcons d k (f k v) (tmap d f t)

/-- Consecutive keys from `k` written with the values of a list. -/
def tputs {α : Type} [DecidableEq α] (d : α) : Tab α → Nat → List α → Tab α
  | t, _, [] => t
  | t, k, v :: vs => tputs d (tset d t k v) (k + 1) vs

/-- Consecutive keys from `k` read into a list. -/
def tgets {α : Type} (d : α) (t : Tab α) : Nat → Nat → List α
  | _, 0 => []
  | k, n + 1 => tget d t k :: tgets d t (k + 1) n

/-- The canonical form: keys strictly rising from at least `lo`, no default entry. -/
def twf {α : Type} [DecidableEq α] (d : α) : Nat → Tab α → Bool
  | _, [] => true
  | lo, (k, v) :: t => decide (lo ≤ k) && decide (v ≠ d) && twf d (k + 1) t

end Sys2Proof.Machine
end

