-- ==== Sys2Proof/Machine/Bits.lean ====
section
/-! DEFINITION. Byte order (little-endian, R6), bit fields, saturating counts (R44), sign extension. -/

namespace Sys2Proof.Machine

/-- The low `n` bytes of `v`, lowest first (R6). -/
def leBytes : Nat → Nat → Bytes
  | 0, _ => []
  | n + 1, v => BitVec.ofNat 8 v :: leBytes n (v / 256)

/-- The value of a byte string, lowest byte first (R6). -/
def ofLe : Bytes → Nat
  | [] => 0
  | b :: bs => b.toNat + 256 * ofLe bs

/-- The value of a byte string, highest byte first (IP framing, digests in network order). -/
def ofBe (bs : Bytes) : Nat := bs.foldl (fun a b => a * 256 + b.toNat) 0

/-- `n` bytes at offset `o`; bytes beyond the end read as zero. -/
def slice (bs : Bytes) (o n : Nat) : Bytes :=
  let x := (bs.drop o).take n
  x ++ List.replicate (n - x.length) 0

/-- The little-endian value of `n` bytes at offset `o`. -/
def le (bs : Bytes) (o n : Nat) : Nat := ofLe (slice bs o n)

/-- R6: bits hi:lo of a value. -/
def fld (v hi lo : Nat) : Nat := (v / 2 ^ lo) % 2 ^ (hi + 1 - lo)

/-- Bit i of a value. -/
def bit (v i : Nat) : Bool := v / 2 ^ i % 2 == 1

/-- A Boolean as a bit. -/
def b2n (b : Bool) : Nat := if b then 1 else 0

/-- A value with bits hi:lo replaced. -/
def setFld (v hi lo x : Nat) : Nat :=
  v - fld v hi lo * 2 ^ lo + (x % 2 ^ (hi + 1 - lo)) * 2 ^ lo

/-- R44: an addition to a counter of `w` bits that saturates. -/
def satAdd (w a b : Nat) : Nat := if a + b < 2 ^ w then a + b else 2 ^ w - 1

/-- R44: whether the addition's exact result exceeds the counter's maximum. -/
def satOver (w a b : Nat) : Bool := decide (2 ^ w ≤ a + b)

/-- Two's complement field of `w` bits of an integer, clamped to its range. -/
def twos (w : Nat) (i : Int) : Nat :=
  let m : Int := 2 ^ (w - 1)
  let c := if i < -m then -m else if i ≥ m then m - 1 else i
  (c % (2 ^ w : Int)).toNat

/-- The integer of a two's complement field of `w` bits. -/
def ofTwos (w v : Nat) : Int := if v < 2 ^ (w - 1) then (v : Int) else (v : Int) - 2 ^ w

/-- The positions of the set bits among the low `n` bits, rising. -/
def bitsOf (n v : Nat) : List Nat := (List.range n).filter (fun i => bit v i)

/-- The value with exactly the bits of a list set. -/
def ofBits (l : List Nat) : Nat := l.foldl (fun a i => if bit a i then a else a + 2 ^ i) 0

/-- Whether every byte is zero. -/
def allZero (bs : Bytes) : Bool := bs.all (· == 0)

/-- ⌈a / b⌉. -/
def ceilDiv (a b : Nat) : Nat := (a + b - 1) / b

/-- A list cut into pieces of `n` (the last may be shorter); `fuel` bounds the number of pieces. -/
def chunksOf {α : Type} (n : Nat) : Nat → List α → List (List α)
  | 0, _ => []
  | _ + 1, [] => []
  | fuel + 1, l => l.take n :: chunksOf n fuel (l.drop n)

/-- Removes the first element that satisfies `p`. -/
def dropFirst {α : Type} (p : α → Bool) : List α → List α
  | [] => []
  | a :: l => if p a then l else a :: dropFirst p l

/-- Inserts a number into a rising list without repeats. -/
def insertNat (k : Nat) : List Nat → List Nat
  | [] => [k]
  | a :: l => if k < a then k :: a :: l else if k = a then a :: l else a :: insertNat k l

/-- Replaces every element that satisfies `p` by `f` of it. -/
def updWhere {α : Type} (p : α → Bool) (f : α → α) (l : List α) : List α :=
  l.map (fun a => if p a then f a else a)

end Sys2Proof.Machine
end

