-- ==== Sys2Proof/Machine/Arith.lean ====
section
/-! DEFINITION. Exact dyadic arithmetic, the IEEE formats (R70), one rounding to nearest even, FP32 operations
(R89–R92) and the four correctly rounded functions of R91. FP32 operations return the result's 32 bits and whether an
infinity arose from finite operands (R91's saturation). -/

namespace Sys2Proof.Machine

/-- An exact dyadic number m · 2^e. -/
structure Dy where
  m : Int
  e : Int
deriving DecidableEq, Repr

def Dy.zero : Dy := ⟨0, 0⟩

def Dy.mul (a b : Dy) : Dy := ⟨a.m * b.m, a.e + b.e⟩

def Dy.add (a b : Dy) : Dy :=
  if a.m = 0 then b
  else if b.m = 0 then a
  else
    let e := min a.e b.e
    ⟨a.m * 2 ^ (a.e - e).toNat + b.m * 2 ^ (b.e - e).toNat, e⟩

/-- A floating-point value before or after encoding; a finite one is ±m · 2^e. -/
inductive Fv where
  | nan
  | inf (neg : Bool)
  | fin (neg : Bool) (m : Nat) (e : Int)
deriving DecidableEq, Repr

/-- Sign and magnitude as a dyadic; NaN and infinities give zero (their readers treat them first). -/
def Fv.dy : Fv → Dy
  | .fin neg m e => ⟨if neg then -(m : Int) else m, e⟩
  | _ => Dy.zero

/-- R70: the value of a code with `eb` exponent and `mb` fraction bits, IEEE 754 style. -/
def ieeeVal (eb mb c : Nat) : Fv :=
  let neg := bit c (eb + mb)
  let ex := fld c (eb + mb - 1) mb
  let fr := c % 2 ^ mb
  let bias : Int := 2 ^ (eb - 1) - 1
  if ex = 2 ^ eb - 1 then (if fr = 0 then .inf neg else .nan)
  else if ex = 0 then .fin neg fr (1 - bias - mb)
  else .fin neg (fr + 2 ^ mb) ((ex : Int) - bias - mb)

/-- Rounds m · 2^e (plus something positive and smaller than its last bit when `sticky`) to nearest even in a grid of `mb`
fraction bits whose least exponent is `emin`; the answer is the magnitude code, subnormals kept, without an upper bound. -/
def roundMag (mb : Nat) (emin : Int) (m : Nat) (e : Int) (sticky : Bool) : Nat :=
  if m = 0 then 0
  else
    let q := max ((Nat.log2 m : Int) + e) emin - mb
    let base := (q - (emin - mb)).toNat * 2 ^ mb
    if q ≤ e then base + m * 2 ^ (e - q).toNat
    else
      let k := (q - e).toNat
      let hi := m / 2 ^ k
      let r := m % 2 ^ k
      let half := 2 ^ (k - 1)
      if half < r || (r == half && sticky) || (r == half && (base + hi) % 2 == 1) then base + hi + 1 else base + hi

/-- R70: encodes a finite value in an IEEE format, rounded to nearest even; the flag says it overflowed to infinity. -/
def ieeeRound (eb mb : Nat) (neg : Bool) (m : Nat) (e : Int) (sticky : Bool) : Nat × Bool :=
  let s := if neg then 2 ^ (eb + mb) else 0
  let top := (2 ^ eb - 1) * 2 ^ mb
  let c := roundMag mb (2 - 2 ^ (eb - 1)) m e sticky
  if top ≤ c then (s + top, true) else (s + c, false)

def canonNan : Nat := 0x7FC00000

def f32 (c : Nat) : Fv := ieeeVal 8 23 c

def f32Inf (neg : Bool) : Nat := if neg then 0xFF800000 else 0x7F800000

def f32Round (neg : Bool) (m : Nat) (e : Int) (sticky : Bool) : Nat × Bool := ieeeRound 8 23 neg m e sticky

/-- An exact dyadic rounded to FP32; zero takes the sign given. -/
def dyToF32 (d : Dy) (zneg : Bool) : Nat × Bool :=
  if d.m = 0 then (if zneg then 0x80000000 else 0, false) else f32Round (decide (d.m < 0)) d.m.natAbs d.e false

/-- R89, R91: FP32 addition. -/
def f32Add (a b : Nat) : Nat × Bool :=
  match f32 a, f32 b with
  | .nan, _ => (canonNan, false)
  | _, .nan => (canonNan, false)
  | .inf s, .inf t => (if s = t then f32Inf s else canonNan, false)
  | .inf s, _ => (f32Inf s, false)
  | _, .inf t => (f32Inf t, false)
  | .fin s m e, .fin t n f => dyToF32 (Dy.add (Fv.fin s m e).dy (Fv.fin t n f).dy) (s && t)

/-- An FP32 operand with its sign changed. -/
def f32Neg (a : Nat) : Nat := if 0x80000000 ≤ a then a - 0x80000000 else a + 0x80000000

/-- R91: FP32 multiplication. -/
def f32Mul (a b : Nat) : Nat × Bool :=
  match f32 a, f32 b with
  | .nan, _ => (canonNan, false)
  | _, .nan => (canonNan, false)
  | .inf s, .inf t => (f32Inf (s != t), false)
  | .inf s, .fin t n _ => (if n = 0 then canonNan else f32Inf (s != t), false)
  | .fin s m _, .inf t => (if m = 0 then canonNan else f32Inf (s != t), false)
  | .fin s m e, .fin t n f => dyToF32 (Dy.mul (Fv.fin s m e).dy (Fv.fin t n f).dy) (s != t)

/-- R91: fused multiply-add a · b + c, one rounding. -/
def f32Fma (a b c : Nat) : Nat × Bool :=
  match f32 a, f32 b, f32 c with
  | .fin s m e, .fin t n f, .fin u k g =>
    let p := Dy.mul (Fv.fin s m e).dy (Fv.fin t n f).dy
    dyToF32 (Dy.add p (Fv.fin u k g).dy) (p.m == 0 && k == 0 && (s != t) && u)
  | .fin _ _ _, .fin _ _ _, .inf u => (f32Inf u, false)
  | .fin _ _ _, .fin _ _ _, .nan => (canonNan, false)
  | _, _, _ =>
    match f32 (f32Mul a b).1, f32 c with
    | .inf s, .inf t => (if s = t then f32Inf s else canonNan, false)
    | .inf s, .fin _ _ _ => (f32Inf s, false)
    | _, _ => (canonNan, false)

/-- The order of R91's VMAX: sign-magnitude codes as integers, −0 below +0. -/
def f32Key (a : Nat) : Int := if 0x80000000 ≤ a then -((a - 0x80000000 : Nat) : Int) - 1 else a

def f32IsNan (a : Nat) : Bool := f32 a == .nan

/-- R91: VMAX. -/
def f32Max (a b : Nat) : Nat :=
  if f32IsNan a || f32IsNan b then canonNan else if f32Key a < f32Key b then b else a

/-- R91: VMIN. -/
def f32Min (a b : Nat) : Nat :=
  if f32IsNan a || f32IsNan b then canonNan else if f32Key b < f32Key a then b else a

/-- Fixed-point precision, in fraction bits, of the functions below. Every intermediate is off by less than 2^−240, far below
the distance from any FP32 operand's result to a rounding boundary (PRESUMED: notes/assumptions/9). -/
def fxP : Nat := 256

/-- Σ z^(2k+1) / (2k+1) from term `k`, in units of 2^−fxP: the inverse hyperbolic tangent's series. -/
def atanhSer : Nat → Nat → Nat → Nat → Nat
  | 0, _, _, _ => 0
  | fuel + 1, pw, z2, k => pw / k + atanhSer fuel (pw * z2 / 2 ^ fxP) z2 (k + 2)

/-- ln(a / b) for 1 ≤ a / b ≤ 2, in units of 2^−fxP. -/
def lnRatio (a b : Nat) : Nat :=
  let z := (a - b) * 2 ^ fxP / (a + b)
  2 * atanhSer 90 z (z * z / 2 ^ fxP) 1

/-- Σ y^k / k! from term `k`, in units of 2^−fxP. -/
def expSer : Nat → Nat → Nat → Nat → Nat
  | 0, _, _, _ => 0
  | fuel + 1, t, y, k => t + expSer fuel (t * y / (2 ^ fxP * k)) y (k + 1)

/-- Integer square root by bits, from bit `i − 1` down. -/
def sqrtBits (n : Nat) : Nat → Nat → Nat
  | 0, r => r
  | i + 1, r => if (r + 2 ^ i) * (r + 2 ^ i) ≤ n then sqrtBits n i (r + 2 ^ i) else sqrtBits n i r

/-- 2^x for a finite x of moderate size: 2^(n + f) with n = ⌊x⌋, rounded once. -/
def f32Exp2Fin (neg : Bool) (m : Nat) (e : Int) : Nat × Bool :=
  let num := if e < 0 then m else m * 2 ^ e.natAbs
  let den := if e < 0 then 2 ^ e.natAbs else 1
  let i := num / den
  let r := num % den
  let n : Int := if neg then (if r = 0 then -(i : Int) else -(i : Int) - 1) else i
  let f := if neg then (if r = 0 then 0 else den - r) else r
  if f = 0 then f32Round false 1 n false
  else f32Round false (expSer 70 (2 ^ fxP) (f * lnRatio 2 1 / den) 1) (n - fxP) true

/-- R91: exp2, rounded once. From 128 upward it overflows; below −151 the exact value rounds to +0. -/
def f32Exp2 (a : Nat) : Nat × Bool :=
  match f32 a with
  | .nan => (canonNan, false)
  | .inf neg => (if neg then 0 else f32Inf false, false)
  | .fin neg m e =>
    let big := if e < 0 then m / 2 ^ e.natAbs else m * 2 ^ min e.natAbs 10
    if m = 0 then (0x3F800000, false)
    else if !neg && decide (128 ≤ big) then (f32Inf false, true)
    else if neg && decide (151 ≤ big) then (0, false)
    else f32Exp2Fin neg m e

/-- R91: log2, rounded once. -/
def f32Log2 (a : Nat) : Nat × Bool :=
  match f32 a with
  | .nan => (canonNan, false)
  | .inf neg => (if neg then canonNan else f32Inf false, false)
  | .fin neg m e =>
    if m = 0 then (f32Inf true, false)
    else if neg then (canonNan, false)
    else
      let l := Nat.log2 m
      let k : Int := (l : Int) + e
      if m = 2 ^ l then dyToF32 ⟨k, 0⟩ false
      else
        let fr := lnRatio m (2 ^ l) * 2 ^ fxP / lnRatio 2 1
        let v : Int := k * 2 ^ fxP + fr
        f32Round (decide (v < 0)) (if v < 0 then v.natAbs - 1 else v.natAbs) (-(fxP : Int)) true

/-- R91: reciprocal, rounded once. -/
def f32Rcp (a : Nat) : Nat × Bool :=
  match f32 a with
  | .nan => (canonNan, false)
  | .inf neg => (if neg then 0x80000000 else 0, false)
  | .fin neg m e =>
    if m = 0 then (f32Inf neg, false)
    else f32Round neg (2 ^ 64 / m) (-64 - e) (2 ^ 64 % m != 0)

/-- R91: reciprocal square root, rounded once. -/
def f32Rsqrt (a : Nat) : Nat × Bool :=
  match f32 a with
  | .nan => (canonNan, false)
  | .inf neg => (if neg then canonNan else 0, false)
  | .fin neg m e =>
    if m = 0 then (f32Inf neg, false)
    else if neg then (canonNan, false)
    else
      let m' := if e % 2 = 0 then m else 2 * m
      let e' := if e % 2 = 0 then e else e - 1
      let q := sqrtBits (2 ^ 160 / m') 81 0
      f32Round false q (-80 - e' / 2) (q * q * m' != 2 ^ 160)

/-- R70: FP32 bits converted to another IEEE format; the flag is the overflow that counts one saturation. -/
def f32To (eb mb : Nat) (a : Nat) : Nat × Bool :=
  let s := 2 ^ (eb + mb)
  let top := (2 ^ eb - 1) * 2 ^ mb
  match f32 a with
  | .nan => (top + 2 ^ (mb - 1), false)
  | .inf neg => ((if neg then s else 0) + top, false)
  | .fin neg m e => if m = 0 then (if neg then s else 0, false) else ieeeRound eb mb neg m e false

end Sys2Proof.Machine
end

