-- ==== Sys2Proof/Machine/Formats.lean ====
section
/-! DEFINITION. Reading every format of R56: element values (R60–R70), malformed fields (R72), block and group geometry
(R57, R94). Values are exact; the ledger counts of a read are returned beside them. -/

namespace Sys2Proof.Machine

/-- The three ledger counts of R75. -/
structure Led where
  sat : Nat
  nan : Nat
  inv : Nat
deriving DecidableEq, Repr

def Led.zero : Led := ⟨0, 0, 0⟩

def Led.add (a b : Led) : Led := ⟨a.sat + b.sat, a.nan + b.nan, a.inv + b.inv⟩

def Led.sum (l : List Led) : Led := l.foldl Led.add Led.zero

/-- R56: the format codes. -/
def fmtDefined (f : Nat) : Bool :=
  [0x01, 0x02, 0x03, 0x04, 0x05, 0x10, 0x11, 0x12, 0x13, 0x14, 0x15, 0x20, 0x21, 0x30, 0x31, 0x32].contains f

def fmtIfeb (f : Nat) : Bool := decide (1 ≤ f) && decide (f ≤ 5)

def fmtMx (f : Nat) : Bool := decide (0x10 ≤ f) && decide (f ≤ 0x15)

/-- R56: narrow formats, 0x01–0x21. -/
def fmtNarrow (f : Nat) : Bool := fmtDefined f && decide (f ≤ 0x21)

def fmtIeee (f : Nat) : Bool := decide (0x30 ≤ f) && decide (f ≤ 0x32)

/-- R56, R94: bits per element as stored in the element field. -/
def fmtBits (f : Nat) : Nat :=
  match f with
  | 0x01 => 4 | 0x02 => 3 | 0x03 => 2 | 0x04 => 2 | 0x10 => 4 | 0x11 => 6 | 0x12 => 6 | 0x13 => 8 | 0x14 => 8 | 0x15 => 8
  | 0x20 => 8 | 0x21 => 8 | 0x30 => 16 | 0x31 => 16 | 0x32 => 32 | _ => 0

/-- Bytes that 256 elements occupy in a carrel: one Ifebrisa block (R56), one MX group (R94), or plain elements. -/
def groupBytes (f : Nat) : Nat :=
  match f with
  | 0x01 => 144 | 0x02 => 112 | 0x03 => 80 | 0x04 => 80 | 0x05 => 64
  | 0x10 => 144 | 0x11 => 208 | 0x12 => 208 | 0x13 => 272 | 0x14 => 272 | 0x15 => 272
  | 0x20 => 256 | 0x21 => 256 | 0x30 => 512 | 0x31 => 512 | 0x32 => 1024 | _ => 0

/-- R99: matrix and vector operands are 64-byte aligned, block operands 16-byte aligned. -/
def fmtAlign (f : Nat) : Nat := if fmtIfeb f || fmtMx f then 16 else 64

/-- Exponent and fraction bits of the float element formats (R67, R69, R70). -/
def fmtFloat (f : Nat) : Nat × Nat :=
  match f with
  | 0x10 => (2, 1) | 0x11 => (2, 3) | 0x12 => (3, 2) | 0x13 => (4, 3) | 0x14 => (5, 2) | 0x20 => (4, 3) | 0x21 => (5, 2)
  | 0x30 => (8, 7) | 0x31 => (5, 10) | _ => (8, 23)

/-- A signed magnitude as a dyadic. -/
def sgn (neg : Bool) (m : Nat) (e : Int) : Dy := ⟨if neg then -(m : Int) else m, e⟩

/-- R61, R67: an element of a format without NaN or infinity codes. -/
def elemPlain (eb mb c : Nat) : Dy :=
  let neg := bit c (eb + mb)
  let ex := fld c (eb + mb - 1) mb
  let fr := c % 2 ^ mb
  let bias : Int := 2 ^ (eb - 1) - 1
  if ex = 0 then sgn neg fr (1 - bias - mb) else sgn neg (fr + 2 ^ mb) ((ex : Int) - bias - mb)

/-- R67, R69: an E4M3 element: value, or none for a NaN code. -/
def elemE4m3 (c : Nat) : Option Dy := if c % 128 = 127 then none else some (elemPlain 4 3 c)

/-- R67, R69, R72: one FP8 or MX float element: value and counts. An E5M2 infinity reads as ±57,344. -/
def elemFloat (f c : Nat) : Dy × Led :=
  let (eb, mb) := fmtFloat f
  if f = 0x13 || f = 0x20 then
    match elemE4m3 c with
    | none => (Dy.zero, ⟨0, 1, 0⟩)
    | some d => (d, Led.zero)
  else if f = 0x14 || f = 0x21 then
    match ieeeVal 5 2 c with
    | .nan => (Dy.zero, ⟨0, 1, 0⟩)
    | .inf neg => (sgn neg 57344 0, ⟨1, 0, 0⟩)
    | .fin neg m e => (sgn neg m e, Led.zero)
  else (elemPlain eb mb c, Led.zero)

/-- R87: an IEEE operand element in the matrix array: NaN reads as zero, an infinity as the largest finite value. -/
def elemIeeeMat (f c : Nat) : Dy × Led :=
  let (eb, mb) := fmtFloat f
  match ieeeVal eb mb c with
  | .nan => (Dy.zero, ⟨0, 1, 0⟩)
  | .inf neg => (sgn neg (2 ^ (mb + 1) - 1) (2 ^ (eb - 1) - 1 - mb), ⟨1, 0, 0⟩)
  | .fin neg m e => (sgn neg m e, Led.zero)

/-- 256 (or fewer) element codes of `w` bits from a packed field (R58, R68). -/
def codes (w n v : Nat) : List Nat := (List.range n).map (fun i => v / 2 ^ (w * i) % 2 ^ w)

/-- One decoded element: exact value, whether a marginalia entry gave it, and its sign of zero for IEEE reads. -/
structure El where
  v    : Fv
  marg : Bool
deriving DecidableEq, Repr

def El.dy (x : El) : Dy := x.v.dy

def El.ofDy (d : Dy) (marg : Bool) : El := ⟨.fin (decide (d.m < 0)) d.m.natAbs d.e, marg⟩

def elZero : El := El.ofDy Dy.zero false

/-- R62: the entry that takes effect for element `i`: the highest of the read entries that names it. -/
def margOf (entries : List (Nat × Nat)) (i : Nat) : Option Nat :=
  entries.foldl (fun a e => if e.1 = i then some e.2 else a) none

/-- R62, R64: the marginalia entries read: header count, first entry, bytes per entry. -/
def margList (b : Bytes) (hdr step : Nat) : List (Nat × Nat) :=
  (List.range (le b hdr 1 % 4)).map (fun m => (le b (hdr + 1 + step * m) 1, le b (hdr + 2 + step * m) (step - 1)))

/-- A marginalia value times the block scale: value and NaN count (R62, R65). -/
def margVal (d : Option Dy) (scale : Dy) : El × Led :=
  match d with
  | none => (El.ofDy Dy.zero true, ⟨0, 1, 0⟩)
  | some x => (El.ofDy (Dy.mul x scale) true, Led.zero)

/-- R60–R63: an IF4 (`w = 4`) or IF3 (`w = 3`) block. -/
def decIf (w : Nat) (b : Bytes) : List El × Led :=
  let nb := 32 * w
  let coarse := le b (nb + 8) 1
  if coarse = 0xFF then (List.replicate 256 elZero, ⟨0, 1, 0⟩)
  else
    let cs : Dy := ⟨1, (coarse : Int) - 127⟩
    let ms := margList b (nb + 9) 2
    let cv := codes w 256 (le b 0 nb)
    let fines := codes 4 16 (le b nb 8)
    let es := cv.zipIdx.map (fun (c, i) =>
      match margOf ms i with
      | some x => margVal (elemE4m3 x) cs
      | none =>
        let mag := if w = 4 then elemPlain 2 1 c
                   else sgn (bit c 2) (match c % 4 with | 0 => 0 | 1 => 1 | 2 => 2 | _ => 4) 0
        (El.ofDy (Dy.mul (Dy.mul mag ⟨1, (fines.getD (i / 16) 0 : Int) - 8⟩) cs) false, Led.zero))
    (es.map (·.1), Led.sum (es.map (·.2)))

/-- R65: the value of a 2-bit element code; none: invalid. -/
def twoBit (is2 : Bool) (c : Nat) : Option Int :=
  match c with
  | 0 => some 0
  | 1 => some 1
  | 2 => if is2 then some (-2) else none
  | _ => some (-1)

/-- R66: the value of digit `t` of a TP5 byte; none: invalid. -/
def trit (byte t : Nat) : Option Int :=
  if 243 ≤ byte then none
  else match byte / 3 ^ t % 3 with | 0 => some 0 | 1 => some 1 | _ => some (-1)

/-- R64–R66: an IT2, IS2 or TP5 block. -/
def decTern (f : Nat) (b : Bytes) : List El × Led :=
  let nb := if f = 5 then 52 else 64
  match ieeeVal 8 7 (le b nb 2) with
  | .fin neg m e =>
    let scale := sgn neg m e
    let ms := margList b (nb + 2) 3
    let cv := codes 2 256 (le b 0 64)
    let es := (List.range 256).map (fun i =>
      match margOf ms i with
      | some x =>
        margVal (match ieeeVal 8 7 x with | .fin n k g => some (sgn n k g) | _ => none) scale
      | none =>
        match (if f = 5 then trit (le b (i / 5) 1) (i % 5) else twoBit (f == 4) (cv.getD i 0)) with
        | none => (elZero, ⟨0, 0, 1⟩)
        | some k => (El.ofDy (Dy.mul ⟨k, 0⟩ scale) false, Led.zero))
    (es.map (·.1), Led.sum (es.map (·.2)))
  | _ => (List.replicate 256 elZero, ⟨0, 1, 0⟩)

/-- R67: one MX block of 32 codes under a scale byte. -/
def decMxBlock (f s : Nat) (cs : List Nat) : List El × Led :=
  if s = 0xFF then (cs.map (fun _ => elZero), ⟨0, 1, 0⟩)
  else
    let es := cs.map (fun c =>
      let (d, l) := if f = 0x15 then ((⟨ofTwos 8 c, -6⟩ : Dy), Led.zero) else elemFloat f c
      (El.ofDy (Dy.mul d ⟨1, (s : Int) - 127⟩) false, l))
    (es.map (·.1), Led.sum (es.map (·.2)))

/-- R67, R68: MX blocks from an element array and their scale bytes. -/
def decMx (f : Nat) (elems scales : Bytes) : List El × Led :=
  let w := fmtBits f
  let cs := codes w (32 * scales.length) (ofLe elems)
  let bs := scales.zipIdx.map (fun (s, k) => decMxBlock f s.toNat ((cs.drop (32 * k)).take 32))
  (bs.flatMap (·.1), Led.sum (bs.map (·.2)))

/-- R69, R70: plain elements. `mat`: in the matrix array IEEE specials read as finite values (R87). -/
def decPlain (f : Nat) (mat : Bool) (b : Bytes) : List El × Led :=
  let w := fmtBits f
  let cs := codes w (8 * b.length / w) (ofLe b)
  let es := cs.map (fun c =>
    if f = 0x20 || f = 0x21 then let (d, l) := elemFloat f c; (El.ofDy d false, l)
    else if mat then let (d, l) := elemIeeeMat f c; (El.ofDy d false, l)
    else let (eb, mb) := fmtFloat f; (⟨ieeeVal eb mb c, false⟩, Led.zero))
  (es.map (·.1), Led.sum (es.map (·.2)))

/-- 256 elements as a carrel holds them: an Ifebrisa block, an MX group (R94) or plain elements. -/
def dec256 (f : Nat) (mat : Bool) (b : Bytes) : List El × Led :=
  if f = 1 then decIf 4 b
  else if f = 2 then decIf 3 b
  else if fmtIfeb f then decTern f b
  else if fmtMx f then decMx f (b.take (32 * fmtBits f)) (slice b (32 * fmtBits f) 8)
  else decPlain f mat (b.take (groupBytes f))

/-- R71: an element converted to FP32: exact, else rounded to nearest even and saturated with one count; IEEE NaNs become
the canonical NaN and infinities pass (R70). -/
def elToF32 (x : El) : Nat × Led :=
  match x.v with
  | .nan => (canonNan, Led.zero)
  | .inf neg => (f32Inf neg, Led.zero)
  | .fin neg m e =>
    if m = 0 then (if neg then 0x80000000 else 0, Led.zero)
    else
      match f32Round neg m e false with
      | (_, true) => (if neg then 0xFF7FFFFF else 0x7F7FFFFF, ⟨1, 0, 0⟩)
      | (c, false) => (c, Led.zero)

end Sys2Proof.Machine
end

