-- ==== Sys2Proof/Machine/Quant.lean ====
section
/-! DEFINITION. Writing narrow formats: the quantiser of R73–R81 and R452, used by VQNT and by the near-memory transcoder. -/

namespace Sys2Proof.Machine

/-- An exact non-negative rational num / den. -/
structure Rat0 where
  num : Nat
  den : Nat
deriving DecidableEq, Repr

def Rat0.le (a b : Rat0) : Bool := decide (a.num * b.den ≤ b.num * a.den)

def Rat0.lt (a b : Rat0) : Bool := decide (a.num * b.den < b.num * a.den)

/-- m · 2^e as a rational. -/
def Rat0.ofDy (m : Nat) (e : Int) : Rat0 := if e < 0 then ⟨m, 2 ^ e.natAbs⟩ else ⟨m * 2 ^ e.natAbs, 1⟩

def Rat0.zero : Rat0 := ⟨0, 1⟩

def Rat0.div (a b : Rat0) : Rat0 := ⟨a.num * b.den, a.den * b.num⟩

/-- Times 2^e. -/
def Rat0.scale (a : Rat0) (e : Int) : Rat0 :=
  if e < 0 then ⟨a.num, a.den * 2 ^ e.natAbs⟩ else ⟨a.num * 2 ^ e.natAbs, a.den⟩

/-- ⌊log2⌋ of a positive rational. -/
def Rat0.log2 (a : Rat0) : Int :=
  let g : Int := (Nat.log2 a.num : Int) - Nat.log2 a.den
  if (Rat0.ofDy 1 g).le a then g else g - 1

/-- The smallest integer e with a ≤ 2^e, for a positive rational. -/
def Rat0.clog2 (a : Rat0) : Int :=
  let f := a.log2
  if a.le (Rat0.ofDy 1 f) then f else f + 1

def Rat0.max (a b : Rat0) : Rat0 := if a.lt b then b else a

/-- R74: a quantiser input: sign and magnitude, no magnitude for an infinity. -/
structure QIn where
  neg : Bool
  mag : Option Rat0
deriving DecidableEq, Repr

/-- R74: a NaN input becomes zero and counts one NaN input. -/
def qIn : Fv → QIn × Led
  | .nan => (⟨false, some Rat0.zero⟩, ⟨0, 1, 0⟩)
  | .inf neg => (⟨neg, none⟩, Led.zero)
  | .fin neg m e => (⟨neg && m != 0, some (Rat0.ofDy m e)⟩, Led.zero)

/-- A magnitude grid: fraction bits, least exponent, whether it is the integers, code of the largest magnitude. A code is the
rank of its magnitude; ties go to the even code (R73), the notional point being the code after the largest (R452). -/
structure Grid where
  mb   : Nat
  emin : Int
  int  : Bool
  top  : Nat
deriving DecidableEq, Repr

/-- Grids of R61, R63, R65, R67. -/
def gridE2m1 : Grid := ⟨1, 0, false, 7⟩
def gridIf3 : Grid := ⟨0, 0, false, 3⟩
def gridE4m3 : Grid := ⟨3, -6, false, 126⟩
def gridBf16 : Grid := ⟨7, -126, false, 0x7F7F⟩
def gridInt (top : Nat) : Grid := ⟨0, 0, true, top⟩

def gridOf (f : Nat) : Grid :=
  match f with
  | 0x10 => gridE2m1 | 0x11 => ⟨3, 0, false, 31⟩ | 0x12 => ⟨2, -2, false, 31⟩ | 0x13 => gridE4m3 | 0x14 => ⟨2, -14, false, 123⟩
  | 0x15 => gridInt 127 | 0x20 => gridE4m3 | _ => ⟨2, -14, false, 123⟩

/-- R81: mix. -/
def srMix (z : BitVec 64) : BitVec 64 :=
  let a := (z ^^^ (z >>> 30)) * 0xBF58476D1CE4E5B9#64
  let b := (a ^^^ (a >>> 27)) * 0x94D049BB133111EB#64
  b ^^^ (b >>> 31)

/-- R81: the 32-bit draw of a seed, a tensor ID and a 40-bit element index. -/
def srDraw (seed : BitVec 64) (tensor index : Nat) : Nat :=
  let z := srMix (seed ^^^ BitVec.ofNat 64 (index % 2 ^ 40))
  ((srMix (z ^^^ (BitVec.ofNat 64 (tensor % 2 ^ 32) <<< 32))) >>> 32).toNat

/-- R80: what stochastic rounding draws from; none: rounding to nearest. -/
structure Sr where
  seed   : BitVec 64
  tensor : Nat
  base   : Nat
deriving DecidableEq, Repr

/-- R73, R74, R80, R452: the code of a magnitude `y` (in units of the element's scale) and whether it saturates. -/
def gridRound (g : Grid) (y : Rat0) (draw : Option Nat) : Nat × Bool :=
  if y.num = 0 then (0, false)
  else
    let u : Int := if g.int then 0 else max y.log2 g.emin - g.mb
    let q := y.scale (-u)
    let k := q.num / q.den
    let r := q.num % q.den
    let lo := if g.int then k else (u - (g.emin - g.mb)).toNat * 2 ^ g.mb + k
    if r = 0 then (if g.top < lo then (g.top, true) else (lo, false))
    else
      match draw with
      | some d =>
        if g.top ≤ lo then (g.top, true)
        else (if d < r * 2 ^ 32 / q.den then lo + 1 else lo, false)
      | none =>
        let c := if q.den < 2 * r || (2 * r == q.den && lo % 2 == 1) then lo + 1 else lo
        if g.top < c then (g.top, true) else (c, false)

/-- One element at its position: an infinity takes the largest magnitude and counts (R74). -/
def qElem (g : Grid) (scale : Rat0) (x : QIn) (sr : Option Sr) (i : Nat) : Nat × Led :=
  match x.mag with
  | none => (g.top, ⟨1, 0, 0⟩)
  | some m =>
    let (c, s) := gridRound g (m.div scale) (sr.map (fun r => srDraw r.seed r.tensor (r.base + i)))
    (c, ⟨b2n s, 0, 0⟩)

/-- Packs codes of `w` bits, first code lowest (R58, R68). -/
def packCodes (w : Nat) : List Nat → Nat
  | [] => 0
  | c :: cs => c % 2 ^ w + 2 ^ w * packCodes w cs

/-- R77: the largest remaining finite element (lowest index on equal magnitude). -/
def qLargest (l : List (Nat × QIn)) : Option (Nat × Rat0) :=
  l.foldl (fun a (i, x) =>
    match x.mag, a with
    | none, _ => a
    | some m, none => some (i, m)
    | some m, some (_, b) => if b.lt m then some (i, m) else a) none

/-- The largest magnitude of a list of inputs, infinities left out. -/
def qMax (l : List (Nat × QIn)) : Rat0 := match qLargest l with | none => Rat0.zero | some (_, m) => m

/-- R77: marginalia extraction, at most `fuel` entries, ratio `M`; `wide`: compared over the block. -/
def qTake (ratio : Nat) (wide : Bool) : Nat → List (Nat × QIn) → List Nat
  | 0, _ => []
  | fuel + 1, l =>
    match qLargest l with
    | none => []
    | some (i, m) =>
      if m.num = 0 then []
      else
        let rest := l.filter (fun x => x.1 != i)
        let b := qMax (rest.filter (fun x => wide || x.1 / 16 == i / 16))
        if (⟨b.num * ratio, b.den⟩ : Rat0).le m then i :: qTake ratio wide fuel rest else []

/-- A code with its sign bit at `w - 1`; zero is written with the sign clear (R69). -/
def signed (w : Nat) (neg : Bool) (c : Nat) : Nat := if neg && c != 0 then c + 2 ^ (w - 1) else c

def qAt (xs : List QIn) (i : Nat) : QIn := xs.getD i ⟨false, some Rat0.zero⟩

/-- The marginalia entries of a block, in order of taking (R77): `vb` value bytes each, grid and scale given. -/
def qMargs (g : Grid) (vb : Nat) (scale : Rat0) (xs : List QIn) (taken : List Nat) (sr : Option Sr) : Bytes × Led :=
  let es := taken.map (fun i =>
    let x := qAt xs i
    let (c, l) := qElem g scale x sr i
    (leBytes 1 i ++ leBytes vb (signed (8 * vb) x.neg c), l))
  ((es.flatMap (·.1)) ++ List.replicate ((3 - taken.length) * (vb + 1)) 0, Led.sum (es.map (·.2)))

/-- R60, R63, R76: an IF4 (`w = 4`) or IF3 (`w = 3`) block. -/
def qIf (w : Nat) (xs : List QIn) (taken : List Nat) (sr : Option Sr) : Bytes × Led :=
  let g := if w = 4 then gridE2m1 else gridIf3
  let topv : Nat := if w = 4 then 6 else 4
  let ix := xs.zipIdx.map (fun (x, i) => (i, x))
  let plain := ix.filter (fun x => !taken.contains x.1)
  let eg : List (Option Int) := (List.range 16).map (fun k =>
    let a := qMax (plain.filter (fun x => x.1 / 16 == k))
    if a.num = 0 then none else some (Rat0.clog2 ⟨a.num, a.den * topv⟩))
  let needs : List Int :=
    (eg.filterMap (fun e => e.map (· + 120))) ++
    (taken.filterMap (fun i => (qAt xs i).mag.map (fun m => Rat0.clog2 ⟨m.num, m.den * 448⟩ + 127)))
  let c : Int := match needs with | [] => 127 | n :: ns => min (max (ns.foldl max n) 0) 254
  let fines : List Nat := eg.map (fun e => match e with | none => 0 | some e => (min (max (e - (c - 127) + 8) 0) 15).toNat)
  let es := ix.map (fun (i, x) =>
    if taken.contains i then (0, Led.zero)
    else
      let (k, l) := qElem g (Rat0.ofDy 1 (c - 127 + (fines.getD (i / 16) 0 : Int) - 8)) x sr i
      (signed w x.neg k, l))
  let (mb, ml) := qMargs gridE4m3 1 (Rat0.ofDy 1 (c - 127)) xs taken sr
  (leBytes (32 * w) (packCodes w (es.map (·.1))) ++ leBytes 8 (packCodes 4 fines) ++ leBytes 1 c.toNat ++
    leBytes 1 taken.length ++ mb, Led.add (Led.sum (es.map (·.2))) ml)

/-- R78: the BF16 scale code of a ternary or IS2 block. -/
def qScale (f : Nat) (plain : List (Nat × QIn)) : Nat :=
  match qLargest plain with
  | none => 0x3F80
  | some (i, m) =>
    let neg := match plain.find? (fun x => x.1 == i) with | some (_, x) => x.neg | none => false
    let t : Rat0 := if f = 4 && neg then ⟨m.num, m.den * 2⟩ else m
    let (c, _) := gridRound gridBf16 t none
    if c = 0 then 0x3F80 else c

/-- R64–R66, R78: an IT2, IS2 or TP5 block. -/
def qTern (f : Nat) (xs : List QIn) (taken : List Nat) (sr : Option Sr) : Bytes × Led :=
  let ix := xs.zipIdx.map (fun (x, i) => (i, x))
  let sc := qScale f (ix.filter (fun x => !taken.contains x.1))
  let scale : Rat0 := match ieeeVal 8 7 sc with | .fin _ m e => Rat0.ofDy m e | _ => Rat0.zero
  let es := ix.map (fun (i, x) =>
    if taken.contains i then ((false, 0), Led.zero)
    else
      let (k, l) := qElem (gridInt (if f = 4 && x.neg then 2 else 1)) scale x sr i
      ((x.neg, k), l))
  let two : Bool × Nat → Nat := fun (neg, k) => if k = 0 then 0 else if k = 2 then 2 else if neg then 3 else 1
  let dig : Bool × Nat → Nat := fun (neg, k) => if k = 0 then 0 else if neg then 2 else 1
  let body :=
    if f = 5 then
      (chunksOf 5 52 (es.map (fun x => dig x.1))).map (fun ds => BitVec.ofNat 8 (ds.foldr (fun d a => d + 3 * a) 0))
    else leBytes 64 (packCodes 2 (es.map (fun x => two x.1)))
  let (mb, ml) := qMargs gridBf16 2 scale xs taken sr
  (body ++ leBytes 2 sc ++ leBytes 1 taken.length ++ mb ++ (if f = 5 then [] else List.replicate 4 0),
    Led.add (Led.sum (es.map (·.2))) ml)

/-- R67: emax. -/
def mxEmax (f : Nat) : Int :=
  match f with | 0x10 => 2 | 0x11 => 2 | 0x12 => 4 | 0x13 => 8 | 0x14 => 15 | _ => 0

/-- R79: one MX block: element codes, scale byte, counts. `b`: the block's first element index. -/
def qMxBlock (f : Nat) (b : Nat) (xs : List QIn) (sr : Option Sr) : List Nat × Nat × Led :=
  let a := qMax (xs.zipIdx.map (fun (x, i) => (i, x)))
  let x : Int := if a.num = 0 then 0 else min (max (a.log2 - mxEmax f) (-127)) 127
  let unit := Rat0.ofDy 1 (if f = 0x15 then x - 6 else x)
  let w := fmtBits f
  let es := xs.zipIdx.map (fun (q, i) =>
    let (c, l) := qElem (gridOf f) unit q sr (b + i)
    (if f = 0x15 then (if q.neg then (256 - c) % 256 else c) else signed w q.neg c, l))
  (es.map (·.1), (x + 127).toNat, Led.sum (es.map (·.2)))

/-- R79: an MX tensor piece: element array, scale bytes, counts. -/
def qMx (f : Nat) (xs : List QIn) (sr : Option Sr) : Bytes × Bytes × Led :=
  let bs := (chunksOf 32 (xs.length / 32) xs).zipIdx.map (fun (l, k) => qMxBlock f (32 * k) l sr)
  let cs := bs.flatMap (·.1)
  (leBytes (cs.length * fmtBits f / 8) (packCodes (fmtBits f) cs), bs.map (fun x => BitVec.ofNat 8 x.2.1),
    Led.sum (bs.map (fun x => x.2.2)))

/-- R69, R79: FP8 without a block. -/
def qFp8 (f : Nat) (xs : List QIn) (sr : Option Sr) : Bytes × Led :=
  let es := xs.zipIdx.map (fun (x, i) =>
    let (c, l) := qElem (gridOf f) ⟨1, 1⟩ x sr i
    (BitVec.ofNat 8 (signed 8 x.neg c), l))
  (es.map (·.1), Led.sum (es.map (·.2)))

/-- R93: quantises values into a narrow format: bytes, scale bytes (MX only), counts. `ratio` 0: no marginalia. Ifebrisa formats
take 256 values. -/
def quantise (f ratio : Nat) (vals : List Fv) (sr : Option Sr) : Bytes × Bytes × Led :=
  let ins := vals.map qIn
  let xs := ins.map (·.1)
  let l0 := Led.sum (ins.map (·.2))
  let taken := if ratio = 0 then [] else qTake ratio (decide (3 ≤ f)) 3 (xs.zipIdx.map (fun (x, i) => (i, x)))
  if f = 1 || f = 2 then
    let (b, l) := qIf (if f = 1 then 4 else 3) xs taken sr
    (b, [], Led.add l0 l)
  else if fmtIfeb f then
    let (b, l) := qTern f xs taken sr
    (b, [], Led.add l0 l)
  else if fmtMx f then
    let (b, s, l) := qMx f xs sr
    (b, s, Led.add l0 l)
  else
    let (b, l) := qFp8 f xs sr
    (b, [], Led.add l0 l)

/-- R94: one MX group from its element array and eight scale bytes. -/
def mxGroup (elems scales : Bytes) : Bytes :=
  let b := elems ++ scales
  b ++ List.replicate ((16 - b.length % 16) % 16) 0

end Sys2Proof.Machine
end

