-- ==== Sys2Proof/Machine/Hash.lean ====
section
/-! DEFINITION. Hashes and check sums: SHA-256 (FIPS 180-4), HMAC and HKDF over it (R386), CRC-32C and CRC-32 (R203, R256),
the 64-bit mix terms of R259 and R377. A digest is held as the little-endian number of its 32 bytes (R6). -/

namespace Sys2Proof.Machine

def sha256K : List Nat :=
  [0x428a2f98, 0x71374491, 0xb5c0fbcf, 0xe9b5dba5, 0x3956c25b, 0x59f111f1, 0x923f82a4, 0xab1c5ed5,
   0xd807aa98, 0x12835b01, 0x243185be, 0x550c7dc3, 0x72be5d74, 0x80deb1fe, 0x9bdc06a7, 0xc19bf174] ++
  [0xe49b69c1, 0xefbe4786, 0x0fc19dc6, 0x240ca1cc, 0x2de92c6f, 0x4a7484aa, 0x5cb0a9dc, 0x76f988da,
   0x983e5152, 0xa831c66d, 0xb00327c8, 0xbf597fc7, 0xc6e00bf3, 0xd5a79147, 0x06ca6351, 0x14292967] ++
  [0x27b70a85, 0x2e1b2138, 0x4d2c6dfc, 0x53380d13, 0x650a7354, 0x766a0abb, 0x81c2c92e, 0x92722c85,
   0xa2bfe8a1, 0xa81a664b, 0xc24b8b70, 0xc76c51a3, 0xd192e819, 0xd6990624, 0xf40e3585, 0x106aa070] ++
  [0x19a4c116, 0x1e376c08, 0x2748774c, 0x34b0bcb5, 0x391c0cb3, 0x4ed8aa4a, 0x5b9cca4f, 0x682e6ff3,
   0x748f82ee, 0x78a5636f, 0x84c87814, 0x8cc70208, 0x90befffa, 0xa4506ceb, 0xbef9a3f7, 0xc67178f2]

def rotr32 (n x : Nat) : Nat := x / 2 ^ n + (x % 2 ^ n) * 2 ^ (32 - n)

/-- The message schedule, newest word first: one more word from the sixteen before it. -/
def shaNextW (ws : List Nat) : Nat :=
  let a := ws.getD 14 0
  let b := ws.getD 1 0
  let s0 := Nat.xor (Nat.xor (rotr32 7 a) (rotr32 18 a)) (a / 2 ^ 3)
  let s1 := Nat.xor (Nat.xor (rotr32 17 b) (rotr32 19 b)) (b / 2 ^ 10)
  (ws.getD 15 0 + s0 + ws.getD 6 0 + s1) % 2 ^ 32

def shaSched : Nat → List Nat → List Nat
  | 0, ws => ws
  | n + 1, ws => shaSched n (shaNextW ws :: ws)

/-- The eight working variables. -/
structure Sha where
  a : Nat
  b : Nat
  c : Nat
  d : Nat
  e : Nat
  f : Nat
  g : Nat
  h : Nat
deriving DecidableEq, Repr

def shaRound (v : Sha) (k w : Nat) : Sha :=
  let s1 := Nat.xor (Nat.xor (rotr32 6 v.e) (rotr32 11 v.e)) (rotr32 25 v.e)
  let ch := Nat.xor (Nat.land v.e v.f) (Nat.land (2 ^ 32 - 1 - v.e) v.g)
  let t1 := (v.h + s1 + ch + k + w) % 2 ^ 32
  let s0 := Nat.xor (Nat.xor (rotr32 2 v.a) (rotr32 13 v.a)) (rotr32 22 v.a)
  let maj := Nat.xor (Nat.xor (Nat.land v.a v.b) (Nat.land v.a v.c)) (Nat.land v.b v.c)
  ⟨(t1 + s0 + maj) % 2 ^ 32, v.a, v.b, v.c, (v.d + t1) % 2 ^ 32, v.e, v.f, v.g⟩

def shaBlock (v : Sha) (blk : Bytes) : Sha :=
  let w16 := ((chunksOf 4 16 blk).map ofBe).reverse
  let ws := (shaSched 48 w16).reverse
  let r := (sha256K.zip ws).foldl (fun u kw => shaRound u kw.1 kw.2) v
  ⟨(v.a + r.a) % 2 ^ 32, (v.b + r.b) % 2 ^ 32, (v.c + r.c) % 2 ^ 32, (v.d + r.d) % 2 ^ 32,
   (v.e + r.e) % 2 ^ 32, (v.f + r.f) % 2 ^ 32, (v.g + r.g) % 2 ^ 32, (v.h + r.h) % 2 ^ 32⟩

def beBytes (n v : Nat) : Bytes := (leBytes n v).reverse

/-- SHA-256 as 32 bytes. -/
def sha256Bytes (msg : Bytes) : Bytes :=
  let pad := (119 - msg.length % 64) % 64
  let m := msg ++ [0x80#8] ++ List.replicate pad 0 ++ beBytes 8 (8 * msg.length)
  let v := (chunksOf 64 (m.length / 64) m).foldl shaBlock
    ⟨0x6a09e667, 0xbb67ae85, 0x3c6ef372, 0xa54ff53a, 0x510e527f, 0x9b05688c, 0x1f83d9ab, 0x5be0cd19⟩
  beBytes 4 v.a ++ beBytes 4 v.b ++ beBytes 4 v.c ++ beBytes 4 v.d ++ beBytes 4 v.e ++ beBytes 4 v.f ++ beBytes 4 v.g ++
    beBytes 4 v.h

/-- SHA-256 as the little-endian number of its bytes, the form registers hold (R6). -/
def sha256 (msg : Bytes) : Nat := ofLe (sha256Bytes msg)

def xorBytes (k : Nat) (bs : Bytes) : Bytes := bs.map (fun b => b ^^^ BitVec.ofNat 8 k)

/-- HMAC-SHA-256 (RFC 2104) for keys of at most 64 bytes. -/
def hmac256 (key msg : Bytes) : Bytes :=
  let k := key ++ List.replicate (64 - key.length) 0
  sha256Bytes (xorBytes 0x5C k ++ sha256Bytes (xorBytes 0x36 k ++ msg))

/-- HKDF-Extract (RFC 5869). -/
def hkdfExtract (salt ikm : Bytes) : Bytes := hmac256 salt ikm

/-- HKDF-Expand to `n` ≤ 64 bytes (RFC 5869). -/
def hkdfExpand (prk info : Bytes) (n : Nat) : Bytes :=
  let t1 := hmac256 prk (info ++ [1#8])
  let t2 := hmac256 prk (t1 ++ info ++ [2#8])
  (t1 ++ t2).take n

/-- One bit of a reflected CRC: `poly` is the reflected polynomial. -/
def crcBit (poly c : Nat) : Nat := if c % 2 = 1 then Nat.xor (c / 2) poly else c / 2

def crcByte (poly c : Nat) (b : Byte) : Nat :=
  let x := Nat.xor c b.toNat
  crcBit poly (crcBit poly (crcBit poly (crcBit poly (crcBit poly (crcBit poly (crcBit poly (crcBit poly x)))))))

def crcRefl (poly : Nat) (bs : Bytes) : Nat := Nat.xor (bs.foldl (crcByte poly) 0xFFFFFFFF) 0xFFFFFFFF

/-- R256: CRC-32C, polynomial 0x1EDC_6F41 reflected. -/
def crc32c (bs : Bytes) : Nat := crcRefl 0x82F63B78 bs

/-- R203: CRC-32 of IEEE 802.3. -/
def crc32 (bs : Bytes) : Nat := crcRefl 0xEDB88320 bs

/-- R81's mix on numbers. -/
def mix64 (z : Nat) : Nat := (srMix (BitVec.ofNat 64 z)).toNat

/-- ASCII bytes of a string literal. -/
def ascii (s : String) : Bytes := s.toList.map (fun c => BitVec.ofNat 8 c.toNat)

end Sys2Proof.Machine
end

