-- ==== Sys2Proof/Machine/State.lean ====
section
/-! DEFINITION. The state of the YKB-9160 as its spec gives it, block by block, as plain data; the faults and refusals;
the state after reset. A docstring gives a field's rule, its width where the spec fixes one, and its reset value.
"model" marks the model's own bookkeeping fields. Sparse tables list only entries that differ from the entry's reset value
(the `init` constants). -/

namespace Sys2Proof.Machine

/-! ### Cells, slots and runs (R82–R111, R354–R356) -/

/-- R102, R103: one stream word in a port buffer: 512 data bits and its parity mark. -/
structure SWord where
  data : BitVec 512
  bad  : Bool
deriving DecidableEq, Repr

/-- R86: a weight tile as LDW loaded it: its format code and its raw carrel bytes. -/
structure WTile where
  fmt   : Nat
  bytes : Bytes
deriving DecidableEq, Repr

/-- R100 (RECV): a RECV in flight on an input port: its carrel address, its word count, the words already written. -/
structure RecvPend where
  addr  : Nat
  total : Nat
  done  : Nat
deriving DecidableEq, Repr

/-- One physical slot: what a cell's pattern sees (R82), its sequencer, its ports, its carrel, its health (R354). -/
structure Slot where
  /-- R82: x1–x15, 32 bits each; x0 is not stored; reset 0 (R83) -/
  xr       : Tab (BitVec 32)
  /-- R82: v0–v31, 256 lanes of 32 bits, key v·256 + lane; reset 0 (R83) -/
  vr       : Tab (BitVec 32)
  /-- R82: acc0, acc1: 128 × 128 FP32 each, key bank·16384 + row·128 + column; reset 0 (R83) -/
  acc      : Tab (BitVec 32)
  /-- R82, R90: the compensation word of each accumulator element, same key; reset 0 (R83) -/
  comp     : Tab (BitVec 32)
  /-- R82, R100: weight buffer w0; none until an LDW since the last clear; reset none -/
  w0       : Option WTile
  /-- R82, R100: weight buffer w1; reset none -/
  w1       : Option WTile
  /-- R82: program store, 4,096 × 128 bits, key instruction index; reset 0 = NOP (DESIGN CHOICE 2) -/
  store    : Tab (BitVec 128)
  /-- R108: index of the next instruction to issue, 12 bits; reset 0 -/
  pc       : Nat
  /-- R82, R37: the carrel, 2 MiB, key byte offset; reset zeros (R352) -/
  carrel   : Tab (BitVec 8)
  /-- R107: 8-byte-aligned carrel offsets whose word is uncorrectable; reset none -/
  carrelUe : List Nat
  /-- R102: the four input ports' buffers, 16 words each, oldest first; reset empty -/
  inBuf    : Tab (List SWord)
  /-- R102, R103: words a SEND has read and no destination has fully acknowledged, per output port; reset empty -/
  outBuf   : Tab (List SWord)
  /-- R100: RECV in flight per input port; reset none -/
  recv     : Tab (Option RecvPend)
  /-- R83: the cell has retired END in its current run; reset false -/
  ended    : Bool
  /-- R454: the sequencer ran past instruction 4,095 and issues nothing further; reset false -/
  ranOff   : Bool
  /-- R101: stopped by a fault of the run until the run completes; reset false -/
  stopped  : Bool
  /-- R354: health 0 UNTESTED, 1 HEALTHY, 2 SUSPECT, 3 FAILED, 4 TESTING; reset 0 -/
  health   : Nat
  /-- R360: last SUSPECT cause, 3 bits; reset 0 -/
  cause    : Nat
  /-- R360: tests run since L4, 12 bits, saturates; reset 0 -/
  tests    : Nat
  /-- R360: last test passed; reset 0 -/
  lastPass : Bool
  /-- R354: model: failed tests in a row; reset 0 -/
  failRow  : Nat
  /-- R354, R160: health to return to if a running test is abandoned (R353); model; reset 0 -/
  before   : Nat
deriving DecidableEq, Repr

def Slot.init : Slot :=
  { xr := [], vr := [], acc := [], comp := [], w0 := none, w1 := none, store := [], pc := 0, carrel := [], carrelUe := [],
    inBuf := [], outBuf := [], recv := [], ended := false, ranOff := false, stopped := false, health := 0, cause := 0,
    tests := 0, lastPass := false, failRow := 0, before := 0 }

/-- CAT_CELL_FAULT(n) (R108). -/
structure CellFault where
  status : Nat   -- 8 bits, reset 0
  pc     : Nat   -- 12 bits, reset 0
  unit   : Nat   -- 4 bits, reset 0
  valid  : Bool  -- reset 0
deriving DecidableEq, Repr

def CellFault.init : CellFault := { status := 0, pc := 0, unit := 0, valid := false }

/-- R83: a run in progress: the work order that started it, its cell group, and the status of an early end (R101). -/
structure Run where
  queue : Nat
  index : Nat
  group : Nat
  part  : Nat
  cells : List Nat
  entry : Nat
  fault : Option Nat
deriving DecidableEq, Repr

/-- R119: a cell group: owner and member cells (bit n: logical cell n). -/
structure Group where
  part  : Nat
  cells : Nat
deriving DecidableEq, Repr

/-- R120: a stream channel; `taken` holds the destinations that have taken the sender's current word (R104). -/
structure Chan where
  part    : Nat
  srcCell : Nat
  srcPort : Nat
  dst     : List (Nat × Nat)
  taken   : List Nat
deriving DecidableEq, Repr

/-- R110: one trace entry. -/
structure TraceEnt where
  kind    : Nat
  part    : Nat
  quad    : Nat
  ts      : Nat
  payload : Nat
deriving DecidableEq, Repr

/-- The CAT block: cells, catalogue, ledger-independent cell registers, performance counters and trace. -/
structure Cat where
  /-- R20, R82, R354: the physical slots, key q·512 + k·32 + slot -/
  slots     : Tab Slot
  /-- R106, R354: per logical cell, the slot within its cluster (0–16), or 31 when absent; unlisted: slot j of its cluster -/
  map       : Tab Nat
  /-- R355: per cluster, logical j that slot 16 serves by the record; 16 none; reset 16 -/
  spareFor  : Tab Nat
  /-- R357, R360: clusters with a FAILED slot awaiting unpouring; reset none -/
  pendingC  : List Nat
  /-- R108: CAT_CELL_FAULT per logical cell; reset 0 -/
  faults    : Tab CellFault
  /-- R83: runs in progress; reset none -/
  runs      : List Run
  /-- R119: cell groups of poured partitions, key partition·1,024 + group; reset none -/
  groups    : Tab (Option Group)
  /-- R120: stream channels of poured partitions, key partition·4,096 + channel; reset none -/
  chans     : Tab (Option Chan)
  /-- R121: logical cell to its pattern's length; 0 none; reset 0 -/
  patLen    : Tab Nat
  /-- R119: logical cell is a used cell (appears in a group); bit n; reset 0 -/
  used      : Nat
  /-- R142: logical cells a pattern swap that failed in its second pass left unusable; bit n; reset 0 -/
  swapBad   : Nat
  /-- R108: corrected and uncorrectable carrel errors per quadrant, 32 bits, saturate, kept L0–L3; reset 0 -/
  carrelCe  : Tab Nat
  carrelUe  : Tab Nat
  /-- R108: CAT_QUAD_RATE rate per quadrant, M steps/s, 16 bits; reset 0 -/
  quadRate  : Tab Nat
  /-- R108: CAT_ARITH_VERSION major and minor, 16 bits each; reset firmware: 0 (DESIGN CHOICE 3) -/
  arithMaj  : Nat
  arithMin  : Nat
  /-- R109: performance counters, 64 bits, key cell·8 + i; reset 0 -/
  perf      : Tab Nat
  /-- R111: CAT_PERF_CTL freeze; reset 0 -/
  freeze    : Bool
  /-- R111: CAT_TRACE_CTL enable, stop, sample (5 bits, reset 10), partitions (16 bits, reset 0) -/
  trEnable  : Bool
  trStop    : Bool
  trSample  : Nat
  trParts   : BitVec 16
  /-- R110: the trace buffer, 4,096 entries of 16 bytes; reset empty -/
  trBuf     : Tab (Option TraceEnt)
  /-- R111: CAT_TRACE_STATUS write (12 bits), wrapped, lost (16 bits, saturates); CAT_TRACE_READ read (12 bits); reset 0 -/
  trWrite   : Nat
  trRead    : Nat
  trWrapped : Bool
  trLost    : Nat
  /-- R110: entries not recorded since the last LOST entry, saturating at 2^48 − 1; model; reset 0 -/
  trMissed  : Nat
  /-- R110: packets injected per partition since the last sampled one (kind 0x06); model; reset 0 -/
  trPackets : Tab Nat
  /-- R360: CAT_SPARE_TEST interval_min (11 bits, reset 10), rounds (16 bits, wraps, reset 0) -/
  testMin   : Nat
  rounds    : Nat
  /-- R353: slots of the background round in progress that are still under test; model; reset none -/
  roundLeft : List Nat
  /-- R355: slots that CAT_SLOT_CLEAR cleared and that have not passed a test since; model; reset none -/
  cleared   : List Nat
  /-- R360: CAT_UNIT_HEALTH ladle_failed (4 bits), nmu_failed (16 bits); reset 0 -/
  ladleFail : BitVec 4
  nmuFail   : BitVec 16
deriving DecidableEq, Repr

def Cat.init : Cat :=
  { slots := [], map := [], spareFor := [], pendingC := [], faults := [], runs := [], groups := [], chans := [], patLen := [],
    used := 0, swapBad := 0, carrelCe := [], carrelUe := [], quadRate := [], arithMaj := 0, arithMin := 0,
    perf := [], freeze := false, trEnable := false, trStop := false, trSample := 10, trParts := 0, trBuf := [],
    trWrite := 0, trRead := 0, trWrapped := false, trLost := 0, trMissed := 0, trPackets := [], testMin := 10, rounds := 0,
    roundLeft := [], cleared := [], ladleFail := 0, nmuFail := 0 }

/-! ### Partitions and the mould loader (R112–R143) -/

/-- R122: a page-map entry: permission bits and ppage. -/
structure Page where
  perm  : BitVec 8
  ppage : Nat
deriving DecidableEq, Repr

/-- MEM_REGION(p, r) (R192, R196): a weight-region slot. -/
structure Region where
  digest : Nat    -- 256 bits
  addr   : Nat    -- 44 bits
  length : Nat    -- 64 bits
  valid  : Bool
  stale  : Bool
  busy   : Bool
deriving DecidableEq, Repr

def Region.init : Region := { digest := 0, addr := 0, length := 0, valid := false, stale := false, busy := false }

/-- One partition: what its pour bound (R117–R130), its ledger (R96), its recovery record (R384) and its twin state. -/
structure Part where
  /-- R143: 0 UNPOURED, 1 POURING, 2 READY, 3 FENCED, 4 RESETTING, 5 UNPOURING; reset 0 -/
  state    : Nat
  /-- R143: confidential; reset 0 -/
  conf     : Bool
  /-- R143: twin 0 not paired, 1 paired, 2 solo, 3 diverged; reset 0 -/
  twin     : Nat
  /-- R143: a pattern swap is in force; reset 0 -/
  swapped  : Bool
  /-- R143: generation, 16 bits, wraps, kept L0–L3; reset 0 -/
  gen      : Nat
  /-- R143: digest of the poured mould, 256 bits; reset 0 -/
  digest   : Nat
  /-- R143: digest of the pattern swap in force, 256 bits; reset 0 -/
  swapDig  : Nat
  /-- R400: SHA-256 of the PATTERN section in force, 256 bits; reset 0 -/
  patDig   : Nat
  /-- R143: clusters held, bit 16q + k, 64 bits; reset 0 -/
  clusters : BitVec 64
  /-- R143: stacks held, 16 bits; reset 0 -/
  stackSet : BitVec 16
  /-- R117: stochastic-rounding seed, 64 bits; reset 0 -/
  seed     : BitVec 64
  /-- R117: the peer box and peer_partition; reset 0 -/
  peerLo   : Nat
  peerHi   : Nat
  peerPart : Nat
  /-- R122: the page map, key vpage; reset none -/
  pages    : Tab (Option Page)
  /-- R129: POWER share, 11 bits; reset 0 -/
  share    : Nat
  /-- R309: PWR_PART allowance, W, 16 bits; reset 0 -/
  allow    : Nat
  /-- R96, R108: ledger counters, 64 bits, saturate, and overflow flags; reset 0 -/
  sat      : Nat
  nan      : Nat
  inv      : Nat
  satOvf   : Bool
  nanOvf   : Bool
  invOvf   : Bool
  /-- R105, R108: CAT_STREAM_RESIDUE, 32 bits, saturates, with overflow flag; reset 0 -/
  residue  : Nat
  resOvf   : Bool
  /-- R108: trips, 16 bits, saturates; reset 0 -/
  trips    : Nat
  /-- R192: the 64 weight-region slots; reset free -/
  regions  : Tab Region
  /-- R384: RST_PART_RECOVERY step (3 bits), cause (3), escalations (8, saturates), count (16, saturates, kept L0–L3); reset 0 -/
  rcStep   : Nat
  rcCause  : Nat
  rcEsc    : Nat
  rcCount  : Nat
  /-- R384: RST_HANG_SUMMARY cells, truncated, scrubbed, exported, killed; reset 0 -/
  hgCells  : Nat
  hgTrunc  : Bool
  hgScrub  : Bool
  hgExp    : Bool
  hgKilled : Nat
  /-- R366: what triggered the recovery: logical cell or queue, 0xFFFF_FFFF none; model; reset 0xFFFF_FFFF -/
  rcCell   : Nat
  rcQueue  : Nat
  /-- R369: reference counter when the partition was fenced; model; reset 0 -/
  fencedAt : Nat
  /-- R366: bytes of the assembled hang record awaiting export; model; reset 0 -/
  hgBytes  : Nat
  /-- R158, R140: partition fenced in order to unpour rather than to recover; model; reset false -/
  unpour   : Bool
  /-- R130: twin scope and digest_bytes; 0 when no TWIN section; reset 0 -/
  twScope  : Nat
  twBytes  : Nat
  /-- R384: RST_TWIN withheld, ranges (16 bits, wraps); reset 0 -/
  twHeld   : Bool
  twRanges : Nat
deriving DecidableEq, Repr

def Part.init : Part :=
  { state := 0, conf := false, twin := 0, swapped := false, gen := 0, digest := 0, swapDig := 0, patDig := 0, clusters := 0,
    stackSet := 0, seed := 0, peerLo := 0, peerHi := 0, peerPart := 0, pages := [], share := 0, allow := 0, sat := 0, nan := 0,
    inv := 0, satOvf := false, nanOvf := false, invOvf := false, residue := 0, resOvf := false, trips := 0, regions := [],
    rcStep := 0, rcCause := 0, rcEsc := 0, rcCount := 0, hgCells := 0, hgTrunc := false, hgScrub := false, hgExp := false,
    hgKilled := 0, rcCell := 0xFFFFFFFF, rcQueue := 0xFFFFFFFF, fencedAt := 0, hgBytes := 0, unpour := false, twScope := 0,
    twBytes := 0, twHeld := false, twRanges := 0 }

/-- The loader's operation in progress (R132–R142): which work order, its targets and mode, the first-pass image. -/
structure LoadOp where
  queue   : Nat
  index   : Nat
  targets : BitVec 16
  mode    : Nat      -- 0 structure pour, 1 pattern swap, 2 unpour
  length  : Nat
  image   : Bytes    -- the image of the first pass
  digest  : Nat
  cells   : List Nat -- R142: the logical cells a pattern swap covers
  before  : List Nat -- the targets' states before the pour began
  clusters : BitVec 64 -- R135: the clusters the targets hold or will hold: their catalogue entries are locked
  changed : Bool     -- R355, R133 (0x0E03): a slot of such a cluster has been cleared since the operation began
  quiet   : Bool     -- R135: every target was quiescent when the operation began
  kept    : List (BitVec 16)  -- R136: the stacks each target held before the pour
  keptSh  : List (List Nat)   -- R136: the shelf pages each target mapped before the pour
  startAt : Nat
deriving DecidableEq, Repr

/-- The MLD block. -/
structure Mld where
  parts    : Tab Part
  op       : Option LoadOp
  /-- R143: MLD_STATUS phase (3 bits), twin_wait, targets (16 bits), last_status (8 bits); reset 0 -/
  phase    : Nat
  twinWait : Bool
  targets  : BitVec 16
  lastStat : Nat
  /-- R143: MLD_ERROR code (16), section (8), valid; MLD_ERROR_ENTRY index (32); reset 0 -/
  errCode  : Nat
  errSect  : Nat
  errValid : Bool
  errIndex : Nat
  /-- R143: MLD_POUR_COUNT (64 bits), MLD_FAIL_COUNT (32, saturates), both kept L0–L3; MLD_LAST_TIME (32); reset 0 -/
  pours    : Nat
  fails    : Nat
  lastTime : Nat
  /-- R139: the partner's pour digest as last received and not yet used: digest, scope, solo flag, arrival; reset none -/
  partner  : Option (Nat × Nat × Bool × Nat)
deriving DecidableEq, Repr

def Mld.init : Mld :=
  { parts := [], op := none, phase := 0, twinWait := false, targets := 0, lastStat := 0, errCode := 0, errSect := 0,
    errValid := false, errIndex := 0, pours := 0, fails := 0, lastTime := 0, partner := none }

/-! ### Queues, work orders, sync counters (R144–R170) -/

/-- A partition queue (R123, R145, R169). -/
structure Queue where
  state : Nat            -- 0 unbound, 1 enabled, 2 disabled, 3 killed, 4 killed and its partition since reset (reads 3, R151); reset 0
  part  : Nat            -- reset 0
  prio  : Nat            -- 0–3; reset 0
  log2  : Nat            -- 6–16; reset 0
  ring  : Nat            -- partition virtual address; reset 0
  compl : Nat            -- partition virtual address; reset 0
  prod  : Nat            -- 32 bits; reset 0
  disp  : Nat            -- 32 bits; reset 0
  ret   : Nat            -- 32 bits; reset 0
  head  : Option Bytes   -- R147: the head's one read; reset none
  uj    : Nat            -- QUE_ENERGY, 64 bits, kept L0–L3; reset 0
deriving DecidableEq, Repr

def Queue.init : Queue :=
  { state := 0, part := 0, prio := 0, log2 := 0, ring := 0, compl := 0, prod := 0, disp := 0, ret := 0, head := none,
    uj := 0 }

/-- A work order dispatched and not yet retired (R148), or ended and awaiting its increments' outcomes (R155). -/
structure Flight where
  queue   : Nat            -- 0–32,767, or 32,768 for the shell control queue
  index   : Nat            -- its free-running count
  part    : Nat
  wo      : Bytes          -- the 64 bytes read
  started : Bool           -- its unit has taken it
  status  : Option Nat     -- R162, once its unit has ended
  detail  : Nat
  result  : Nat            -- 64 bits
  sat     : Nat            -- R95: the three ledger counts, 32 bits, saturate
  nan     : Nat
  inv     : Nat
  uj      : Nat            -- R168: energy attributed, µJ
  issued  : Bool           -- its increments have been issued (R155)
  out0    : Nat            -- outcome of sig0: a code of R162, 0xFF not issued, 0x100 awaited
  out1    : Nat
  nojudge : Bool           -- completed without dispatch by R163: no increment whatever signal_always holds
  pieces  : Nat            -- R157, R176: peer pieces still awaited
  fail    : Nat            -- R157: status of its first piece that failed; 0 none
  twBase  : Nat            -- R375: first twin_seq of its block
  region  : Nat            -- R192: weight-region slot taken by a digesting COPY; 64 none
  watch   : Bool           -- R167: ended by the watchdog
deriving DecidableEq, Repr

/-- The QUE block. -/
structure Que where
  queues   : Tab Queue
  flights  : List Flight
  /-- R169: QUE_CTL_SLOT(i), 512 bits each, 16 slots; reset 0 -/
  ctlSlot  : Tab Nat
  /-- R169: QUE_CTL_COMPL(i), 256 bits each, 16 slots; reset 0 -/
  ctlCompl : Tab Nat
  /-- R150, R169: the control queue's counts (32 bits each) and its head; reset 0, none -/
  ctlProd  : Nat
  ctlDisp  : Nat
  ctlRet   : Nat
  ctlHead  : Option Bytes
  /-- R145: completion records written ahead of an older one (queue, index); model; reset none -/
  doneAhead : List (Nat × Nat)
  /-- R149: round robin: last queue served per engine and priority, key engine·4 + priority; model; reset 0 -/
  rr       : Tab Nat
  /-- R169: QUE_BAD_DOORBELL, QUE_WATCHDOG_COUNT: 32 bits, saturate, kept L0–L2; reset 0 -/
  badBell  : Nat
  wdCount  : Nat
deriving DecidableEq, Repr

def Que.init : Que :=
  { queues := [], flights := [], ctlSlot := [], ctlCompl := [], ctlProd := 0, ctlDisp := 0, ctlRet := 0, ctlHead := none,
    doneAhead := [], rr := [], badBell := 0, wdCount := 0 }

/-- A sync counter (R124, R164, R170). -/
structure Counter where
  bound    : Bool
  part     : Nat
  peerIncr : Bool
  hostRead : Bool
  value    : Nat     -- 64 bits; reset 0
  ovf      : Bool
deriving DecidableEq, Repr

def Counter.init : Counter := { bound := false, part := 0, peerIncr := false, hostRead := false, value := 0, ovf := false }

/-- R165, R166: a remote increment sent and awaiting its outcome. -/
structure RInc where
  dev      : Nat
  seq      : Nat
  pkt      : Packet
  part     : Nat      -- the sending partition
  queue    : Nat      -- the work order that made it; 0xFFFF for a twin copy that no work order waits for (R374)
  index    : Nat
  sig      : Nat      -- 0 or 1: which entry of the work order
  withdraw : Bool     -- a withdrawal has been sent
  killed   : Bool     -- its partition's queues were killed since (R365)
deriving DecidableEq, Repr

/-- R165, R233: what a receiver keeps of one sender: highest sequence, and the outcome recorded for each sequence within
the window of 65,536 (0x101: withdrawn). -/
structure Sender where
  highest : Nat
  seen    : Tab (Option Nat)
  lastAt  : Nat
deriving DecidableEq, Repr

def Sender.init : Sender := { highest := 0, seen := [], lastAt := 0 }

/-- The SYN block. -/
structure Syn where
  counters : Tab Counter
  /-- R165: next sequence per destination device; reset 0 -/
  nextSeq  : Tab Nat
  sent     : List RInc
  senders  : Tab (Option Sender)
  /-- R170: SYN_UNDELIVERED, SYN_DUPLICATE, SYN_WITHDRAWN (64 bits), SYN_REFUSED (32, saturates), kept L0–L3; reset 0 -/
  undeliv  : Nat
  dup      : Nat
  withdrawn : Nat
  refused  : Nat
deriving DecidableEq, Repr

def Syn.init : Syn :=
  { counters := [], nextSeq := [], sent := [], senders := [], undeliv := 0, dup := 0, withdrawn := 0, refused := 0 }

/-! ### The event concentrator (R288–R298) -/

/-- One event source (R290, R298). -/
structure Src where
  pending : Nat     -- 8 bits; reset 0
  outst   : Bool    -- reset 0
  enabled : Bool    -- reset 0 (partition sources); shell sources reset 1: see Evc.srcOff
  bound   : Bool    -- partition source bound by EVENTBIND; reset 0
  part    : Nat     -- reset 0
  queue   : Nat     -- reset 0
  info    : Nat     -- R290: latest info, 48 bits; reset 0
  first   : Nat     -- R293: reference counter at the first raising coalesced; reset 0
  onOsc   : Bool    -- R293: that reading was taken on the internal oscillator (R29); reset false
deriving DecidableEq, Repr

def Src.init : Src :=
  { pending := 0, outst := false, enabled := false, bound := false, part := 0, queue := 0, info := 0, first := 0,
    onOsc := false }

/-- One group of 256 sources (R291, R298). -/
structure EvGroup where
  holdoff  : Nat    -- 16 bits, µs; reset firmware: 0 (R298)
  queue    : Nat    -- shell groups: queue 0–7; reset firmware: 4 (R294)
  spill    : Nat    -- 32 bits, saturates, kept L0–L3; reset 0
  spillOvf : Bool   -- reset 0
  spillAt  : Nat    -- R293: spill count at the previous batch; model; reset 0
  lastAt   : Nat    -- R291: reference counter at the previous batch; model; reset 0
deriving DecidableEq, Repr

def EvGroup.init : EvGroup := { holdoff := 0, queue := 4, spill := 0, spillOvf := false, spillAt := 0, lastAt := 0 }

/-- The EVC block. -/
structure Evc where
  srcs     : Tab Src
  /-- R298: shell sources whose enabled bit has been written 0 (shell sources reset enabled); reset none -/
  srcOff   : List Nat
  groups   : Tab EvGroup
  /-- R298: EVC_QUEUE auto_complete per queue; reset 0 -/
  auto     : Tab Bool
  /-- R125: partition served by queues 8–63; reset none -/
  qPart    : Tab (Option Nat)
  /-- R294: records of queues 0–3 not yet consumed by the Archivist, oldest first; reset empty -/
  arcRecs  : Tab (List EvRec)
  /-- R298: EVC_ARC_RING producer and consumer, 16 bits each; reset 0 -/
  arcProd  : Tab Nat
  arcCons  : Tab Nat
  /-- R298: EVC_ARC_WAKE mask, pending (4 bits each); reset firmware: 0 (DESIGN CHOICE 3), 0 -/
  wakeMask : BitVec 4
  wakePend : BitVec 4
  /-- R295: the Archivist has been woken from its wait; model; reset false -/
  awake    : Bool
  /-- R298: EVC_REFUSED doorbell, unbound (16 bits each), EVC_STRAY (32), EVC_CLEARED (64): saturate, kept L0–L3; reset 0 -/
  refBell  : Nat
  refUnb   : Nat
  stray    : Nat
  cleared  : Nat
deriving DecidableEq, Repr

def Evc.init : Evc :=
  { srcs := [], srcOff := [], groups := [], auto := [], qPart := [], arcRecs := [], arcProd := [], arcCons := [],
    wakeMask := 0, wakePend := 0, awake := false, refBell := 0, refUnb := 0, stray := 0, cleared := 0 }

/-! ### Memory and near-memory units (R171–R196) -/

/-- One HBM stack (R173, R182, R196, R333). -/
structure Stack where
  state   : Nat    -- 0 untrained, 1 active, 2 self-refresh, 3 training, 4 failed; reset 0
  hot     : Bool   -- refresh doubled (R172); reset 0
  temp    : Int    -- 0.25 °C, 16 bits two's complement; reset 0
  passes  : Nat    -- 16 bits, wraps; reset 0
  scrubAt : Nat    -- R182: next 32-byte unit of the current pass; reset 0
  ce      : Nat    -- 32 bits, saturates, kept L0–L3; reset 0
  ue      : Nat    -- 32 bits, saturates, kept L0–L3; reset 0
  limit   : Nat    -- R333: 0 unthrottled, 7–3 bandwidth limit of 70–30 %; reset 0
deriving DecidableEq, Repr

def Stack.init : Stack := { state := 0, hot := false, temp := 0, passes := 0, scrubAt := 0, ce := 0, ue := 0, limit := 0 }

/-- MEM_UE_LOG(i) (R196). -/
structure UeEnt where
  addr    : Nat
  part    : Nat
  reader  : Nat
  cleared : Bool
  valid   : Bool
deriving DecidableEq, Repr

def UeEnt.init : UeEnt := { addr := 0, part := 0, reader := 0, cleared := false, valid := false }

/-- R184, R187: an open accumulation sequence. -/
structure AccSeq where
  stack  : Nat
  tag    : Nat
  addr   : Nat              -- local physical address of the destination range
  length : Nat
  n      : Nat
  fmt    : Nat
  part   : Nat
  plan   : Nat              -- the Ladle plan it serves
  next   : Nat              -- next expected position
  held   : Tab (Option Bytes)   -- R185: contributions held in staging
deriving DecidableEq, Repr

/-- R187: a plain write held until the sequence over its range closes. -/
structure HeldWrite where
  addr : Nat
  data : Bytes
deriving DecidableEq, Repr

/-- The MEM block, with the contents of HBM and shelves. -/
structure Mem where
  /-- R37: HBM and shelf bytes, key local physical address; unlisted bytes read zero (DESIGN CHOICE 4) -/
  bytes   : Tab (BitVec 8)
  /-- R181, R179: uncorrectable units: 32-byte-aligned HBM and 8-byte-aligned shelf addresses; reset none -/
  ueUnits : List Nat
  hbm     : Tab Stack
  shelfCe : Tab Nat      -- 32 bits per quadrant, saturate, kept L0–L3; reset 0
  shelfUe : Tab Nat      -- 32 bits per quadrant, saturate, kept L0–L3; reset 0
  ueLog   : Tab UeEnt    -- 16 entries; reset empty
  ueNext  : Nat          -- 4 bits; reset 0
  ueTotal : Nat          -- 16 bits, saturates; reset 0
  scrubH  : Nat          -- MEM_SCRUB_CTL interval_h, 8 bits; reset 24
  scrubOn : Bool         -- MEM_SCRUB_CTL enable; reset 1
  accs    : List AccSeq  -- R184; reset none
  waiting : List AccSeq  -- R184, R187: ACC_OPENs held, oldest first; reset none
  heldWr  : List HeldWrite -- R187; reset none
  accDup  : Nat          -- MEM_ACC_DUPLICATE, 64 bits, kept L0–L3; reset 0
  refused : Nat          -- MEM_REFUSED, 32 bits, saturates, kept L0–L3; reset 0
deriving DecidableEq, Repr

def Mem.init : Mem :=
  { bytes := [], ueUnits := [], hbm := [], shelfCe := [], shelfUe := [], ueLog := [], ueNext := 0, ueTotal := 0,
    scrubH := 24, scrubOn := true, accs := [], waiting := [], heldWr := [], accDup := 0, refused := 0 }

/-! ### Links and routing (R197–R245) -/

/-- R204: a flit in the retry buffer. -/
structure RetryFlit where
  seq   : Nat
  vc    : Nat
  bytes : Bytes
  last  : Bool
  acked : Bool     -- an ack covers it; kept until the packet's last flit is acknowledged
deriving DecidableEq, Repr

/-- One fabric port (R197–R215, R227–R230). -/
structure Port where
  enable   : Bool        -- LNK_CTL enable; reset option: 1 (R347 default 0x3_FFFF)
  laneHold : BitVec 8    -- LNK_CTL lane_hold; reset 0
  state    : Nat         -- 0 DISABLED, 1 TRAINING, 2 ACTIVE, 3 DEGRADED, 4 LOST, 5 QUARANTINED, 6 STANDBY; reset 0
  txMask   : BitVec 8    -- reset 0
  rxMask   : BitVec 8    -- reset 0
  xoffIn   : BitVec 8    -- xoff bits last received (xoff_any is their OR); reset 0
  partner  : Nat         -- LNK_PARTNER device_id, 20 bits; reset 0
  partPort : Nat         -- LNK_PARTNER port, 5 bits; reset 0
  partMast : Bool        -- LNK_PARTNER master; reset 0
  partVal  : Bool        -- LNK_PARTNER valid; reset 0
  failed   : BitVec 8    -- LNK_LANE_FAIL failed, RW1C; reset 0
  marker   : BitVec 8    -- LNK_LANE_FAIL marker, RW1C; reset 0
  replays  : Nat         -- 32 bits, saturates; this and the next nine counters kept L0–L3; reset 0
  fecCe    : Nat         -- 64 bits
  fecUe    : Nat         -- 32 bits, saturates
  crcErr   : Nat         -- 32 bits, saturates
  lostFl   : Nat         -- 32 bits, saturates
  partialRx : Nat         -- 32 bits, saturates
  losses   : Nat         -- 16 bits, saturates
  degrades : Nat         -- 16 bits, saturates
  peak     : Nat         -- LNK_RETRY_LEVEL peak, 11 bits, RW1C
  txSeq    : Nat         -- R202: next link sequence to assign, 12 bits; reset 0
  rxSeq    : Nat         -- R205: next link sequence expected, 12 bits; reset 0
  rxAny    : Bool        -- R202: a DATA flit has been accepted since training (ack_valid); reset false
  retry    : List RetryFlit  -- R204: sent and not acknowledged, oldest first; outstanding is its length; reset empty
  txq      : List RetryFlit  -- R204: flits waiting for retry-buffer room, oldest first; reset empty
  waitNak  : Bool        -- R205: the receiver has sent NAK and waits for the expected sequence; reset false
  lastNak  : Nat         -- R207: sequence of the last replay; 4,096 none; reset 4096
  nakRow   : Nat         -- R207: replays of that sequence in a row; reset 0
  mapPend  : Bool        -- R208: LANEMAP sent and not yet answered by flits on the new mask only; reset false
  newTx    : Option (BitVec 8 × Nat)  -- R208: mask to take at the next lane-block boundary, and the ack to replay from; reset none
  retrain  : BitVec 8    -- R210: failed lanes retraining in the background; reset 0
  locked   : BitVec 8    -- R211: lanes locked in training; reset 0
  partIn   : Tab Bytes   -- R218: bytes of a packet received in part, per VC; reset empty
  inBuf    : Tab (List Packet) -- R227: whole packets in the input buffer, per VC, oldest first; reset empty
  margin   : Nat         -- R228: E, KiB; reset 0
  xoffOut  : BitVec 8    -- R228: xoff bits sent; reset 0
deriving DecidableEq, Repr

def Port.init : Port :=
  { enable := true, laneHold := 0, state := 0, txMask := 0, rxMask := 0, xoffIn := 0, partner := 0, partPort := 0,
    partMast := false, partVal := false, failed := 0, marker := 0, replays := 0, fecCe := 0, fecUe := 0, crcErr := 0,
    lostFl := 0, partialRx := 0, losses := 0, degrades := 0, peak := 0, txSeq := 0, rxSeq := 0, rxAny := false, retry := [],
    txq := [], waitNak := false, lastNak := 4096, nakRow := 0, mapPend := false, newTx := none, retrain := 0,
    locked := 0, partIn := [], inBuf := [], margin := 0, xoffOut := 0 }

/-- R237: the protected routing registers. -/
structure Prot where
  mask    : BitVec 18
  brkC    : Nat × Nat × Bool   -- first, last, enable
  brkD    : Nat × Nat × Bool
  detA    : BitVec 8
  detB    : BitVec 8
  healthA : BitVec 64
  healthB : BitVec 64
deriving DecidableEq, Repr

/-- R245: option defaults of the protected registers. -/
def Prot.init : Prot :=
  { mask := 0x3FFFF, brkC := (0, 0, false), brkD := (0, 0, false), detA := 0xFF, detB := 0xFF,
    healthA := 0xFFFFFFFFFFFFFFFF, healthB := 0xFFFFFFFFFFFFFFFF }

/-- R234, R245: a runner table entry. -/
structure Runner where
  state   : Nat     -- 0 free, 1 staged, 2 active, 3 failed, 4 broken
  loc     : Bool    -- starts at this device
  src     : Nat
  runner  : Nat
  egress  : Nat     -- 31 at the destination
  share   : Nat
  part    : Nat     -- R126: owning partition of a local runner
  dst     : Nat
  dstPart : Nat
  pred0   : Nat     -- 0xFFFF none
  pred1   : Nat
  remove  : Bool    -- R127: to be removed at the next RESUME
  sentUp  : Bool    -- R234: RUN_SETUP sent, answer awaited
deriving DecidableEq, Repr

/-- R232: a rate-limit entry; limit in MB/s. -/
structure Rate where
  limit  : Nat
  cutAt  : Nat
  echoAt : Nat
deriving DecidableEq, Repr

/-- R233: a request sent and awaiting its response. -/
structure Req where
  dev      : Nat
  seq      : Nat
  pkt      : Packet
  part     : Nat
  queue    : Nat          -- the work order that made it; 0xFFFF none
  index    : Nat
  dest     : Nat          -- READ_REQ: local partition virtual address that the data goes to
  withdraw : Bool
  killed   : Bool
deriving DecidableEq, Repr

/-- The RTE block. -/
structure Rte where
  /-- R245: RTE_COORD device_id (20 bits), eligible, valid; reset strap and option: 0, 0, 1 -/
  devId    : Nat
  eligible : Bool
  valid    : Bool
  /-- R237: the routing state in effect, and the pending copy -/
  prot     : Prot
  pend     : Prot
  /-- R245: RTE_FABRIC_STATUS epoch (16), state 0 RUNNING 1 DRAINING 2 DRAINED 3 DRAIN_TIMEOUT, refused (8, saturates); reset 0 -/
  epoch    : Nat
  fstate   : Nat
  frefused : Nat
  /-- R245: RTE_DRAIN_TIMEOUT, ms, 16 bits; reset 20 -/
  drainMs  : Nat
  /-- R245: RTE_GANG master (3 bits), is_master, none (reset 1), live (8 bits), changes (16, saturates); reset 0 -/
  master   : Nat
  isMaster : Bool
  noMaster : Bool
  live     : BitVec 8
  changes  : Nat
  /-- R242: reference counter at each member's last reply; model; reset none -/
  replyAt  : Tab Nat
  /-- R245: RTE_NOROUTE, RTE_AGED, RTE_DRAIN_DISCARD, RTE_HEADROOM_OVF: 32 bits, saturate, kept L0–L2; reset 0 -/
  noRoute  : Nat
  aged     : Nat
  drainDis : Nat
  headOvf  : Nat
  /-- R245: RTE_E2E duplicates, table_full (32 bits, saturate); RTE_CONGEST marks (32), echoes (16), saturate; reset 0 -/
  e2eDup   : Nat
  e2eFull  : Nat
  marks    : Nat
  echoes   : Nat
  /-- R232: the rate-limit table, key destination device; reset empty -/
  rates    : Tab (Option Rate)
  /-- R225: devices declared lost until the next RESUME; reset none -/
  lost     : List Nat
  /-- R226, R238: packets of this device waiting to enter its routers, oldest first; reset none -/
  heldInj  : List Packet
  /-- R234: the runner table, 65,536 entries; reset free -/
  runners  : Tab (Option Runner)
  /-- R233: next request sequence per device, requests outstanding, senders' state -/
  nextSeq  : Tab Nat
  reqs     : List Req
  senders  : Tab (Option Sender)
  /-- R226: packets delivered by the routers to this device's units and not yet taken, oldest first; reset none -/
  inbox    : List Packet
deriving DecidableEq, Repr

def Rte.init : Rte :=
  { devId := 0, eligible := false, valid := true, prot := Prot.init, pend := Prot.init, epoch := 0, fstate := 0, frefused := 0,
    drainMs := 20, master := 0, isMaster := false, noMaster := true, live := 0, changes := 0, replyAt := [],
    noRoute := 0, aged := 0, drainDis := 0, headOvf := 0, e2eDup := 0, e2eFull := 0, marks := 0, echoes := 0, rates := [],
    lost := [], heldInj := [], runners := [], nextSeq := [], reqs := [], senders := [], inbox := [] }

/-! ### Collectives (R246–R270) -/

/-- R257, R258: a collective packet sent and not yet given an outcome. -/
structure ColSent where
  pkt     : Packet
  member  : Nat          -- logical member index of its receiver
  src     : Option Nat   -- partition virtual address of its bytes, which a resend reads again; none: the packet carries its own
  copy    : Bool         -- R374: the copy to the destination's twin
  crcRow  : Nat          -- R258: RESEND outcomes in a row
  nrUs    : Nat          -- R257: interval of the last NOT_READY, µs; 0 none
deriving DecidableEq, Repr

/-- R251, R257: a contribution or ring partial accepted before this member has come to its step: staging or chain buffer. -/
structure ColHeld where
  ladle  : Nat
  step   : Nat
  chain  : Bool     -- a ring partial, in the chain buffer
  member : Nat      -- sender
  block  : Nat
  chunk  : Nat
  data   : Bytes
deriving DecidableEq, Repr

/-- A chunk that this member has received or reduced and has yet to send on. -/
structure ColFwd where
  step   : Nat
  block  : Nat
  chunk  : Nat
  member : Nat      -- receiver
deriving DecidableEq, Repr

/-- R247–R265: a plan's instance in progress, from its dispatch. -/
structure Inst where
  queue   : Nat
  index   : Nat
  inst    : Nat        -- 32-bit instance number
  op      : Nat        -- 0 RS, 1 AG, 2 XCHG
  sprue   : Bool       -- an all-reduce on the sprue path
  max     : Bool       -- R249: flags bit 5
  fmt     : Nat
  bytes   : Nat        -- B of R249
  src     : Nat
  dst     : Nat
  started : Bool       -- its Ladle has taken it
  pos     : Nat        -- steps done on the chunk path
  out     : Nat        -- R255: chunks of the current step read and sent so far, those sent on not counted
  fwd     : List ColFwd
  sent    : List ColSent           -- awaiting an outcome
  seen    : List (Nat × Nat × Nat × Nat)  -- R258: identities accepted: packet kind, sender, arg0 bits 15:0, address
  hold    : List ColHeld
  acked   : Tab Nat               -- R260: chunks ACCEPTED, key step·2^20 + receiver
  txDig   : Tab Nat               -- R259: transfer digest, key step·2^20 + receiver
  rxDig   : Tab Nat               -- R259: transfer digest, key step·2^20 + sender
  digIn   : List (Nat × Nat)      -- R260: DIGEST packets compared: step, sender
  resDig  : Nat                   -- R259: result digest so far
  badDig  : Bool                  -- R260: a transfer digest differed
  verdict : Bool                  -- R260: this member has contributed its verdict record
  spPos   : Nat                   -- R262: sprue steps done
  spVals  : Tab (Option Bytes)    -- R262: values held, key (step·2^20 + group index)·2 + part
  mine    : Option Bytes          -- R262: this member's value or partial
  final   : Option Bytes          -- R262: the result
  finParts : Tab (Option Bytes)   -- R261: parts of the result received
  endSt   : Option (Nat × Packet) -- R267: MEMBER_FENCED due once the other copies of that packet have outcomes
  stalled : Bool                  -- R266: a stall event since the last progress
  at0     : Nat                   -- reference counter at dispatch
  twBase  : Nat                   -- R375: first twin_seq of its chunks
deriving DecidableEq, Repr

/-- R128, R247, R270: a plan. -/
structure Plan where
  part    : Nat
  accFmt  : Nat
  members : List (Nat × Nat)   -- (device, partition) in logical member index order
  self    : Nat
  sizes   : List Nat           -- dimension sizes, plan order
  order   : List Nat           -- 0 A, 1 B, 2 C, 3 D
  flags   : BitVec 8
  stall   : Nat                -- 10 ms units
  count   : Nat                -- R247: instance count, 32 bits
  sig     : Nat                -- R52: reduction signature, 64 bits
  inst    : Option Inst
  note    : Option (Nat × Nat × Nat) -- R265: kept NOTICE: instance, status, originator
  notes   : List ColSent       -- R265: NOTICEs sent and not yet acknowledged
  lastOp  : Nat                -- R270: op of the last instance
deriving DecidableEq, Repr

/-- The LDL block. -/
structure Ldl where
  plans    : Tab (Option Plan)
  /-- R270: LDL_STATUS(q) plan of the last chunk handled; reset 0 -/
  lastPlan : Tab Nat
  /-- R270: LDL_LAST_NOTICE plan, status, sent, valid; LDL_LAST_NOTICE_MEMBER; reset 0 -/
  ntPlan   : Nat
  ntStatus : Nat
  ntSent   : Bool
  ntValid  : Bool
  ntMember : Nat
  /-- R270: counters, kept L0–L3: RESENDS crc, timer (32), ABSORBED, DUPLICATE (64), NOT_READY, VERDICT_FAIL, STALLS (32); reset 0 -/
  rsCrc    : Nat
  rsTimer  : Nat
  absorbed : Nat
  dup      : Nat
  notReady : Nat
  verFail  : Nat
  stalls   : Nat
  /-- R270: LDL_SPRUE_TIME, ns, 32 bits; reset 0 -/
  sprueNs  : Nat
deriving DecidableEq, Repr

def Ldl.init : Ldl :=
  { plans := [], lastPlan := [], ntPlan := 0, ntStatus := 0, ntSent := false, ntValid := false, ntMember := 0, rsCrc := 0,
    rsTimer := 0, absorbed := 0, dup := 0, notReady := 0, verFail := 0, stalls := 0, sprueNs := 0 }

/-! ### Host ports (R271–R287) -/

/-- One Ethernet port (R271, R287). -/
structure HPort where
  enable  : Bool     -- reset option: 1 (R347 default 0x0F)
  speed   : Nat      -- 2 bits; reset option: 0
  medium  : Bool     -- reset option: 0 KR
  vlanEn  : Bool     -- reset 0
  vlan    : Nat      -- 12 bits; reset 0
  state   : Nat      -- 0 disabled, 1 training, 2 up, 3 down; reset 0
  inUse   : Nat      -- speed in use, 2 bits; reset 0
  paused  : BitVec 3 -- control, event, bulk paused by the partner; reset 0
  addr    : Nat      -- 128 bits; reset firmware: 0 (DESIGN CHOICE 3)
  was     : Bool     -- R286: the port has been up; model; reset false
deriving DecidableEq, Repr

def HPort.init : HPort :=
  { enable := true, speed := 0, medium := false, vlanEn := false, vlan := 0, state := 0, inUse := 0, paused := 0, addr := 0,
    was := false }

/-- One queue pair (R275, R283, R284, R287). -/
structure Qp where
  state   : Nat      -- 0 RESET, 1 RTS, 2 ERROR; reset 0
  port    : Nat      -- reset 0
  cls     : Nat      -- 0 control, 1 bulk, 2 event; reset 0
  addrIx  : Nat      -- reset 0
  retry   : Nat      -- reset 7
  timeout : Nat      -- reset 14
  remote  : Nat      -- 24 bits; reset 0
  sendPsn : Nat      -- 24 bits; reset 0
  recvPsn : Nat      -- 24 bits; reset 0
  rate    : Nat      -- R283: send rate, MB/s; reset line rate, 100,000
  cutAt   : Nat      -- R283: reference counter at the last cut; reset 0
  cnpAt   : Nat      -- R283: reference counter at the last CNP sent; reset 0
  cnpIn   : Nat      -- R283: reference counter at the last CNP received; reset 0
  unack   : List Nat -- R284: PSNs sent as requester and not acknowledged; reset none
  tries   : Nat      -- R284: retransmissions of the oldest; reset 0
  recvBuf : Nat      -- R281: receive entries in use, 0–16; reset 0
deriving DecidableEq, Repr

def Qp.init : Qp :=
  { state := 0, port := 0, cls := 0, addrIx := 0, retry := 7, timeout := 14, remote := 0, sendPsn := 0, recvPsn := 0,
    rate := 100000, cutAt := 0, cnpAt := 0, cnpIn := 0, unack := [], tries := 0, recvBuf := 0 }

/-- HST_REGION(r) (R276, R287). -/
structure HRegion where
  base   : Nat
  length : Nat
  part   : Nat
  kind   : Nat
  rd     : Bool
  wr     : Bool
  valid  : Bool
  gen    : Nat
deriving DecidableEq, Repr

def HRegion.init : HRegion :=
  { base := 0, length := 0, part := 0, kind := 0, rd := false, wr := false, valid := false, gen := 0 }

/-- HST_EVQ(k) (R285, R287). -/
structure Evq where
  va     : Nat
  rkey   : Nat
  log2   : Nat
  qp     : Nat
  enable : Bool
  prod   : Nat      -- 32 bits
  cons   : Nat      -- 32 bits
  recs   : List EvRec  -- R285: records kept until the consumer count passes them, oldest first
deriving DecidableEq, Repr

def Evq.init : Evq := { va := 0, rkey := 0, log2 := 0, qp := 0, enable := false, prod := 0, cons := 0, recs := [] }

/-- R273: the binding. -/
structure Binding where
  addrs : List Nat     -- one to four host IP addresses, 128 bits each
  port  : Nat
  qpn   : Nat
  gen   : Nat          -- 16 bits
deriving DecidableEq, Repr

/-- The HST block. -/
structure Hst where
  ports   : Tab HPort
  qps     : Tab Qp
  regions : Tab HRegion
  evqs    : Tab Evq
  /-- R287: HST_CLASS, HST_ETS; resets 6, 5, 3, 48, 40, 26, 230, 26 -/
  prioC   : Nat
  prioE   : Nat
  prioB   : Nat
  dscpC   : Nat
  dscpE   : Nat
  dscpB   : Nat
  wtB     : Nat
  wtE     : Nat
  /-- R287: HST_FOREIGN (32), HST_NAK access, other (16 each), HST_DUPLICATE (32), HST_CNP sent, received (32 each): saturate,
  kept L0–L2; reset 0 -/
  foreign : Nat
  nakAcc  : Nat
  nakOth  : Nat
  dup     : Nat
  cnpOut  : Nat
  cnpIn   : Nat
deriving DecidableEq, Repr

def Hst.init : Hst :=
  { ports := [], qps := [], regions := [], evqs := [], prioC := 6, prioE := 5, prioB := 3, dscpC := 48, dscpE := 40,
    dscpB := 26, wtB := 230, wtE := 26, foreign := 0, nakAcc := 0, nakOth := 0, dup := 0, cnpOut := 0, cnpIn := 0 }

/-! ### Power (R299–R321) -/

/-- One quadrant's rail and rates (R306–R311, R321). -/
structure PQuad where
  setpoint : Nat    -- VCMPq, mV, 10 bits; reset 0
  droop    : Bool   -- reset 0
  droopAt  : Nat    -- R311: reference counter at its start; model; reset 0
  pulse    : Bool   -- reset 0
  duty     : Nat    -- d of R308, 6 bits; reset 0
  droops   : Nat    -- 16 bits, saturates, kept L0–L3; reset 0
  longest  : Nat    -- µs, 16 bits, saturates; reset 0
  est      : Nat    -- R301: corrected estimate, mW; model; reset 0
deriving DecidableEq, Repr

def PQuad.init : PQuad :=
  { setpoint := 0, droop := false, droopAt := 0, pulse := false, duty := 0, droops := 0, longest := 0, est := 0 }

/-- R316: what the gang master keeps of one member. -/
structure GMember where
  slack    : Nat    -- 1/1,024
  governed : Bool
  at0      : Nat    -- reference counter at its last SLACK; 0 none
  alloc    : Nat    -- W, its last allocation
  acked    : Bool   -- R316: it has acknowledged this round's decrease
  inc      : Option Nat -- R316: an increase withheld until every decrease is acknowledged
deriving DecidableEq, Repr

def GMember.init : GMember :=
  { slack := 0, governed := false, at0 := 0, alloc := 0, acked := true, inc := none }

/-- The PWR block. -/
structure Pwr where
  capHost  : Nat     -- W, 16 bits; reset 4500
  capMgmt  : Nat     -- W; reset 4500
  emergCap : Nat     -- W, RWL; reset 1500
  emerg    : Bool    -- R432: CAP_EMERG_N component in force; reset false
  eff      : Nat     -- PWR_CAP_STATUS effective; reset 4500
  effSrc   : Nat     -- PWR_CAP_STATUS source; reset 6
  unatt    : Bool    -- reset 0
  mFault   : Bool    -- reset 0
  lastStat : Nat     -- 8 bits; reset 0
  governed : Bool    -- PWR_MODE; reset 0
  rate     : Nat     -- PWR_MODE rate, 10 M steps/s; reset 175
  riserOn  : Bool    -- PWR_RISER_CTL; reset 1
  slow     : Nat     -- W/s; reset 1000
  floor    : Nat     -- PWR_RISER_STATUS F, W, 15 bits; reset 0
  short    : Bool    -- reset 0
  filler   : Nat     -- W, 16 bits; reset 0
  power    : Nat     -- PWR_MEASURE power, W; reset 0
  vmain    : Nat     -- 10 mV, 11 bits; reset 0
  valid    : Bool    -- reset 0
  samples  : List Nat -- R300, R307, R313: samples of the last second, newest first, at most 10,001; reset empty
  est      : Nat     -- PWR_ESTIMATE power, W; reset 0
  gainX    : Nat     -- R301: g in 1/2^32 (PWR_ESTIMATE gain shows 1/4,096); reset 2^32
  shellW   : Nat     -- R309: S, the shell's and the riser's estimate over the last 10 µs, W; model; reset 0
  cutW     : Nat     -- R307: what the measured limiter has taken off the estimate limiter's target, W; model; reset 0
  limEst   : Nat     -- PWR_LIMIT_COUNT estimate, 16 bits, saturates, kept L0–L3; reset 0
  limMeas  : Nat     -- PWR_LIMIT_COUNT measured, 16 bits, saturates, kept L0–L3; reset 0
  lostGov  : Bool    -- R312: governed rate lost (0xCC09 raised); model; reset false
  tray     : Nat     -- PWR_GANG_BUDGET, W; reset 36000
  alloc    : Nat     -- PWR_GANG_STATUS allocation, W; reset 0
  slack    : Nat     -- PWR_GANG_STATUS slack, 10 bits; reset 0
  held     : Bool    -- PWR_GANG_STATUS held; reset 0
  round    : Nat     -- R318: this master's round number, 16 bits; reset 0
  lastRound : Option Nat -- R318: round of the last ALLOC applied; reset none
  members  : Tab GMember -- R316: members by coordinate a; reset empty
  quads    : Tab PQuad
  limits   : Tab Nat  -- R306: rate limit per cluster, M steps/s, unlisted 2,300; model of R306's cluster rate limits
  thermal  : Tab Nat  -- R332: rate limit per cluster set by the junction throttle, unlisted 65,535: none; model; reset none
  eMeas    : Nat      -- R300: measured energy, µJ, 64 bits, kept L0–L3; reset 0
  eShell   : Nat      -- R48
  eRiser   : Nat      -- R48
  ePart    : Tab Nat  -- R48: per partition
  work     : Tab Nat  -- R319: key p·16 + i, 128 bits, cleared by L4 only; reset 0
deriving DecidableEq, Repr

def Pwr.init : Pwr :=
  { capHost := 4500, capMgmt := 4500, emergCap := 1500, emerg := false, eff := 4500, effSrc := 6, unatt := false,
    mFault := false, lastStat := 0, governed := false, rate := 175, riserOn := true, slow := 1000, floor := 0, short := false,
    filler := 0, power := 0, vmain := 0, valid := false, samples := [], est := 0, gainX := 4294967296, shellW := 0, cutW := 0, limEst := 0,
    limMeas := 0, lostGov := false, tray := 36000, alloc := 0, slack := 0, held := false, round := 0, lastRound := none,
    members := [], quads := [], limits := [], thermal := [], eMeas := 0, eShell := 0, eRiser := 0, ePart := [], work := [] }

/-! ### Cooling (R322–R338) -/

/-- One sensor (R325, R330, R338). -/
structure Sensor where
  reading : Int     -- 0.25 °C; reset 0
  failed  : Bool    -- R325; reset false
  implaus : Bool    -- R330; reset false
  disag   : Bool    -- R326; reset false
  entries : Nat     -- flags_count, 12 bits, saturates, kept L0–L3; reset 0
deriving DecidableEq, Repr

def Sensor.init : Sensor := { reading := 0, failed := false, implaus := false, disag := false, entries := 0 }

/-- The THM block. -/
structure Thm where
  sensors  : Tab Sensor
  option   : Nat     -- THERMAL_SOURCE in force; reset option: 2 (R347)
  inUse    : Nat     -- THM_SOURCE in_use; reset 0
  stale    : Bool    -- THM_SOURCE tray_stale; reset 0
  fixed    : Bool    -- THM_SOURCE fixed; reset 0
  inlet    : Int     -- THM_COOLANT, 0.25 °C; reset 0
  outlet   : Int     -- reset 0
  flow     : Nat     -- THM_FLOW f in use, 0.01 L/min; reset 350
  flowPkg  : Nat     -- f_pkg, 0.01 L/min; reset 350
  trIn     : Int     -- THM_TRAY inlet; reset 0
  trOut    : Int     -- reset 0
  trFlow   : Nat     -- reset 0
  trAt     : Option Nat -- reference counter at the last tray reading (age); reset none: 0xFFFF
  allowed  : Nat     -- THM_ALLOW allowed, W; reset 0
  allow    : Nat     -- THM_ALLOW allowance, W; reset 0
  throttle : BitVec 4 -- THM_STATUS junction_throttle; reset 0
  flowLoss : Bool    -- THM_STATUS flow_loss; reset 0
  hold     : Bool    -- THM_STATUS hold; reset 0
  tripped  : Bool    -- THM_STATUS tripped (THERM_TRIP_N asserted); reset 0
  vmReq    : Bool    -- THM_STATUS vmain_request; reset 0
  logSens  : Nat     -- THM_TRIP_LOG sensor (VSTBY); reset 0
  logFlow  : Bool    -- THM_TRIP_LOG flow (VSTBY); reset 0
  logVal   : Int     -- THM_TRIP_LOG value (VSTBY); reset 0
  trips    : Nat     -- THM_TRIP_COUNT, 16 bits, saturates (VSTBY); reset 0
  losses   : Nat     -- flow_losses, 16 bits, saturates (VSTBY); reset 0
  hot      : Tab Nat -- THM_HOT hot_spot per quadrant; reset 0
  hotVal   : Tab Int -- THM_HOT value per quadrant; reset 0
  model    : Tab Int -- THM_MODEL per quadrant, 0.25 °C; reset 0
  overTrip : List Nat -- R334: hot spots whose last reading was at or above trip; model; reset none
  flows    : List (Nat × Nat) -- R335: (reference counter, f) of the last second, newest first; model; reset none
  okFrom   : Option Nat -- R335: since when f has stayed at or above 1.5 L/min and not fallen; model; reset none
  noLeave  : Bool    -- R335: recovery timed out, the hold stays; model; reset false
  fell     : Bool    -- R324: the allowance has fallen and rises by at most 1,000 W/s; model; reset false
  cycled   : Bool    -- R334: VMAIN has been removed and restored, or an L4 performed, since the trip; model; reset false
deriving DecidableEq, Repr

def Thm.init : Thm :=
  { sensors := [], option := 2, inUse := 0, stale := false, fixed := false, inlet := 0, outlet := 0, flow := 350,
    flowPkg := 350, trIn := 0, trOut := 0, trFlow := 0, trAt := none, allowed := 0, allow := 0, throttle := 0,
    flowLoss := false, hold := false, tripped := false, vmReq := false, logSens := 0, logFlow := false, logVal := 0,
    trips := 0, losses := 0, hot := [], hotVal := [], model := [], overTrip := [], flows := [], okFrom := none, noLeave := false,
    fell := false, cycled := false }

/-! ### Reset, flashes, update, security, management -/

/-- R355: a copy of the catalogue record: FAILED slots and spare assignments (cluster, logical j). -/
structure CatRec where
  failed : List Nat
  spares : List (Nat × Nat)
deriving DecidableEq, Repr

/-- R347: the option block's fields. -/
structure OptBlock where
  version  : Nat
  bootBank : Nat
  thermal  : Nat
  c        : Nat
  d        : Nat
  orphan   : Nat
  fabEn    : Nat
  hostEn   : Nat
  hostSp   : Nat
  hostMed  : Nat
  override : Nat          -- 64 bits, nibble i for source i
  fabLanes : List Nat     -- 144 bytes
  hostLanes : List Nat    -- 16 bytes
deriving DecidableEq, Repr

/-- R347: the Default column. -/
def OptBlock.default : OptBlock :=
  { version := 1, bootBank := 0, thermal := 2, c := 0, d := 0, orphan := 2700, fabEn := 0x3FFFF, hostEn := 0xF, hostSp := 0,
    hostMed := 0, override := 0xFFFFFFFFFFFFFFFF,
    fabLanes := (List.range 144).map (· % 8), hostLanes := (List.range 16).map (· % 4) }

/-- R416, R394: the settings block: version, the mould policy in force and its slot mask. -/
structure Settings where
  version : Nat
  policy  : Nat
  slots   : BitVec 4
deriving DecidableEq, Repr

/-- R405, R406: a stored firmware image: folio 0 and the image bytes. -/
structure Image where
  folio0 : Bytes
  bytes  : Bytes
deriving DecidableEq, Repr

/-- R405–R410: a staged component: state 1 receiving, 2 complete, 3 rejected; bitmap of verified folios. -/
structure Staged where
  state  : Nat
  folio0 : Bytes
  bitmap : BitVec 128
deriving DecidableEq, Repr

/-- R405: the two QSPI flashes and the update state in them. They survive every reset. -/
structure Flash where
  optA     : Option OptBlock  -- none: magic or CRC-32C fails (R346); reset: R347's defaults (DESIGN CHOICE 5)
  optB     : Option OptBlock
  recA     : Option CatRec    -- reset: an empty record
  recB     : Option CatRec
  setCur   : Option Settings
  setPrev  : Option Settings
  images   : Tab (Option Image) -- key bank·8 + component
  staged   : Tab (Option Staged) -- key component
  folio    : Nat              -- R421: component of the package receiving or last completed (UPD_PROGRESS)
  trial    : Option Nat       -- R414: trial bank
  attempts : Tab Nat          -- R414: boot attempts per bank
  syncOk   : Tab Bool         -- R417: the bank's synchronisation has completed; reset both (DESIGN CHOICE 5)
  recTrial : Bool             -- R418: the trial is one that the recovery ROM began; reset false
deriving DecidableEq, Repr

def Flash.init : Flash :=
  { optA := some OptBlock.default, optB := some OptBlock.default, recA := some { failed := [], spares := [] },
    recB := some { failed := [], spares := [] }, setCur := none, setPrev := none, images := [], staged := [], folio := 0,
    trial := none, attempts := [], syncOk := [(0, true), (1, true)], recTrial := false }

/-- The UPD block's volatile part (R421). -/
structure Upd where
  mode     : Bool    -- UPD_CTL, RWL; reset firmware: 0 (R413 default)
  errCode  : Nat     -- UPD_ERROR code, status, valid; reset 0
  errStat  : Nat
  errValid : Bool
  dups     : Nat     -- UPD_FOLIOS, 16 bits each, saturate, kept L0–L3; reset 0
  refused  : Nat
  bank     : Nat     -- UPD_BOOT bank; reset firmware: 0
  lastFail : Nat     -- UPD_BOOT last_fail; reset firmware: 0
  bootsel  : Nat     -- BOOTSEL at the last L4; reset strap: 0
  sync     : Bool    -- bank synchronisation in progress; reset firmware: 0
  trialRun : Bool    -- running a trial; reset firmware: 0
  recovery : Bool    -- running from the recovery ROM; reset firmware: 0
  setVer   : Nat     -- UPD_SETTINGS version in use; reset firmware: 0
  rejected : Bool    -- R417: an event 0xD444 is due at READY; model; reset false
  recDone  : Bool    -- R418: an event 0xD446 is due at READY; model; reset false
deriving DecidableEq, Repr

def Upd.init : Upd :=
  { mode := false, errCode := 0, errStat := 0, errValid := false, dups := 0, refused := 0, bank := 0, lastFail := 0,
    bootsel := 0, sync := false, trialRun := false, recovery := false, setVer := 0, rejected := false, recDone := false }

/-- R344, R345: a reset that awaits its idle request or its completion. -/
structure ResetOp where
  level   : Nat
  source  : Nat
  part    : Nat
  target  : Nat
  retrain : Bool
  idle    : Bool      -- the idle request has ended and the blocks have been reset
  fences  : List Nat  -- the FENCE work orders (indices on the control queue) that asked for it or were absorbed by it
  at0     : Nat
deriving DecidableEq, Repr

/-- The RST block, supplies and pins. -/
structure Rst where
  state    : Nat      -- RST_STATE state; reset 0
  step     : Nat      -- RST_STATE step; reset 0
  forced   : Nat      -- 16 bits, saturates, kept L0–L3; reset 0
  causeLv  : Nat      -- RST_CAUSE level, source, partition, target; reset firmware: 4, 2, 0, 0 (an L4 by POR)
  causeSrc : Nat
  causeP   : Nat
  causeT   : Nat
  idleMs   : Nat      -- RST_IDLE_TIMEOUT; reset 50
  override : Nat      -- R343: reach override of the option block in use; reset all 0xF
  bringup  : Tab Nat  -- RST_BRINGUP, µs; reset 0
  optCopy  : Nat      -- RST_OPTION copy; reset option: 0
  optVer   : Nat      -- RST_OPTION version; reset option: 1
  recCopy  : Nat      -- RST_OPTION record; reset firmware: 0
  optUsed  : OptBlock -- the option block in use since the last L4
  backup   : Tab Nat  -- RST_BACKUP, 32 bits each (VSTBY); reset 0
  retained : Tab Nat  -- RST_RETAINED, 2,048 words (VSTBY); reset 0
  audit    : Tab Nat  -- RST_AUDIT counts, 16 bits (VBKP); reset 0
  auditSat : Tab Bool -- RST_AUDIT saturated (VBKP); reset 0
  ops      : List ResetOp  -- resets in progress; reset none
  l4Source : Nat      -- R350: source of the last L4; reset 2 (POR)
  vmainAt  : Nat      -- reference counter when VMAIN became valid; reset 0
  vstby    : Bool     -- R437: supplies valid; reset true
  vmain    : Bool     -- reset true
  vbkp     : Bool     -- reset true
  lostV    : Bool     -- R342: VMAIN has been lost since the last L4; model; reset false
  refclk   : Bool     -- R29: REFCLK in tolerance; reset true
  pinHeld  : Bool     -- RESET_IN_N asserted; reset false
  booted   : Bool     -- step 2 of R349 done; reset false
  wantRec  : Bool     -- R418: an accepted recovery-mode command whose SWR L4 enters the recovery ROM; model; reset false
  stallMs  : Nat      -- RST_RECOVER_CTL stall_ms; reset 200
  autoWd   : Bool     -- reset 1
  autoSt   : Bool     -- reset 1
  expVa    : Nat      -- RST_HANG_EXPORT; reset 0
  expRkey  : Nat
  expQp    : Nat
  expMib   : Nat
  expOn    : Bool
  twPeer   : Tab (Nat × Nat × Bool) -- RST_TWIN_PEER: device, partitions, valid; reset 0
  twDup    : Nat      -- RST_TWIN_DUPLICATE duplicates (32), stale (16), full (16): saturate, kept L0–L3; reset 0
  twStale  : Nat
  twFull   : Nat
deriving DecidableEq, Repr

def Rst.init : Rst :=
  { state := 0, step := 0, forced := 0, causeLv := 4, causeSrc := 2, causeP := 0, causeT := 0, idleMs := 50,
    override := 0xFFFFFFFFFFFFFFFF, bringup := [], optCopy := 0, optVer := 1, recCopy := 0, optUsed := OptBlock.default,
    backup := [], retained := [], audit := [], auditSat := [], ops := [], l4Source := 2, vmainAt := 0, vstby := true,
    vmain := true, vbkp := true, lostV := false, refclk := true, pinHeld := false, booted := false, wantRec := false, stallMs := 200, autoWd := true,
    autoSt := true, expVa := 0, expRkey := 0, expQp := 0, expMib := 0, expOn := false, twPeer := [], twDup := 0,
    twStale := 0, twFull := 0 }

/-- R376: a twin filter entry. Recorded outcomes: none = unsettled. -/
structure TwinEnt where
  pair    : Nat
  part    : Nat
  stream  : Nat
  highest : Nat
  seen    : Tab (Option Nat)   -- twin_seq to the outcome of its first copy
  lastAt  : Nat
deriving DecidableEq, Repr

/-- R377: a closed range awaiting the other twin's digest. -/
structure Range where
  part   : Nat
  stream : Nat
  first  : Nat
  last   : Nat
  digest : Nat
deriving DecidableEq, Repr

/-- R375, R377: one stream of this device: the next twin_seq to reserve; its open range (first, last, packets, payload, digest). -/
structure Stream where
  part   : Nat
  next   : Nat
  first  : Nat
  last   : Nat
  count  : Nat
  bytes  : Nat
  digest : Nat
deriving DecidableEq, Repr

/-- Twin operation (R373–R381). -/
structure Twin where
  filter  : List TwinEnt
  streams : Tab (Option Stream)   -- key: stream number (R374)
  own     : List Range            -- closed here, partner's digest awaited
  theirs  : List Range            -- received from the partner, own range not yet closed
  heardAt : Nat                   -- R380: reference counter at the last TWIN packet of the partner
deriving DecidableEq, Repr

def Twin.init : Twin := { filter := [], streams := [], own := [], theirs := [], heardAt := 0 }

/-- R398: a report request waiting. -/
structure RepReq where
  kind  : Nat
  nonce : Bytes
  fence : Option Nat            -- index of the ATTEST on the control queue; none for Novvan
  msg   : Option Novvan
deriving DecidableEq, Repr

/-- The SEC block, the ARC lock and the report buffer. -/
structure Sec where
  locked    : Bool    -- ARC_LOCK locked; cleared by L4 only; reset 0
  accessErr : Nat     -- ARC_ACCESS_ERR, 32 bits, saturates, kept L0–L3; reset 0
  report    : Bytes   -- ARC_REPORT; reset empty
  repValid  : Bool    -- reset 0
  repSeq    : Nat     -- R399: reports signed since L4; reset 0
  repQ      : List RepReq  -- R398: requests, oldest first: the one being served, and at most 4 waiting; reset none
  debug     : Nat     -- SEC_DEBUG state; reset 0 LOCKED
  ppLow     : Bool    -- SEC_PRESENCE pp; reset 0
  presAt    : Option Nat -- reference counter when the last presence assertion reached 200 ms; reset none
  presUsed  : Bool    -- R392: that assertion has qualified a command, or was voided; reset false
  presRun   : Bool    -- R392: the current low run has counted as an assertion; model; reset false
  sealOpen  : Bool    -- SEC_SEAL open; reset 0
  sealBad   : Nat     -- R393: failed checks in a row; reset 0
  sealUnack : Bool    -- (VBKP) reset 0
  sealN     : Nat     -- (VBKP) break count, 16 bits; reset 0
  challenge : Nat     -- 64 bits; reset firmware: drawn by the Archivist (free value at bring-up)
  refPres   : Nat     -- SEC_REFUSED presence, 16 bits, saturates; reset 0
  refSig    : Nat     -- SEC_REFUSED signature, 16 bits, saturates; reset 0
  policy    : Nat     -- MLD_POLICY policy in force; reset fuse floor
  slots     : BitVec 4 -- MLD_POLICY slots; reset fuse floor
deriving DecidableEq, Repr

def Sec.init : Sec :=
  { locked := false, accessErr := 0, report := [], repValid := false, repSeq := 0, repQ := [], debug := 0, ppLow := false,
    presAt := none, presUsed := false, presRun := false, sealOpen := false, sealBad := 0, sealUnack := false, sealN := 0,
    challenge := 0, refPres := 0, refSig := 0, policy := 0, slots := 0 }

/-- R427: a kept reply. -/
structure Reply where
  path   : Bool
  cmd    : Nat
  tag    : Nat
  status : Nat
  detail : Nat
  body   : Bytes
deriving DecidableEq, Repr

/-- R427: a reply or notification the controller has not read or answered. -/
structure Note where
  cmd  : Nat
  tag  : Nat
  body : Bytes
  eid  : Nat
  at0  : Nat
  read : Bool
deriving DecidableEq, Repr

/-- The management port (R422–R434). -/
structure Mgmt where
  i3c      : Option Nat   -- dynamic address, 7 bits; reset none
  mrl      : Nat          -- reset 64
  mwl      : Nat          -- reset 64
  eid      : Option Nat   -- reset none
  keepEid  : Option Nat   -- EID that last sent KEEPALIVE; reset none
  keepAt   : Option Nat   -- reference counter at the last KEEPALIVE; reset none (age 0xFFF)
  gen      : Nat          -- 32 bits; reset 0
  orphan   : Bool         -- reset 0
  discard  : Nat          -- ARC_MGMT_COUNT: four 16-bit counts, saturate; reset 0
  repeated : Nat
  unread   : Nat
  skipped  : Nat
  replies  : List Reply   -- R427: the last 64 per path, newest first; reset none
  pendRep  : List Note    -- R427: replies not yet read; reset none
  notes    : List Note    -- R427: notifications not yet answered; reset none
  nextTag  : Nat          -- tag of the next notification; model; reset 0
  subs     : BitVec 256   -- R430: shell group mask; reset 0
  copied   : List EvRec   -- R430: shell records copied and not yet sent, oldest first; reset none
  unans    : Nat          -- R430: copied records unanswered; reset 0
  evAt     : Option Nat   -- R430: reference counter at the last EVENTS; model; reset none
  notice   : Option (Nat × Nat) -- R433: isolate notice: arrival, cause; reset none
  straps   : Nat          -- R431: SLOT_A (bits 2:0), TRAY_B (5:3), BOOTSEL (7:6), GANG_MASTER_EN (8) as last sampled; reset strap: 0
  beat     : Bool         -- HEARTBEAT level; reset 0
  beating  : Bool         -- HEARTBEAT toggles; reset false
  slowBring : Bool        -- ARC_ERR_CAUSE f_bringup; cleared at L4; reset 0
  vmHold   : Option Nat   -- ARC_ERR_CAUSE f_vmain: VMAIN_REMOVE held, with its cause; reset none
  wOption  : Bool         -- ARC_ERR_CAUSE w_option; reset 0
  lossP    : Nat          -- ARC_VMAIN_LOG power, cap, expected, cause, losses (VSTBY); reset 0
  lossCap  : Nat
  lossExp  : Bool
  lossWhy  : Nat
  lossN    : Nat
  lossAt   : Option Nat   -- R433: reference counter at an unexpected loss; model; reset none
deriving DecidableEq, Repr

def Mgmt.init : Mgmt :=
  { i3c := none, mrl := 64, mwl := 64, eid := none, keepEid := none, keepAt := none, gen := 0, orphan := false, discard := 0,
    repeated := 0, unread := 0, skipped := 0, replies := [], pendRep := [], notes := [], nextTag := 0, subs := 0,
    copied := [], unans := 0, evAt := none, notice := none, straps := 0, beat := false, beating := false,
    slowBring := false, vmHold := none, wOption := false, lossP := 0, lossCap := 0, lossExp := false, lossWhy := 0,
    lossN := 0, lossAt := none }

/-- R16–R18: one requester's shadow and pending write. Registers are named by the offset of their word 0. -/
structure Access where
  shReg  : Option Nat      -- register whose words 1.. the shadow holds
  shadow : List Nat        -- words 1 .. n − 1
  pdReg  : Option Nat      -- register with pending words
  pend   : Tab (Option Nat) -- word index to pending value
deriving DecidableEq, Repr

def Access.init : Access := { shReg := none, shadow := [], pdReg := none, pend := [] }

/-! ### What the device hands to the outside -/

/-- model: what the device has sent (DESIGN CHOICE 6): one constructor for each kind of output the commands produce. -/
inductive Out where
  | regData (r : Requester) (addr value : Nat)          -- R11: the value a register read returned
  | memData (data : Bytes)                              -- R183: the data of a near-memory READ
  | memFail                                             -- R181, R34: nothing delivered
  | accBad (stack tag pos : Nat)                        -- R186: a contribution that failed its CRC-32C
  | flit (port seq vc : Nat) (last : Bool)              -- R202: a DATA flit put on a link
  | idle (port : Nat)                                   -- R202
  | nak (port ack : Nat)                                -- R205
  | hello (port dev lanes : Nat) (master : Bool)        -- R211
  | lanemap (port mask ack : Nat)                       -- R208
  | inject (p : Packet)                                 -- R226: a packet of this device waits to enter its router
  | runAnswer (dev runner : Nat) (ok : Bool)            -- R234: the answer to a runner setup
  | roceAck (qp psn : Nat)                              -- R279
  | roceNak (qp psn syn : Nat)                          -- R279
  | roceData (qp psn : Nat) (data : Bytes)              -- R274: READ response
  | hostWrite (qp va rkey : Nat) (data : Bytes)         -- R285, R367: RDMA WRITE to the host
  | hostImm (qp imm : Nat)                              -- R285: WRITE with immediate
  | hostRead (va rkey len : Nat)                        -- R134: mould fetch
  | resend (qp psn : Nat)                               -- R284
  | cnp (qp : Nat)                                      -- R283
  | pfc (port cls : Nat) (pause : Bool)                 -- R282
  | arp (port : Nat)                                    -- R272
  | neighbor (port : Nat)                               -- R272
  | novvan (path : Bool) (cmd tag status detail : Nat) (body : Bytes)  -- R425, R427
  | note (cmd tag eid : Nat) (body : Bytes)             -- R427: a notification
  | mctp (cmd : Nat) (data : Bytes)                     -- R423
  | pldm (cmd cc : Nat) (data : Bytes)                  -- R424: completion code and data
deriving DecidableEq, Repr

/-- Everything of the device but its fuses and the command queue. -/
structure Dev where
  /-- R26, R293: the reference counter, 48 bits, 10 ns units; reset 0 -/
  now   : Nat
  /-- model: index of the next free value (DESIGN CHOICE 1); reset 0 -/
  free  : Nat
  cat   : Cat
  mld   : Mld
  que   : Que
  syn   : Syn
  evc   : Evc
  mem   : Mem
  ports : Tab Port
  rte   : Rte
  ldl   : Ldl
  hst   : Hst
  bind  : Option Binding   -- R273: held in retained memory (VSTBY); reset none
  pwr   : Pwr
  thm   : Thm
  rst   : Rst
  flash : Flash
  upd   : Upd
  sec   : Sec
  mgmt  : Mgmt
  twin  : Twin
  /-- R16–R18: shadows and pending writes, key requester 0–4; reset empty -/
  acc   : Tab Access
  /-- model: what the device has handed to the outside, newest first (DESIGN CHOICE 6); reset none -/
  out   : List Out
deriving DecidableEq, Repr

def Dev.init : Dev :=
  { now := 0, free := 0, cat := Cat.init, mld := Mld.init, que := Que.init, syn := Syn.init, evc := Evc.init,
    mem := Mem.init, ports := [], rte := Rte.init, ldl := Ldl.init, hst := Hst.init, bind := none, pwr := Pwr.init,
    thm := Thm.init, rst := Rst.init, flash := Flash.init, upd := Upd.init, sec := Sec.init, mgmt := Mgmt.init,
    twin := Twin.init, acc := [], out := [] }

/-- R385, R388: the vendor fuse bank, programmed at manufacture and locked. -/
structure VendorFuses where
  unitId : Nat      -- 128 bits; fuse value 0 (DESIGN CHOICE 7)
  part   : Nat      -- 0x9160
  step   : Nat      -- 0xB0
  mac    : Nat      -- 48 bits; 0 (DESIGN CHOICE 7)
  iana   : Nat      -- 32 bits; 0 (DESIGN CHOICE 7)
  root   : Nat      -- hash of the vendor root key, 256 bits; 0 (DESIGN CHOICE 7)
  secret : Nat      -- device secret, 256 bits; 0 (DESIGN CHOICE 7)
deriving DecidableEq, Repr

/-- R388: the owner fuse bank. Each bit changes only from 0 to 1. -/
structure OwnerFuses where
  hash0    : BitVec 256   -- SHA-256 of the public key of slot 0; 0 (none enrolled)
  hash1    : BitVec 256
  hash2    : BitVec 256
  hash3    : BitVec 256
  enrolled : BitVec 4     -- R404; 0
  revoked  : BitVec 4     -- 0
  rollback : BitVec 192   -- six 32-bit thermometers, component c at bits 32c + 31:32c; 0
  reach    : BitVec 64    -- R342 factory codes
  policy   : BitVec 2     -- R394: policy floor; factory OPEN
  slots    : BitVec 4     -- R394: slot mask of the floor; 0
  conf     : BitVec 1     -- R394: confidential policy; 0
  autoLock : BitVec 1     -- R402; 0
deriving DecidableEq, Repr

/-- R342: the Factory code column, nibble i for source i. -/
def factoryReach : BitVec 64 := 0x0000445445555543#64

def VendorFuses.init : VendorFuses :=
  { unitId := 0, part := 0x9160, step := 0xB0, mac := 0, iana := 0, root := 0, secret := 0 }

def OwnerFuses.init : OwnerFuses :=
  { hash0 := 0, hash1 := 0, hash2 := 0, hash3 := 0, enrolled := 0, revoked := 0, rollback := 0, reach := factoryReach,
    policy := 0, slots := 0, conf := 0, autoLock := 0 }

/-- The state of the block: its fuses, everything else, and the commands that wait, first in, first out. -/
structure State where
  /-- R385, R388: never changed by any command -/
  vendor  : VendorFuses
  /-- R388, R389: bits change only from 0 to 1 -/
  owner   : OwnerFuses
  dev     : Dev
  /-- the commands waiting, front first; reset empty -/
  pending : List Instr
deriving DecidableEq, Repr

/-- Why the block stops. Raised where a command names a unit the device does not have. -/
inductive Fault where
  /-- Raised by a command whose unit number (port, cell, stack, sensor, slot, quadrant, queue, plan …) lies beyond the
  number the spec gives the device (R9, R20): there is no such unit for the event to happen at. Safe: hardware never sees it. -/
  | noSuchUnit
deriving DecidableEq, Repr

/-- Why a command has no meaning. -/
inductive Refusal where
  /-- Raised by exec's arms that have no meaning yet. Safe: the model stops where the hardware goes on. -/
  | notModelled (mnemonic : String)
deriving DecidableEq, Repr

/-- The machine right after an L4 reset by POR with both supplies valid: every register at the Reset column of its map. -/
def State.reset : State :=
  { vendor := VendorFuses.init, owner := OwnerFuses.init, dev := Dev.init, pending := [] }

end Sys2Proof.Machine
end

