-- ==== Sys2Proof/Machine/Ops.lean ====
section
/-! DEFINITION. The named operations over the state that every family shares: updating one block, units and their tables, free
values, events (R288–R293), trace (R110), ledger (R75, R95, R96), ownership (R32), grants (R117), memory (R37–R42, R107,
R174–R181), sync counters (R164). The device takes no exceptions: raising an event or an error flag is an update of the state. -/

namespace Sys2Proof.Machine

abbrev Ans := Host.Outcome State Fault Refusal

/-- A command's answer: the device changed, fuses and queue kept. -/
def onDev (s : State) (f : Dev → Dev) : Ans := .next { s with dev := f s.dev }

/-- A command that names a unit: beyond the device's range there is no such unit. -/
def unitOk (ok : Bool) (a : Ans) : Ans := if ok then a else .fault .noSuchUnit

/-! ### One block, one table entry -/

def Dev.upCat (d : Dev) (f : Cat → Cat) : Dev := { d with cat := f d.cat }
def Dev.upMld (d : Dev) (f : Mld → Mld) : Dev := { d with mld := f d.mld }
def Dev.upQue (d : Dev) (f : Que → Que) : Dev := { d with que := f d.que }
def Dev.upSyn (d : Dev) (f : Syn → Syn) : Dev := { d with syn := f d.syn }
def Dev.upEvc (d : Dev) (f : Evc → Evc) : Dev := { d with evc := f d.evc }
def Dev.upMem (d : Dev) (f : Mem → Mem) : Dev := { d with mem := f d.mem }
def Dev.upRte (d : Dev) (f : Rte → Rte) : Dev := { d with rte := f d.rte }
def Dev.upLdl (d : Dev) (f : Ldl → Ldl) : Dev := { d with ldl := f d.ldl }
def Dev.upHst (d : Dev) (f : Hst → Hst) : Dev := { d with hst := f d.hst }
def Dev.upPwr (d : Dev) (f : Pwr → Pwr) : Dev := { d with pwr := f d.pwr }
def Dev.upThm (d : Dev) (f : Thm → Thm) : Dev := { d with thm := f d.thm }
def Dev.upRst (d : Dev) (f : Rst → Rst) : Dev := { d with rst := f d.rst }
def Dev.upFlash (d : Dev) (f : Flash → Flash) : Dev := { d with flash := f d.flash }
def Dev.upUpd (d : Dev) (f : Upd → Upd) : Dev := { d with upd := f d.upd }
def Dev.upSec (d : Dev) (f : Sec → Sec) : Dev := { d with sec := f d.sec }
def Dev.upMgmt (d : Dev) (f : Mgmt → Mgmt) : Dev := { d with mgmt := f d.mgmt }
def Dev.upTwin (d : Dev) (f : Twin → Twin) : Dev := { d with twin := f d.twin }

def Dev.slot (d : Dev) (k : Nat) : Slot := tget Slot.init d.cat.slots k
def Dev.upSlot (d : Dev) (k : Nat) (f : Slot → Slot) : Dev := d.upCat (fun c => { c with slots := tup Slot.init c.slots k f })

def Dev.part (d : Dev) (p : Nat) : Part := tget Part.init d.mld.parts p
def Dev.upPart (d : Dev) (p : Nat) (f : Part → Part) : Dev := d.upMld (fun m => { m with parts := tup Part.init m.parts p f })

def Dev.queue (d : Dev) (q : Nat) : Queue := tget Queue.init d.que.queues q
def Dev.upQueue (d : Dev) (q : Nat) (f : Queue → Queue) : Dev :=
  d.upQue (fun m => { m with queues := tup Queue.init m.queues q f })

def Dev.counter (d : Dev) (n : Nat) : Counter := tget Counter.init d.syn.counters n
def Dev.upCounter (d : Dev) (n : Nat) (f : Counter → Counter) : Dev :=
  d.upSyn (fun m => { m with counters := tup Counter.init m.counters n f })

def Dev.src (d : Dev) (n : Nat) : Src := tget Src.init d.evc.srcs n
def Dev.upSrc (d : Dev) (n : Nat) (f : Src → Src) : Dev := d.upEvc (fun m => { m with srcs := tup Src.init m.srcs n f })

def Dev.group (d : Dev) (g : Nat) : EvGroup := tget EvGroup.init d.evc.groups g
def Dev.upGroup (d : Dev) (g : Nat) (f : EvGroup → EvGroup) : Dev :=
  d.upEvc (fun m => { m with groups := tup EvGroup.init m.groups g f })

def Dev.stack (d : Dev) (s : Nat) : Stack := tget Stack.init d.mem.hbm s
def Dev.upStack (d : Dev) (s : Nat) (f : Stack → Stack) : Dev := d.upMem (fun m => { m with hbm := tup Stack.init m.hbm s f })

def Dev.port (d : Dev) (p : Nat) : Port := tget Port.init d.ports p
def Dev.upPort (d : Dev) (p : Nat) (f : Port → Port) : Dev := { d with ports := tup Port.init d.ports p f }

def Dev.hport (d : Dev) (p : Nat) : HPort := tget HPort.init d.hst.ports p
def Dev.upHPort (d : Dev) (p : Nat) (f : HPort → HPort) : Dev := d.upHst (fun m => { m with ports := tup HPort.init m.ports p f })

def Dev.qp (d : Dev) (n : Nat) : Qp := tget Qp.init d.hst.qps n
def Dev.upQp (d : Dev) (n : Nat) (f : Qp → Qp) : Dev := d.upHst (fun m => { m with qps := tup Qp.init m.qps n f })

def Dev.evq (d : Dev) (k : Nat) : Evq := tget Evq.init d.hst.evqs k
def Dev.upEvq (d : Dev) (k : Nat) (f : Evq → Evq) : Dev := d.upHst (fun m => { m with evqs := tup Evq.init m.evqs k f })

def Dev.plan (d : Dev) (n : Nat) : Option Plan := tget none d.ldl.plans n
def Dev.upPlan (d : Dev) (n : Nat) (f : Plan → Plan) : Dev :=
  d.upLdl (fun m => { m with plans := tup none m.plans n (fun o => o.map f) })

def Dev.pquad (d : Dev) (q : Nat) : PQuad := tget PQuad.init d.pwr.quads q
def Dev.upPQuad (d : Dev) (q : Nat) (f : PQuad → PQuad) : Dev := d.upPwr (fun m => { m with quads := tup PQuad.init m.quads q f })

def Dev.sensor (d : Dev) (n : Nat) : Sensor := tget Sensor.init d.thm.sensors n
def Dev.upSensor (d : Dev) (n : Nat) (f : Sensor → Sensor) : Dev :=
  d.upThm (fun m => { m with sensors := tup Sensor.init m.sensors n f })

/-- model: hands something to the outside. -/
def Dev.emit (d : Dev) (o : Out) : Dev := { d with out := o :: d.out }

/-- model: a free value of `w` bits, and the state with the count of free values advanced (notes/assumptions/1). -/
def Dev.draw (d : Dev) (w : Nat) : BitVec w × Dev := (Config.freeValue w d.free, { d with free := d.free + 1 })

/-- model: `n` free bytes. -/
def Dev.drawBytes (d : Dev) (n : Nat) : Bytes × Dev :=
  ((List.range n).map (fun i => Config.freeValue 8 (d.free + i)), { d with free := d.free + n })

/-- Folds a device update over a list. -/
def Dev.each {α : Type} (d : Dev) (l : List α) (f : Dev → α → Dev) : Dev := l.foldl f d

/-! ### Events -/

/-- R288: sources 0xC400–0xD7FF are the shell's. -/
def shellSrc (n : Nat) : Bool := decide (0xC400 ≤ n) && decide (n ≤ 0xD7FF)

/-- R289, R290: raises source `n`. -/
def Dev.raise (d : Dev) (n info : Nat) : Dev :=
  let s := d.src n
  let i := info % 2 ^ 48
  if !shellSrc n && !s.bound then d.upEvc (fun e => { e with refUnb := satAdd 16 e.refUnb 1 })
  else if s.pending < 255 then
    d.upSrc n (fun s => { s with
      pending := s.pending + 1, info := i,
      first := if s.pending = 0 then d.now else s.first,
      onOsc := if s.pending = 0 then !d.rst.refclk else s.onOsc })
  else
    (d.upSrc n (fun s => { s with info := i })).upGroup (n / 256) (fun g =>
      { g with spill := satAdd 32 g.spill 1, spillOvf := g.spillOvf || satOver 32 g.spill 1 })

/-- Raises source `n` where the spec gives the event no info field: the info is a free value (notes/assumptions/1). -/
def Dev.raiseAny (d : Dev) (n : Nat) : Dev :=
  let x := d.draw 48
  x.2.raise n x.1.toNat

/-- R290: completes source `n`; a completion with nothing outstanding is stray. -/
def Dev.complete (d : Dev) (n : Nat) : Dev :=
  if (d.src n).outst then d.upSrc n (fun s => { s with outst := false })
  else d.upEvc (fun e => { e with stray := satAdd 32 e.stray 1 })

/-- R40, R41: a refused access raises 0xC830 with the address's low 32 bits. -/
def Dev.refuse (d : Dev) (addr : Nat) : Dev := d.raise 0xC830 (addr % 2 ^ 32)

/-- R177: an access that the page map refuses is counted and raises 0xC830. -/
def Dev.denyPage (d : Dev) (addr : Nat) : Dev :=
  (d.upMem (fun m => { m with refused := satAdd 32 m.refused 1 })).refuse addr

/-- R297: clears the sources that satisfy `p`; their pending counts go to EVC_CLEARED. -/
def Dev.clearSrcs (d : Dev) (p : Nat → Src → Bool) : Dev :=
  let n := (d.evc.srcs.filter (fun kv => p kv.1 kv.2)).foldl (fun a kv => a + kv.2.pending) 0
  d.upEvc (fun e => { e with
    srcs := tmap Src.init (fun k s => if p k s then { s with pending := 0, outst := false, info := 0, first := 0, onOsc := false } else s) e.srcs,
    cleared := satAdd 64 e.cleared n })

/-! ### Trace -/

/-- R110: unconsumed entries. -/
def trUsed (c : Cat) : Nat := (c.trWrite + 4096 - c.trRead) % 4096

/-- R110: writes one entry at the write pointer. -/
def trPut (c : Cat) (t : TraceEnt) : Cat :=
  { c with
    trWrapped := c.trWrapped || (!c.trStop && (tget none c.trBuf c.trWrite).isSome),
    trBuf := tset none c.trBuf c.trWrite (some t),
    trWrite := (c.trWrite + 1) % 4096 }

/-- R110: records an event of partition `p` if tracing selects it; nothing of a confidential partition is recorded (R396). -/
def Dev.trace (d : Dev) (kind p quad payload : Nat) : Dev :=
  if d.cat.trEnable && bit d.cat.trParts.toNat p && !(d.part p).conf then
    d.upCat (fun c =>
      if c.trStop && trUsed c == 4095 then
        { c with trLost := satAdd 16 c.trLost 1, trMissed := satAdd 48 c.trMissed 1 }
      else trPut c { kind := kind, part := p, quad := quad, ts := d.now, payload := payload % 2 ^ 48 })
  else d

/-! ### Ledger -/

/-- R96, R44: adds to a partition's ledger counters. -/
def Part.ledger (p : Part) (l : Led) : Part :=
  { p with
    sat := satAdd 64 p.sat l.sat, satOvf := p.satOvf || satOver 64 p.sat l.sat,
    nan := satAdd 64 p.nan l.nan, nanOvf := p.nanOvf || satOver 64 p.nan l.nan,
    inv := satAdd 64 p.inv l.inv, invOvf := p.invOvf || satOver 64 p.inv l.inv }

/-- Rewrites the flight of work order (q, i). -/
def Dev.upFlight (d : Dev) (q i : Nat) (f : Flight → Flight) : Dev :=
  d.upQue (fun m => { m with flights := updWhere (fun x => x.queue == q && x.index == i) f m.flights })

/-- The flight of work order (q, i), if it is in flight. -/
def Dev.flight (d : Dev) (q i : Nat) : Option Flight := d.que.flights.find? (fun x => x.queue == q && x.index == i)

/-- R75, R95: counts of one cause go to the partition's ledger and to the work order's three counts in one event. -/
def Dev.ledger (d : Dev) (p q i : Nat) (l : Led) : Dev :=
  (d.upPart p (fun x => x.ledger l)).upFlight q i (fun f =>
    { f with sat := satAdd 32 f.sat l.sat, nan := satAdd 32 f.nan l.nan, inv := satAdd 32 f.inv l.inv })

/-! ### Ownership and grants -/

/-- R32: partition numbers. -/
def parts16 : List Nat := List.range 16

/-- R143: the partition holds resources. -/
def Part.poured (p : Part) : Bool := p.state != 0 && p.state != 1

/-- R34: requests reach the partition only while it is READY. -/
def Part.ready (p : Part) : Bool := p.state == 2

/-- R32: owner of cluster c = 16q + k. -/
def Dev.clusterPart (d : Dev) (c : Nat) : Option Nat := parts16.find? (fun p => bit (d.part p).clusters.toNat c)

/-- R32: owner of logical cell n. -/
def Dev.cellPart (d : Dev) (n : Nat) : Option Nat := d.clusterPart (n / 16)

/-- R32: owner of stack s. -/
def Dev.stackPart (d : Dev) (s : Nat) : Option Nat := parts16.find? (fun p => bit (d.part p).stackSet.toNat s)

/-- R106: the physical slot index q·512 + k·32 + slot behind logical cell n. -/
def Dev.slotOf (d : Dev) (n : Nat) : Option Nat :=
  let s := tget (n % 16) d.cat.map n
  if s = 31 then none else some (n / 16 * 32 + s)

/-- R106: the logical cell that a physical slot serves. -/
def Dev.cellOf (d : Dev) (k : Nat) : Option Nat :=
  ((List.range 16).map (fun j => k / 32 * 16 + j)).find? (fun n => d.slotOf n == some k)

/-- R9: device coordinates. -/
def devA (id : Nat) : Nat := id % 8
def devB (id : Nat) : Nat := id / 8 % 8
def devC (id : Nat) : Nat := id / 64 % 128
def devD (id : Nat) : Nat := id / 8192 % 128
def devId (a b c e : Nat) : Nat := a + 8 * b + 64 * c + 8192 * e

/-- R117: a device whose coordinates lie in the peer box. -/
def Part.inBox (p : Part) (dev : Nat) : Bool :=
  [devA, devB, devC, devD].all (fun f => decide (f p.peerLo ≤ f dev) && decide (f dev ≤ f p.peerHi))

/-- R117: a granted peer; the partition's own device is granted to itself. -/
def Dev.granted (d : Dev) (p dev srcPart : Nat) : Bool :=
  (dev == d.rte.devId && srcPart == p) ||
  ((d.part p).inBox dev && ((d.part p).peerPart == 0xFF || (d.part p).peerPart == srcPart))

/-- R83: the run that logical cell n takes part in. -/
def Dev.runOf (d : Dev) (n : Nat) : Option Run := d.cat.runs.find? (fun r => r.cells.contains n)

/-! ### Memory -/

def hbmEnd : Nat := 0x18000000000
def stackSize : Nat := 0x1800000000
def shelfBase : Nat := 0x80000000000
def shelfEnd : Nat := 0x80040000000
def carrelBase : Nat := 0x90000000000
def carrelEnd : Nat := 0x90080000000

/-- R37: what a local physical address names. -/
inductive Loc where
  | hbm (stack : Nat)
  | shelf (quad : Nat)
  | carrel (cell : Nat)
  | unmapped
deriving DecidableEq, Repr

def locOf (a : Nat) : Loc :=
  if a < hbmEnd then .hbm (a / stackSize)
  else if shelfBase ≤ a && a < shelfEnd then .shelf ((a - shelfBase) / 0x10000000)
  else if carrelBase ≤ a && a < carrelEnd then .carrel ((a - carrelBase) / 0x200000)
  else .unmapped

/-- R196: logs an uncorrectable error. -/
def Mem.logUe (m : Mem) (addr part reader : Nat) : Mem :=
  { m with
    ueLog := tset UeEnt.init m.ueLog m.ueNext { addr := addr, part := part, reader := reader, cleared := false, valid := true },
    ueNext := (m.ueNext + 1) % 16, ueTotal := satAdd 16 m.ueTotal 1 }

/-- R180: one corrected error of stack s. -/
def Dev.stackCe (d : Dev) (s : Nat) : Dev :=
  let d := d.upStack s (fun t => { t with ce := satAdd 32 t.ce 1 })
  let n := (d.stack s).ce
  if n % 65536 = 0 then d.raise (0xC810 + s) n else d

/-- R181: one uncorrectable unit of stack s found by a read. -/
def Dev.stackUe (d : Dev) (s addr reader : Nat) : Dev :=
  ((d.upStack s (fun t => { t with ue := satAdd 32 t.ue 1 })).upMem
    (fun m => m.logUe addr ((d.stackPart s).getD 0) reader)).raise (0xC800 + s) (addr / 32)

/-- R193: the partition whose page map holds a shelf address. -/
def Dev.shelfPart (d : Dev) (addr : Nat) : Nat :=
  (parts16.find? (fun p => (d.part p).pages.any (fun kv =>
    match kv.2 with | some g => decide (shelfBase / 0x200000 ≤ kv.1) && g.ppage == addr / 0x200000 | none => false))).getD 0

/-- R179: one corrected shelf error. -/
def Dev.shelfCe1 (d : Dev) (q : Nat) : Dev := d.upMem (fun m => { m with shelfCe := tup 0 m.shelfCe q (fun n => satAdd 32 n 1) })

/-- R179: one uncorrectable shelf word found by a read. -/
def Dev.shelfUe1 (d : Dev) (q addr reader : Nat) : Dev :=
  (d.upMem (fun m => ({ m with shelfUe := tup 0 m.shelfUe q (fun n => satAdd 32 n 1) }).logUe addr (d.shelfPart addr) reader)).raise
    (0xC820 + q) (addr / 32)

/-- R107: one corrected carrel error in quadrant q. -/
def Dev.carrelCe1 (d : Dev) (q : Nat) : Dev := d.upCat (fun c => { c with carrelCe := tup 0 c.carrelCe q (fun n => satAdd 32 n 1) })

/-- R107, R195: one uncorrectable carrel word at byte `off` of physical slot `k`. -/
def Dev.carrelUe1 (d : Dev) (k off : Nat) : Dev :=
  let q := k / 512
  let info := match d.cellOf k with
    | some n => off % 2 ^ 21 + n * 2 ^ 21 + k * 2 ^ 32
    | none => off % 2 ^ 21 + 2 ^ 31 + k * 2 ^ 32
  (d.upCat (fun c => { c with carrelUe := tup 0 c.carrelUe q (fun n => satAdd 32 n 1) })).raise (0xC824 + q) info

/-- Whether the aligned word of `w` bytes at `u` meets the `n` bytes at `a`. -/
def meets (w u a n : Nat) : Bool := decide (a < u + w) && decide (u < a + n)

/-- As `meets`, with carrel addresses modulo 2 MiB and 8-byte words. -/
def meetsCar (u a n : Nat) : Bool :=
  let a8 := a / 8 * 8
  decide ((u + 2 ^ 21 - a8 % 2 ^ 21) % 2 ^ 21 < (a - a8) + n)

/-- The pieces of a carrel range modulo 2 MiB, in address order from its start: (offset, length). -/
def carPieces (a n : Nat) : List (Nat × Nat) :=
  let a := a % 2 ^ 21
  if a + n ≤ 2 ^ 21 then [(a, n)]
  else (a, 2 ^ 21 - a) :: (List.replicate ((a + n) / 2 ^ 21 - 1) (0, 2 ^ 21) ++ [(0, (a + n) % 2 ^ 21)])

/-- R107: a carrel read: the error checks first, then the bytes; none when a word is uncorrectable. -/
def Dev.carrelRead (d : Dev) (k a n : Nat) (ce ue : List Nat) : Dev × Option Bytes :=
  let d := d.each (ce.filter (fun u => meetsCar u a n)) (fun d _ => d.carrelCe1 (k / 512))
  let d := d.upSlot k (fun s => { s with
    carrelUe := (ue.filter (fun u => meetsCar u a n)).foldl (fun l u => insertNat (u % 2 ^ 21 / 8 * 8) l) s.carrelUe })
  let hits := (d.slot k).carrelUe.filter (fun u => meetsCar u a n)
  if hits = [] then (d, some ((carPieces a n).flatMap (fun (o, m) => tgets 0 (d.slot k).carrel o m)))
  else (d.each hits (fun d u => d.carrelUe1 k u), none)

/-- Whether bytes u .. u + w − 1 lie wholly in the `n` bytes at `a`. -/
def covers (w u a n : Nat) : Bool := decide (a ≤ u) && decide (u + w ≤ a + n)

/-- R107: writes one contiguous carrel piece; a partial write to a failed word finds the error and leaves that word. -/
def Dev.carrelPut (d : Dev) (k o : Nat) (bs : Bytes) : Dev × Bool :=
  let n := bs.length
  let bad := (d.slot k).carrelUe.filter (fun u => meets 8 u o n && !covers 8 u o n)
  let keep := fun (t : Tab Byte) => bad.foldl (fun t' u => tputs 0 t' u (tgets 0 t u 8)) (tputs 0 t o bs)
  let d1 := d.upSlot k (fun s => { s with
    carrel := keep s.carrel, carrelUe := s.carrelUe.filter (fun u => !covers 8 u o n) })
  (d1.each bad (fun d u => d.carrelUe1 k u), bad == [])

/-- Writes pieces of a carrel in order; the flag says that every piece took effect. -/
def Dev.carrelPuts (d : Dev) (k : Nat) : List (Nat × Nat) → Bytes → Dev × Bool
  | [], _ => (d, true)
  | (o, n) :: l, bs =>
    let (d, x) := d.carrelPut k o (bs.take n)
    let (d, y) := d.carrelPuts k l (bs.drop n)
    (d, x && y)

/-- R107: a carrel write, modulo 2 MiB; false when a failed word kept it from taking effect. -/
def Dev.carrelWrite (d : Dev) (k a : Nat) (bs : Bytes) : Dev × Bool := d.carrelPuts k (carPieces a bs.length) bs

/-- The bytes of an error-protected unit: 32 in HBM, 8 in a shelf. -/
def unitOf (pa : Nat) : Nat := if pa < hbmEnd then 32 else 8

/-- R180: a corrected error at a memory address. -/
def Dev.memCe (d : Dev) (pa : Nat) : Dev :=
  match locOf pa with
  | .hbm s => d.stackCe s
  | .shelf q => d.shelfCe1 q
  | _ => d

/-- R181: an uncorrectable unit found at a memory address. -/
def Dev.memUe (d : Dev) (pa reader : Nat) : Dev :=
  match locOf pa with
  | .hbm s => d.stackUe s pa reader
  | .shelf q => d.shelfUe1 q pa reader
  | _ => d

/-- R179–R181: one piece read at local physical addresses (HBM or shelf), error checks first. -/
def Dev.memRead (d : Dev) (reader pa n : Nat) (e : Ecc) : Dev × Option Bytes :=
  let w := unitOf pa
  let d := d.each (e.ce.filter (fun u => meets w (u / w * w) pa n)) (fun d u => d.memCe u)
  let d := d.upMem (fun m => { m with
    ueUnits := (e.ue.filter (fun u => meets w (u / w * w) pa n)).foldl (fun l u => insertNat (u / w * w) l) m.ueUnits })
  let hits := d.mem.ueUnits.filter (fun u => meets w u pa n)
  if hits = [] then (d, some (tgets 0 d.mem.bytes pa n))
  else (d.each hits (fun d u => d.memUe u reader), none)

/-- R181: one piece written at local physical addresses; a partial write to a failed unit finds the error and leaves it. -/
def Dev.memPut (d : Dev) (reader pa : Nat) (bs : Bytes) : Dev × Bool :=
  let w := unitOf pa
  let n := bs.length
  let bad := d.mem.ueUnits.filter (fun u => meets w u pa n && !covers w u pa n)
  let fixed := d.mem.ueUnits.filter (fun u => covers w u pa n)
  let d1 := d.upMem (fun m => { m with
    bytes := bad.foldl (fun t' u => tputs 0 t' u (tgets 0 m.bytes u w)) (tputs 0 m.bytes pa bs),
    ueUnits := m.ueUnits.filter (fun u => !covers w u pa n),
    ueLog := tmap UeEnt.init (fun _ x => if fixed.contains x.addr then { x with cleared := true } else x) m.ueLog })
  (d1.each bad (fun d u => d.memUe u reader), bad == [])

/-- R187: whether an open sequence's destination meets a range. -/
def Dev.accHolds (d : Dev) (pa n : Nat) : Bool := d.mem.accs.any (fun a => decide (a.addr < pa + n) && decide (pa < a.addr + a.length))

/-- R187: a plain write to a range that an open accumulation sequence covers is held; any other is written. -/
def Dev.memWrite (d : Dev) (reader pa : Nat) (bs : Bytes) : Dev × Bool :=
  if d.accHolds pa bs.length then (d.upMem (fun m => { m with heldWr := m.heldWr ++ [{ addr := pa, data := bs }] }), true)
  else d.memPut reader pa bs

/-- One piece read anywhere in HBM, shelves or carrels (R37, R39). Error addresses are local physical addresses. -/
def Dev.physRead (d : Dev) (reader pa n : Nat) (e : Ecc) : Dev × Option Bytes :=
  match locOf pa with
  | .carrel c =>
    match d.slotOf c with
    | some k =>
      let b := carrelBase + c * 0x200000
      let loc := fun (l : List Nat) => (l.filter (fun u => b ≤ u && u < b + 0x200000)).map (· - b)
      d.carrelRead k (pa - b) n (loc e.ce) (loc e.ue)
    | none => (d, some (List.replicate n 0))
  | _ => d.memRead reader pa n e

/-- One piece written anywhere in HBM, shelves or carrels. -/
def Dev.physWrite (d : Dev) (reader pa : Nat) (bs : Bytes) : Dev × Bool :=
  match locOf pa with
  | .carrel c =>
    match d.slotOf c with
    | some k => d.carrelWrite k (pa - (carrelBase + c * 0x200000)) bs
    | none => (d, true)
  | _ => d.memWrite reader pa bs

/-! ### Partition virtual addresses -/

/-- R174: the page's local physical address of an HBM partition virtual address. -/
def interleave (ss : List Nat) (lin : Nat) : Nat :=
  let u := lin / 2048
  let s := ss.length
  ss.getD (u % s) 0 * stackSize + u / s * 2048 + lin % 2048

/-- R122: the page map entry under a virtual address, if it grants every bit of `need`. -/
def Part.page (p : Part) (va need : Nat) : Option Page :=
  match tget none p.pages (va / 0x200000) with
  | some g => if Nat.land g.perm.toNat need = need then some g else none
  | none => none

/-- R42, R174: translates one address; `own`: the requester is the owning partition's work order, DMA or Ladle, which alone
reaches carrels of its own clusters. -/
def Part.xlate (p : Part) (va need : Nat) (own : Bool) : Option Nat :=
  match locOf va with
  | .hbm _ => (p.page va need).map (fun g => interleave (bitsOf 16 p.stackSet.toNat) (g.ppage * 0x200000 + va % 0x200000))
  | .shelf _ => (p.page va need).map (fun g => g.ppage * 0x200000 + va % 0x200000)
  | .carrel c => if own && bit p.clusters.toNat (c / 16) then some va else none
  | .unmapped => none

/-- R175, R176: the pieces of a transfer, split at interleave-unit boundaries; `.error` names the first refused address. -/
def Part.pieces (p : Part) (need : Nat) (own : Bool) : Nat → Nat → Nat → Except Nat (List (Nat × Nat))
  | 0, _, _ => .ok []
  | fuel + 1, va, n =>
    if n = 0 then .ok []
    else
      let m := min n (2048 - va % 2048)
      match p.xlate va need own, p.pieces need own fuel (va + m) (n - m) with
      | some pa, .ok l => .ok ((pa, m) :: l)
      | none, _ => .error va
      | _, .error a => .error a

def pieceFuel (n : Nat) : Nat := n / 2048 + 2

/-- What an access came to. -/
inductive Acc where
  | ok (bs : Bytes)
  | denied
  | ue
deriving DecidableEq, Repr

/-- Reads the pieces in order; the flag says that every piece was read. -/
def Dev.readPieces (d : Dev) (reader : Nat) (e : Ecc) : List (Nat × Nat) → Dev × Option Bytes
  | [] => (d, some [])
  | (pa, n) :: l =>
    let (d, r) := d.physRead reader pa n e
    let (d, t) := d.readPieces reader e l
    match r, t with
    | some x, some y => (d, some (x ++ y))
    | _, _ => (d, none)

/-- Writes the pieces in order; the flag says that every piece took effect. -/
def Dev.writePieces (d : Dev) (reader : Nat) : List (Nat × Nat) → Bytes → Dev × Bool
  | [], _ => (d, true)
  | (pa, n) :: l, bs =>
    let (d, x) := d.physWrite reader pa (bs.take n)
    let (d, y) := d.writePieces reader l (bs.drop n)
    (d, x && y)

/-- R175, R177, R181: a read of partition `p`'s memory. A refused access takes no effect and raises 0xC830. -/
def Dev.vaRead (d : Dev) (p va n need reader : Nat) (own : Bool) (e : Ecc) : Dev × Acc :=
  match (d.part p).pieces need own (pieceFuel n) va n with
  | .error a => (d.denyPage a, .denied)
  | .ok l =>
    match d.readPieces reader e l with
    | (d, some bs) => (d, .ok bs)
    | (d, none) => (d, .ue)

/-- R192: a write into the range of a valid weight-region slot makes it stale and raises 0xC840 + p once. -/
def Dev.staleRegions (d : Dev) (p va n : Nat) : Dev :=
  d.each ((d.part p).regions.filter (fun kv => kv.2.valid && !kv.2.stale && decide (kv.2.addr < va + n) && decide (va < kv.2.addr + kv.2.length)))
    (fun d kv => (d.upPart p (fun x => { x with regions := tup Region.init x.regions kv.1 (fun r => { r with stale := true }) })).raise
      (0xC840 + p) kv.1)

/-- R175, R177, R181: a write to partition `p`'s memory. -/
def Dev.vaWrite (d : Dev) (p va need reader : Nat) (own : Bool) (bs : Bytes) : Dev × Acc :=
  match (d.part p).pieces need own (pieceFuel bs.length) va bs.length with
  | .error a => (d.denyPage a, .denied)
  | .ok l =>
    let (d, ok) := (d.staleRegions p va bs.length).writePieces reader l bs
    (d, if ok then .ok [] else .ue)

/-! ### Completion status codes (R162) -/

def stOk : Nat := 0x00
def stFenced : Nat := 0x01
def stUe : Nat := 0x02
def stChecksum : Nat := 0x03
def stMemberFenced : Nat := 0x04
def stVerdict : Nat := 0x05
def stCancelled : Nat := 0x06
def stWatchdog : Nat := 0x07
def stDenied : Nat := 0x08
def stUnreachable : Nat := 0x09
def stTwin : Nat := 0x0A
def stSat : Nat := 0x0B
def stMould : Nat := 0x0C
def stShort : Nat := 0x0D
def stBusy : Nat := 0x0E
def stCap : Nat := 0x0F
/-- R161: an increment that was not issued. -/
def stNotIssued : Nat := 0xFF
/-- model: an outcome still awaited. -/
def stAwaited : Nat := 0x100
/-- R166: a withdrawn sequence. -/
def stWithdrawn : Nat := 0x101

/-- The status an access gives the work order that made it. -/
def Acc.status : Acc → Nat
  | .ok _ => stOk
  | .denied => stDenied
  | .ue => stUe

/-! ### Work orders in flight, sync counters -/

/-- R155, R162: the unit of work order (q, i) ends it; an earlier status stands. -/
def Dev.endWork (d : Dev) (q i st detail result : Nat) : Dev :=
  d.upFlight q i (fun f => if f.status.isSome then f else { f with status := some st, detail := detail, result := result })

/-- R164: one increment applied to counter `n`: it saturates by R44, and its source is raised when it is bound. -/
def Dev.incrCounter (d : Dev) (n amount : Nat) : Dev :=
  let d := d.upCounter n (fun c => { c with value := satAdd 64 c.value amount, ovf := c.ovf || satOver 64 c.value amount })
  if (d.src (0x8000 + n)).bound then d.raise (0x8000 + n) (d.counter n).value else d

/-- R170: an increment refused here. -/
def Dev.refuseIncr (d : Dev) : Dev := d.upSyn (fun y => { y with refused := satAdd 32 y.refused 1 })

end Sys2Proof.Machine
end

