-- ==== Sys2Proof/Machine/Catalogue.lean ====
section
/-! DEFINITION. The catalogue of cells (R353–R357): slot health, the record in flash, the mapping of each cluster. -/

namespace Sys2Proof.Machine

/-- R354: slot index q·512 + k·32 + slot exists. -/
def slotIx (k : Nat) : Bool := decide (k < 2048) && decide (k % 32 < 17)

/-- R358: the info field of slot events. -/
def slotInfo (k n : Nat) : Nat := k % 2 ^ 11 + n % 2 ^ 10 * 2 ^ 16

/-- R356: a cause points at slot `k` behind logical cell `n`: 1 carrel, 2 parity, 3 stall, 4 named by register. -/
def Dev.suspect (d : Dev) (k n cause : Nat) : Dev :=
  if (d.slot k).health = 3 || (d.slot k).health = 4 then d
  else (d.upSlot k (fun s => { s with health := 2, cause := cause })).raise 0xD030 (slotInfo k n)

/-- R356: the slot behind logical cell `n`. -/
def Dev.suspectCell (d : Dev) (n cause : Nat) : Dev :=
  match d.slotOf n with
  | some k => d.suspect k n cause
  | none => d

/-- R355: the record in use; an empty one when no copy is valid. -/
def Dev.catRec (d : Dev) : CatRec := (d.flash.recA.getD (d.flash.recB.getD { failed := [], spares := [] }))

/-- R355: the Archivist writes both copies. -/
def Dev.putRec (d : Dev) (r : CatRec) : Dev := d.upFlash (fun f => { f with recA := some r, recB := some r })

/-- R354, R356: a slot that may serve a logical cell: it passed its last test. -/
def Dev.slotGood (d : Dev) (k : Nat) : Bool := (d.slot k).health == 1 || (d.slot k).health == 2

/-- R355: one logical cell of cluster `c`. -/
def Dev.mapCell (d : Dev) (c j : Nat) : Dev :=
  let b := c * 32
  let mine := d.catRec.spares.contains (c, j)
  let taken := d.catRec.spares.any (fun x => x.1 == c)
  let put := fun (d : Dev) (s : Nat) => d.upCat (fun x => { x with map := tset j x.map (c * 16 + j) s })
  let spare := fun (d : Dev) =>
    let moved := d.slotOf (c * 16 + j) != some (b + 16)
    let d := put (d.upCat (fun x => { x with spareFor := tset 16 x.spareFor c j })) 16
    if moved then (d.upSlot (b + 16) (fun s => { s with carrel := [], carrelUe := [] })).raise 0xD032 (slotInfo (b + 16) (c * 16 + j)) else d
  if d.slotGood (b + j) && !mine then put d j
  else if mine && d.slotGood (b + 16) then spare d
  else if d.slotGood (b + 16) && !taken then
    let d := spare d
    d.putRec { d.catRec with spares := d.catRec.spares ++ [(c, j)] }
  else put d 31

/-- R355: whether cluster `c` has an absent cell. -/
def Dev.short (d : Dev) (c : Nat) : Bool := (List.range 16).any (fun j => (d.slotOf (c * 16 + j)).isNone)

/-- R355: spare assignments whose slot was cleared and has since passed a test end. -/
def Dev.returnSlots (d : Dev) (c : Nat) : Dev :=
  let back := fun (x : Nat × Nat) => x.1 == c && d.cat.cleared.contains (c * 32 + x.2) && (d.slot (c * 32 + x.2)).health == 1
  if d.catRec.spares.any back then
    let ks := (d.catRec.spares.filter back).map (fun x => c * 32 + x.2)
    (d.putRec { d.catRec with spares := d.catRec.spares.filter (fun x => !back x) }).upCat (fun x => { x with
      cleared := x.cleared.filter (fun k => !ks.contains k) })
  else d

/-- R355: finalises the catalogue of cluster `c`; a short cluster raises 0xD033. -/
def Dev.finalise (d : Dev) (c : Nat) : Dev :=
  let d := d.each (d.catRec.failed.filter (fun k => k / 32 == c)) (fun d k => d.upSlot k (fun s => { s with health := 3 }))
  let d := d.returnSlots c
  let d := d.upCat (fun x => { x with spareFor := tset 16 x.spareFor c 16, pendingC := x.pendingC.filter (· != c) })
  let d := d.each (List.range 16) (fun d j => d.mapCell c j)
  if d.short c then d.raise 0xD033 c else d

/-- R355, R357: a cluster leaves its partition: the catalogue is applied where a FAILED slot, or a cleared one, waits for it. -/
def Dev.clusterFree (d : Dev) (c : Nat) : Dev :=
  if d.cat.pendingC.contains c || d.cat.cleared.any (fun k => k / 32 == c && (d.slot k).health == 1) then d.finalise c else d

/-- R353: a slot that stands in for, or serves, no logical cell in a poured partition. -/
def Dev.slotIdle (d : Dev) (k : Nat) : Bool :=
  if k % 32 = 16 then tget 16 d.cat.spareFor (k / 32) == 16 else (d.clusterPart (k / 32)).isNone

/-- R352–R354: a test of slot `k` begins. -/
def Dev.testStart (d : Dev) (k : Nat) : Dev :=
  if (d.slot k).health = 4 then d else d.upSlot k (fun s => { s with before := s.health, health := 4 })

/-- R353, R360: a slot of the background round is done; the last one completes the round. -/
def Dev.roundDone (d : Dev) (k : Nat) : Dev :=
  if d.cat.roundLeft.contains k then
    d.upCat (fun c =>
      let l := c.roundLeft.filter (· != k)
      { c with roundLeft := l, rounds := if l = [] then (c.rounds + 1) % 65536 else c.rounds })
  else d

/-- R353: a test in progress is abandoned. -/
def Dev.testAbandon (d : Dev) (k : Nat) : Dev :=
  if (d.slot k).health = 4 then (d.upSlot k (fun s => { s with health := s.before })).roundDone k else d

/-- R352, R354–R357: a test of slot `k` ends: its carrel is zeroised; the second failure in a row makes it FAILED, recorded, and a
cluster outside every partition is finalised at once. -/
def Dev.testEnd (d : Dev) (k : Nat) (pass : Bool) : Dev :=
  let d := (d.upSlot k (fun s => { s with
    carrel := [], carrelUe := [], tests := min 4095 (s.tests + 1), lastPass := pass })).roundDone k
  let n := (d.cellOf k).getD 0
  let free := (d.clusterPart (k / 32)).isNone
  if d.catRec.failed.contains k then d.upSlot k (fun s => { s with health := 3 })
  else if pass then
    let d := d.upSlot k (fun s => { s with health := 1, failRow := 0 })
    if d.cat.cleared.contains k && free then d.finalise (k / 32) else d
  else
    let row := (d.slot k).failRow + 1
    if row < 2 then d.upSlot k (fun s => { s with health := s.before, failRow := row })
    else
      let d := (d.upSlot k (fun s => { s with health := 3, failRow := row })).raise 0xD031 (slotInfo k n)
      let d := d.putRec { d.catRec with failed := insertNat k d.catRec.failed }
      if free then d.finalise (k / 32) else d.upCat (fun x => { x with pendingC := insertNat (k / 32) x.pendingC })

end Sys2Proof.Machine
end

