-- ==== Sys2Proof/Machine/Matrix.lean ====
section
/-! DEFINITION. The matrix array: terms of an accumulation block (R87), the block accumulator (R88), accumulation, plain and
compensated (R89, R90). -/

namespace Sys2Proof.Machine

/-- R87: whether every product with this operand format is a term of its own. -/
def fmtOwnTerm (f : Nat) : Bool := f == 0x20 || f == 0x21 || f == 0x30 || f == 0x31

/-- R87: the terms of a block: `own` products on their own (or marginalia on either side), the rest summed exactly per fine
group of 16. -/
def mmaTerms (own : Bool) (a w : List El) : List Dy :=
  let ps := (a.zip w).map (fun (x, y) => (own || x.marg || y.marg, Dy.mul x.dy y.dy))
  (chunksOf 16 16 ps).flatMap (fun g =>
    (g.filter (·.1)).map (·.2) ++ [((g.filter (fun p => !p.1)).map (·.2)).foldl Dy.add Dy.zero])

/-- A dyadic divided by 2^l, rounded to the nearest integer, ties to even (R88). -/
def dyRound (t : Dy) (l : Int) : Int :=
  let k := t.e - l
  if 0 ≤ k then t.m * 2 ^ k.toNat
  else
    let d : Int := 2 ^ (-k).toNat
    let q := t.m / d
    let r := t.m % d
    if d < 2 * r || (2 * r == d && q % 2 == 1) then q + 1 else q

/-- R88: the block sum. -/
def blockSum (ts : List Dy) : Dy :=
  let nz := ts.filter (fun t => t.m != 0)
  match nz.map (fun t => (Nat.log2 t.m.natAbs : Int) + t.e) with
  | [] => Dy.zero
  | h :: hs =>
    let l := hs.foldl max h - 29
    ⟨(nz.map (fun t => dyRound t l)).foldl (· + ·) 0, l⟩

/-- R89, R90: one block sum added to an element's pair (s, c): new pair and saturations. -/
def accAdd (comp : Bool) (sc : Nat × Nat) (bs : Dy) : (Nat × Nat) × Nat :=
  let (s, c) := sc
  let (b, o1) := dyToF32 bs false
  let (t, o2) := f32Add s b
  let n := b2n o1 + b2n o2
  if comp then
    match f32 t with
    | .fin _ _ _ =>
      let big := b % 2 ^ 31 ≤ s % 2 ^ 31
      let e := if big then (f32Add (f32Add s (f32Neg t)).1 b).1 else (f32Add (f32Add b (f32Neg t)).1 s).1
      let (c2, o3) := f32Add c e
      ((t, c2), n + b2n o3)
    | _ => ((t, c), n)
  else ((t, c), n)

/-- R90: ACRD's reading of an element and whether s + c overflows. -/
def accRead (s c : Nat) : Nat × Bool := if c % 2 ^ 31 = 0 then (s, false) else f32Add s c

end Sys2Proof.Machine
end

