-- ==== Sys2Proof/Machine/Operands.lean ====
section
/-! DEFINITION. Pattern instruction words (R98), the four operand forms of R99, the register, vector, accumulator and carrel
views of a slot (R82), and the loader's checks of an instruction (R100, R121, R453). -/

namespace Sys2Proof.Machine

/-- R98: the 128-bit word of an instruction. -/
def encodeIns (op : Nat) (o : Opds) : Nat :=
  op % 2 ^ 8 + o.fmtA % 2 ^ 8 * 2 ^ 8 + o.fmtB % 2 ^ 8 * 2 ^ 16 + o.flags % 2 ^ 8 * 2 ^ 24 + o.opd0 % 2 ^ 32 * 2 ^ 32 +
    o.opd1 % 2 ^ 32 * 2 ^ 64 + o.opd2 % 2 ^ 32 * 2 ^ 96

/-- R98: opcode and fields of a 128-bit word. -/
def decodeIns (w : Nat) : Nat × Opds :=
  (w % 2 ^ 8, { fmtA := fld w 15 8, fmtB := fld w 23 16, flags := fld w 31 24, opd0 := fld w 63 32, opd1 := fld w 95 64,
                opd2 := fld w 127 96 })

/-- R99: a register operand's index. -/
def regIx (o : Nat) : Nat := o % 32

/-- R82: x registers; x0 reads as zero. -/
def Slot.x (s : Slot) (i : Nat) : Nat := if i = 0 then 0 else (tget 0 s.xr i).toNat

/-- R82: x0 ignores writes. -/
def Slot.setX (s : Slot) (i v : Nat) : Slot := if i = 0 then s else { s with xr := tset 0 s.xr i (BitVec.ofNat 32 v) }

/-- R99: a register pair, low word first; the pair's first register is at most x14. -/
def Slot.xPair (s : Slot) (i : Nat) : Nat := s.x i + s.x (i + 1) * 2 ^ 32

/-- R99: a carrel byte address. -/
def Slot.addr (s : Slot) (o : Nat) : Nat := ((if bit o 28 then s.x (fld o 27 24) else 0) + o % 2 ^ 21) % 2 ^ 21

/-- R99: a target. -/
def target (o : Nat) : Nat := o % 2 ^ 12

/-- R82: the 256 lanes of v register `i`. -/
def Slot.v (s : Slot) (i : Nat) : List Nat := (tgets 0 s.vr (i * 256) 256).map (·.toNat)

def Slot.setV (s : Slot) (i : Nat) (l : List Nat) : Slot :=
  { s with vr := tputs 0 s.vr (i * 256) (l.map (BitVec.ofNat 32)) }

/-- R100: rows named by MMA and ACLR: bank, first row, row count. -/
def rowsOf (o : Nat) : Nat × Nat × Nat := (fld o 7 7, fld o 6 0, fld o 15 8 + 1)

def accKey (bank row col : Nat) : Nat := bank * 16384 + row * 128 + col

/-- R100: the row pair of ACRD and ACWR: bank, r. -/
def Slot.rowPair (s : Slot) (o : Nat) : Nat × Nat :=
  (fld o 7 7, ((if bit o 28 then s.x (fld o 27 24) else 0) + fld o 5 0) % 64)

/-- R100: VQNT's marginalia ratio, 0 when none is requested. -/
def vqntRatio (flags : Nat) : Nat := if bit flags 1 then 2 ^ (fld flags 6 4 + 1) else 0

/-! ### The loader's checks -/

/-- R99: what an operand field may hold. -/
inductive Form where
  | none          -- the opcode names no such operand
  | x | v | pair
  | mask (m : Nat)  -- any of these bits
deriving DecidableEq, Repr

def Form.ok (f : Form) (o : Nat) : Bool :=
  match f with
  | .none => o == 0
  | .x => decide (o < 16)
  | .v => decide (o < 32)
  | .pair => decide (o < 15)
  | .mask m => Nat.land o m == o

def immForm : Form := .mask 0xFFFFFFFF
def addrForm : Form := .mask 0x1F1FFFFF
def targForm : Form := .mask 0xFFF

/-- R100: flag bits the opcode uses, and its operand forms; none for a reserved opcode. -/
def opForms (op flags : Nat) : Option (Nat × Form × Form × Form) :=
  match op with
  | 0x00 => some (0, .none, .none, .none)
  | 0x01 => some (0, .none, .none, .none)
  | 0x02 => some (0, targForm, .none, .none)
  | 0x03 => some (0, .x, targForm, .none)
  | 0x04 => some (0, .x, targForm, .none)
  | 0x05 => some (0, .none, .none, .none)
  | 0x06 => some (0, immForm, immForm, .none)
  | 0x07 => some (0, immForm, .none, .none)
  | 0x20 => some (0, immForm, addrForm, immForm)
  | 0x21 => some (0, immForm, addrForm, immForm)
  | 0x40 => some (0, addrForm, .pair, immForm)
  | 0x41 => some (0, addrForm, .pair, immForm)
  | 0x42 => some (1, addrForm, .none, .none)
  | 0x43 => some (0, .v, addrForm, .none)
  | 0x44 => some (0, .v, addrForm, .none)
  | 0x60 => some (3, .mask 0xFFFF, addrForm, immForm)
  | 0x61 => some (0, .mask 0xFFFF, .none, .none)
  | 0x62 => some (0, .v, .mask 0x1F0000BF, .none)
  | 0x63 => some (0, .v, .mask 0x1F0000BF, .none)
  | 0x80 => some (1, .v, .v, if bit flags 0 then .x else .v)
  | 0x81 => some (1, .v, .v, if bit flags 0 then .x else .v)
  | 0x82 => some (1, .v, .v, if bit flags 0 then .x else .v)
  | 0x83 => some (1, .v, .v, if bit flags 0 then .x else .v)
  | 0x84 => some (1, .v, .v, if bit flags 0 then .x else .v)
  | 0x86 => some (0, .v, .v, .none)
  | 0x87 => some (0, .v, .v, .none)
  | 0x88 => some (0, .v, .v, .none)
  | 0x89 => some (0, .v, .v, .none)
  | 0x8A => some (0, .v, .v, .none)
  | 0x8B => some (0, .v, .v, .none)
  | 0x8C => some (0x73, .v, addrForm, .mask 0x000F0F0F)
  | 0x8E => some (0, .v, .x, .none)
  | 0xA0 => some (0, .x, immForm, .none)
  | 0xA1 => some (0, .x, .x, immForm)
  | 0xA2 => some (0, .x, .x, .x)
  | 0xA3 => some (0, .x, .x, immForm)
  | _ => none

/-- R453: formats and static operands of an instruction. -/
def staticOk (op : Nat) (o : Opds) : Bool :=
  (o.fmtA == 0 || op == 0x42 || op == 0x43 || op == 0x60) &&
  (o.fmtB == 0 || op == 0x44 || op == 0x8C) &&
  (if op == 0x42 || op == 0x60 then fmtDefined o.fmtA && o.fmtA != 0x32 else true) &&
  (if op == 0x43 then fmtDefined o.fmtA else true) &&
  (if op == 0x44 then fmtIeee o.fmtB else true) &&
  (if op == 0x8C then fmtNarrow o.fmtB && (!bit o.flags 1 || fmtIfeb o.fmtB) && (fld o.opd2 19 16 == 0 || fmtMx o.fmtB) &&
      (!bit o.flags 0 || fld o.opd2 11 8 != 15)
   else true) &&
  (if op == 0x60 then o.opd2 % 16 == 0 else true) &&
  (if op == 0x60 || op == 0x61 then decide (fld o.opd0 6 0 + (fld o.opd0 15 8 + 1) ≤ 128) else true) &&
  (if op == 0x20 || op == 0x21 then decide (o.opd0 ≤ 3) && o.opd2 != 0 else true) &&
  (if op == 0x06 then o.opd1 != 0 else true)

/-- R121: an instruction word the loader accepts in a pattern of `len` instructions, references apart (error 0x0401). -/
def insOk (len w : Nat) : Bool :=
  let (op, o) := decodeIns w
  match opForms op o.flags with
  | none => false
  | some (fm, f0, f1, f2) =>
    Nat.land o.flags fm == o.flags && f0.ok o.opd0 && f1.ok o.opd1 && f2.ok o.opd2 && staticOk op o &&
    (if op == 0x02 then decide (target o.opd0 < len) else true) &&
    (if op == 0x03 || op == 0x04 then decide (target o.opd1 < len) else true)

end Sys2Proof.Machine
end

