-- ==== Sys2Proof/Machine/Cells.lean ====
section
/-! DEFINITION. The cells: issuing (R97), ending a run early (R101), stream ports and channels (R102–R105), and the pattern
instructions of R100. Instructions take effect in program order, one at a time (R97); a RECV stays in flight until its words have
come, a SEND until its words have gone. -/

namespace Sys2Proof.Machine

/-! ### Undefined destinations (R101) -/

def Dev.undefCarrel (d : Dev) (k a n : Nat) : Dev :=
  let n := min n (2 ^ 21)
  let (bs, d) := d.drawBytes n
  let a := a % 2 ^ 21
  d.upSlot k (fun s => { s with carrel := tputs 0 (tputs 0 s.carrel a (bs.take (2 ^ 21 - a))) 0 (bs.drop (2 ^ 21 - a)) })

def Dev.undefV (d : Dev) (k i : Nat) : Dev :=
  let ws := (List.range 256).map (fun j => (Config.freeValue 32 (d.free + j)).toNat)
  ({ d with free := d.free + 256 }).upSlot k (fun s => s.setV i ws)

def Dev.undefRows (d : Dev) (k bank first n : Nat) : Dev :=
  let f := d.free
  let ws := (List.range (n * 128)).map (fun j => Config.freeValue 32 (f + j))
  let cs := (List.range (n * 128)).map (fun j => Config.freeValue 32 (f + n * 128 + j))
  ({ d with free := f + 2 * (n * 128) }).upSlot k (fun s => { s with
    acc := tputs 0 s.acc (accKey bank first 0) ws, comp := tputs 0 s.comp (accKey bank first 0) cs })

def Slot.setW (s : Slot) (w1 : Bool) (t : WTile) : Slot := if w1 then { s with w1 := some t } else { s with w0 := some t }

def Dev.undefW (d : Dev) (k : Nat) (w1 : Bool) (fmt : Nat) : Dev :=
  let (bs, d) := d.drawBytes (128 * groupBytes fmt)
  d.upSlot k (fun s => s.setW w1 { fmt := fmt, bytes := bs })

/-- Free bytes over pieces of memory whose contents a fault leaves undefined. -/
def Dev.undefMem (d : Dev) (l : List (Nat × Nat)) : Dev :=
  d.each l (fun d (pa, n) =>
    let (bs, d) := d.drawBytes n
    d.upMem (fun m => { m with bytes := tputs 0 m.bytes pa bs }))

/-! ### Ending a run early -/

/-- R83: the group's channels: every endpoint is a cell of the group. -/
def Dev.groupChans (d : Dev) (cells : List Nat) : List (Nat × Chan) :=
  d.cat.chans.filterMap (fun kv =>
    match kv.2 with
    | some c => if cells.contains c.srcCell && c.dst.all (fun x => cells.contains x.1) then some (kv.1, c) else none
    | none => none)

def Dev.upCell (d : Dev) (n : Nat) (f : Slot → Slot) : Dev :=
  match d.slotOf n with
  | some k => d.upSlot k f
  | none => d

/-- R101: empties a channel. -/
def Dev.emptyChan (d : Dev) (ch : Nat) (c : Chan) : Dev :=
  let d := d.upCell c.srcCell (fun s => { s with outBuf := tset [] s.outBuf c.srcPort [] })
  let d := d.each c.dst (fun d (n, p) => d.upCell n (fun s => { s with inBuf := tset [] s.inBuf p [] }))
  d.upCat (fun x => { x with chans := tup none x.chans ch (fun o => o.map (fun c => { c with taken := [] })) })

/-- R101: stops one cell: what a RECV in flight was to write is undefined. -/
def Dev.stopCell (d : Dev) (n : Nat) : Dev :=
  match d.slotOf n with
  | none => d
  | some k =>
    let pend := (d.slot k).recv.filterMap (fun kv => kv.2)
    let d := d.each pend (fun d r => d.undefCarrel k r.addr (64 * r.total))
    d.upSlot k (fun s => { s with recv := [], outBuf := [], stopped := true })

/-- R101: stops every cell of a run with a status; the first cause stands. -/
def Dev.stopRun (d : Dev) (r : Run) (st : Nat) : Dev :=
  let d := d.each r.cells (fun d n => d.stopCell n)
  let d := d.each (d.groupChans r.cells) (fun d (ch, c) => d.emptyChan ch c)
  d.upCat (fun x => { x with
    runs := updWhere (fun y => y.queue == r.queue && y.index == r.index)
      (fun y => { y with fault := some (y.fault.getD st) }) x.runs })

/-- R101, R108, R356: a fault of cell `n` at its current instruction; an uncorrectable carrel word makes the slot suspect. -/
def Dev.faultCell (d : Dev) (r : Run) (n st unit : Nat) : Dev :=
  let pc := match d.slotOf n with | some k => (d.slot k).pc | none => 0
  let d := if unit = 5 && st = stUe && r.fault.isNone then d.suspectCell n 1 else d
  (d.upCat (fun x => { x with
    faults := tset CellFault.init x.faults n { status := st, pc := pc, unit := unit, valid := true } })).stopRun r st

/-- R103, R356: a stream parity error met by cell `n` at input port `port`: the receiving and the sending slot are suspect. -/
def Dev.faultParity (d : Dev) (r : Run) (n port : Nat) : Dev :=
  let d := if r.fault.isNone then
      let d := d.suspectCell n 2
      match d.cat.chans.find? (fun kv => match kv.2 with | some c => c.dst.contains (n, port) | none => false) with
      | some (_, some c) => d.suspectCell c.srcCell 2
      | _ => d
    else d
  d.faultCell r n stChecksum 3

/-! ### Issue -/

/-- R97: carrel ranges that a RECV in flight still writes. -/
def Slot.busyCar (s : Slot) (ranges : List (Nat × Nat)) : Bool :=
  s.recv.any (fun kv => match kv.2 with
    | some r => (carPieces r.addr (64 * r.total)).any (fun (a, n) => (ranges.flatMap (fun (b, m) => carPieces b m)).any
        (fun (b, m) => decide (a < b + m) && decide (b < a + n)))
    | none => false)

/-- R97, R100: every earlier instruction has retired. -/
def Slot.drained (s : Slot) : Bool := s.recv.all (fun kv => kv.2 == none) && s.outBuf.all (fun kv => kv.2 == [])

/-- The cell's run and slot, when its sequencer may issue the instruction `op o` at its program counter. -/
def Dev.canIssue (d : Dev) (cell op : Nat) (o : Opds) : Option (Run × Nat) :=
  match d.runOf cell, d.slotOf cell with
  | some r, some k =>
    let s := d.slot k
    if r.fault == none && !s.ended && !s.ranOff && !s.stopped && (tget 0 s.store s.pc).toNat == encodeIns op o then some (r, k) else none
  | _, _ => none

/-- R109: adds to a cell's performance counters unless they are frozen or the partition is confidential. -/
def Dev.perf (d : Dev) (r : Run) (cell i n : Nat) : Dev :=
  if d.cat.freeze || (d.part r.part).conf then d
  else d.upCat (fun c => { c with perf := tup 0 c.perf (cell * 8 + i) (fun v => satAdd 64 v n) })

/-- R319: adds to a work counter of a partition. -/
def Dev.work (d : Dev) (p i n : Nat) : Dev := d.upPwr (fun x => { x with work := tup 0 x.work (p * 16 + i) (· + n) })

/-- R109, R319: one issue, `mat` and `vec` busy steps of the two units, and 256 lane operations of a vector issue. -/
def Dev.perfIssue (d : Dev) (r : Run) (cell mat vec : Nat) : Dev :=
  let d := ((d.perf r cell 0 1).perf r cell 1 mat).perf r cell 2 vec
  if vec = 0 then d else d.work r.part 15 256

/-- R454: the sequencer's next instruction after one that transfers no control. -/
def Slot.advance (s : Slot) : Slot := if s.pc = 4095 then { s with ranOff := true } else { s with pc := s.pc + 1 }

/-- An instruction that runs to its end as it issues: `body` gives the slot's new contents. -/
def Dev.simple (d : Dev) (cell op : Nat) (o : Opds) (vec : Nat) (body : Slot → Slot) : Dev :=
  match d.canIssue cell op o with
  | none => d
  | some (r, k) => (d.perfIssue r cell 0 vec).upSlot k (fun s => (body s).advance)

/-! ### Control (R100) -/

def doNop (d : Dev) (cell : Nat) (o : Opds) : Dev := d.simple cell 0x00 o 0 id

/-- R83, R100: the cell's part of the run is finished once every earlier instruction has retired. -/
def doEndRun (d : Dev) (cell : Nat) (o : Opds) : Dev :=
  match d.canIssue cell 0x01 o with
  | none => d
  | some (r, k) =>
    if (d.slot k).drained then
      (d.perfIssue r cell 0 0).upSlot k (fun s => { s with ended := true, pc := if s.pc = 4095 then 4095 else s.pc + 1 })
    else d

def doJmp (d : Dev) (cell : Nat) (o : Opds) : Dev :=
  match d.canIssue cell 0x02 o with
  | none => d
  | some (r, k) => (d.perfIssue r cell 0 0).upSlot k (fun s => { s with pc := target o.opd0 })

/-- R100, R82: x0 ignores the decrement and reads zero, so LOOP on it falls through. -/
def doLoop (d : Dev) (cell : Nat) (o : Opds) : Dev :=
  match d.canIssue cell 0x03 o with
  | none => d
  | some (r, k) =>
    (d.perfIssue r cell 0 0).upSlot k (fun s =>
      let s := s.setX (regIx o.opd0) (s.x (regIx o.opd0) + (2 ^ 32 - 1))
      if s.x (regIx o.opd0) = 0 then s.advance else { s with pc := target o.opd1 })

def doBnz (d : Dev) (cell : Nat) (o : Opds) : Dev :=
  match d.canIssue cell 0x04 o with
  | none => d
  | some (r, k) =>
    (d.perfIssue r cell 0 0).upSlot k (fun s =>
      if s.x (regIx o.opd0) = 0 then s.advance else { s with pc := target o.opd1 })

/-- R100: WAIT holds issue until every earlier instruction has retired. -/
def doWait (d : Dev) (cell : Nat) (o : Opds) : Dev :=
  match d.canIssue cell 0x05 o with
  | none => d
  | some (r, k) => if (d.slot k).drained then (d.perfIssue r cell 0 0).upSlot k Slot.advance else d

/-- R100, R164: increments a bound sync counter after every earlier instruction has retired. -/
def doIncr (d : Dev) (cell : Nat) (o : Opds) : Dev :=
  match d.canIssue cell 0x06 o with
  | none => d
  | some (r, k) =>
    if (d.slot k).drained then ((d.perfIssue r cell 0 0).upSlot k Slot.advance).incrCounter o.opd0 o.opd1 else d

/-- R100, R288: raises a bound source with info zero after every earlier instruction has retired. -/
def doRaise (d : Dev) (cell : Nat) (o : Opds) : Dev :=
  match d.canIssue cell 0x07 o with
  | none => d
  | some (r, k) =>
    if (d.slot k).drained then ((d.perfIssue r cell 0 0).upSlot k Slot.advance).raise o.opd0 0 else d

/-! ### Streams (R100, R102–R105) -/

/-- R102: whether a channel ends at this input port, or starts at this output port. -/
def Dev.inChan (d : Dev) (cell port : Nat) : Bool :=
  d.cat.chans.any (fun kv => match kv.2 with | some c => c.dst.contains (cell, port) | none => false)

def Dev.outChan (d : Dev) (cell port : Nat) : Bool :=
  d.cat.chans.any (fun kv => match kv.2 with | some c => c.srcCell == cell && c.srcPort == port | none => false)

/-- Reads `n` bytes at each of a list of carrel addresses, in order; none when a word is uncorrectable (R107). -/
def Dev.carrelReads (d : Dev) (k n : Nat) (e : Ecc) : List Nat → Dev × Option (List Bytes)
  | [] => (d, some [])
  | a :: l =>
    match d.carrelRead k a n e.ce e.ue with
    | (d, none) => (d, none)
    | (d, some bs) =>
      match Dev.carrelReads d k n e l with
      | (d, none) => (d, none)
      | (d, some t) => (d, some (bs :: t))

/-- One stream word as its 64 bytes, lowest first. -/
def wordBytes (w : BitVec 512) : Bytes := leBytes 64 w.toNat

/-- R100 (RECV): moves words from an input buffer to the carrel while the RECV in flight wants them; a partial write to a failed
carrel word ends the run (R107). `fuel`: the buffer's depth. -/
def Dev.drainRecv (cell k port : Nat) : Nat → Dev → Dev
  | 0, d => d
  | fuel + 1, d =>
    match tget none (d.slot k).recv port, tget [] (d.slot k).inBuf port with
    | some r, w :: ws =>
      let (d, ok) := d.carrelWrite k (r.addr + 64 * r.done) (wordBytes w.data)
      let d := d.upSlot k (fun s => { s with
        inBuf := tset [] s.inBuf port ws,
        recv := tset none s.recv port (if r.done + 1 = r.total then none else some { r with done := r.done + 1 }) })
      if ok then Dev.drainRecv cell k port fuel d
      else
        match d.runOf cell with
        | some run => (d.undefCarrel k r.addr (64 * r.total)).faultCell run cell stUe 5
        | none => d
    | _, _ => d

/-- R100, R454: RECV issues when its port has no RECV in flight; on a port without a channel the cell issues nothing further. -/
def doRecv (d : Dev) (cell : Nat) (o : Opds) (e : Ecc) : Dev :=
  match d.canIssue cell 0x20 o with
  | none => d
  | some (r, k) =>
    let s := d.slot k
    let a := s.addr o.opd1
    if (tget none s.recv o.opd0).isSome || s.busyCar [(a, 64 * o.opd2)] then d
    else
      let d := d.upSlot k (fun s => { s with
        carrelUe := (e.ue.filter (fun u => meetsCar u a (64 * o.opd2))).foldl (fun l u => insertNat (u % 2 ^ 21 / 8 * 8) l) s.carrelUe })
      let d := (d.perfIssue r cell 0 0).upSlot k (fun s =>
        let s := s.advance
        { s with recv := tset none s.recv o.opd0 (some { addr := a, total := o.opd2, done := 0 }),
                 ranOff := s.ranOff || !d.inChan cell o.opd0 })
      Dev.drainRecv cell k o.opd0 16 d

/-- R100, R454: SEND issues when its port has no SEND in flight, and reads its words. -/
def doSend (d : Dev) (cell : Nat) (o : Opds) (e : Ecc) : Dev :=
  match d.canIssue cell 0x21 o with
  | none => d
  | some (r, k) =>
    let s := d.slot k
    let a := s.addr o.opd1
    if tget [] s.outBuf o.opd0 != [] || s.busyCar [(a, 64 * o.opd2)] then d
    else
      match d.carrelReads k 64 e ((List.range o.opd2).map (fun i => (a + 64 * i) % 2 ^ 21)) with
      | (d, none) => d.faultCell r cell stUe 5
      | (d, some l) =>
        let ws := l.map (fun bs => ({ data := BitVec.ofNat 512 (ofLe bs), bad := false } : SWord))
        (d.perfIssue r cell 0 0).upSlot k (fun s =>
          let s := s.advance
          { s with outBuf := tset [] s.outBuf o.opd0 ws, ranOff := s.ranOff || !d.outChan cell o.opd0 })

/-- R103, R104: one word of channel `ch` crosses to its destination number `i`, which has room; the sender moves on when every
destination has taken it. A parity error ends the receiving cell's run, or marks the word for its next run. -/
def doStreamWordHop (d : Dev) (ch i : Nat) (badParity : Bool) : Dev :=
  match tget none d.cat.chans ch with
  | none => d
  | some c =>
    match d.slotOf c.srcCell, c.dst[i]? with
    | some ks, some (n, port) =>
      match tget [] (d.slot ks).outBuf c.srcPort, d.slotOf n with
      | w :: ws, some kd =>
        if c.taken.contains i || decide (16 ≤ (tget [] (d.slot kd).inBuf port).length) then d
        else
          let taken := insertNat i c.taken
          let all := taken.length == c.dst.length
          let run := d.runOf n
          let d := d.upSlot kd (fun s => { s with
            inBuf := tup [] s.inBuf port (fun l => l ++ [{ data := w.data, bad := badParity && run.isNone }]) })
          let d := d.upCat (fun x => { x with chans := tset none x.chans ch (some { c with taken := if all then [] else taken }) })
          let d := if all then d.upSlot ks (fun s => { s with outBuf := tset [] s.outBuf c.srcPort ws }) else d
          let d := match d.runOf c.srcCell with | some r => if all then d.perf r c.srcCell 6 1 else d | none => d
          match run with
          | none => d
          | some r =>
            let d := d.perf r n 7 1
            if badParity then d.faultParity r n port else Dev.drainRecv n kd port 16 d
      | _, _ => d
    | _, _ => d

/-- R83, R101, R105: the run of work order (q, i) ends: every cell has retired END and every word sent has arrived, or a cause of
R101 has stopped it. Residue words are discarded and counted. -/
def doRunEnd (d : Dev) (q i : Nat) : Dev :=
  match d.cat.runs.find? (fun r => r.queue == q && r.index == i) with
  | none => d
  | some r =>
    let chans := d.groupChans r.cells
    let slotOf := fun n => match d.slotOf n with | some k => d.slot k | none => Slot.init
    let done := r.cells.all (fun n => (slotOf n).ended) &&
      chans.all (fun (_, c) => tget [] (slotOf c.srcCell).outBuf c.srcPort == [])
    if r.fault == none && !done then d
    else
      let ports := chans.flatMap (fun (_, c) => c.dst)
      let left := ports.foldl (fun a (n, p) => a + (tget [] (slotOf n).inBuf p).length) 0
      let d := d.each ports (fun d (n, p) => d.upCell n (fun s => { s with inBuf := tset [] s.inBuf p [] }))
      let d := d.upPart r.part (fun x => { x with residue := satAdd 32 x.residue left, resOvf := x.resOvf || satOver 32 x.residue left })
      let st := r.fault.getD stOk
      let d := d.each r.cells (fun d n => d.upCell n (fun s => { s with stopped := false }))
      let d := d.upCat (fun x => { x with runs := x.runs.filter (fun y => !(y.queue == q && y.index == i)) })
      let d := d.trace 0x04 r.part (r.cells.headD 0 / 256) (r.group % 2 ^ 10 + st % 2 ^ 8 * 2 ^ 10)
      d.endWork q i st 0 0

/-! ### Memory (R100) -/

/-- R42, R100: copies bytes from HBM or shelf to the carrel. -/
def doDmain (d : Dev) (cell : Nat) (o : Opds) (e : Ecc) : Dev :=
  match d.canIssue cell 0x40 o with
  | none => d
  | some (r, k) =>
    let s := d.slot k
    let a := s.addr o.opd0
    let va := s.xPair (regIx o.opd1) % 2 ^ 44
    if s.busyCar [(a, o.opd2)] then d
    else
      match d.vaRead r.part va o.opd2 1 1 true e with
      | (d, .ok bs) =>
        match d.carrelWrite k a bs with
        | (d, true) => (d.perfIssue r cell 0 0).upSlot k Slot.advance
        | (d, false) => (d.undefCarrel k a o.opd2).faultCell r cell stUe 5
      | (d, x) => (d.undefCarrel k a o.opd2).faultCell r cell x.status 4

/-- R42, R100: copies bytes from the carrel to HBM or shelf. A refused transfer takes no effect on memory (R175). -/
def doDmaout (d : Dev) (cell : Nat) (o : Opds) (e : Ecc) : Dev :=
  match d.canIssue cell 0x41 o with
  | none => d
  | some (r, k) =>
    let s := d.slot k
    let a := s.addr o.opd0
    let va := s.xPair (regIx o.opd1) % 2 ^ 44
    let undef := fun (d : Dev) =>
      match (d.part r.part).pieces 2 true (pieceFuel o.opd2) va o.opd2 with
      | .ok l => d.undefMem (l.filter (fun x => decide (x.1 < shelfEnd)))
      | .error _ => d
    if s.busyCar [(a, o.opd2)] then d
    else
      match d.carrelRead k a o.opd2 (e.ce.map (· % 2 ^ 21)) (e.ue.map (· % 2 ^ 21)) with
      | (d, none) => (undef d).faultCell r cell stUe 5
      | (d, some bs) =>
        match d.vaWrite r.part va 2 1 true bs with
        | (d, .ok _) => (d.perfIssue r cell 0 0).upSlot k Slot.advance
        | (d, .denied) => d.faultCell r cell stDenied 4
        | (d, .ue) => (undef d).faultCell r cell stUe 4

/-- R86, R94, R100: loads a weight tile of 128 columns; its ledger counts are taken as it is loaded. -/
def doLdw (d : Dev) (cell : Nat) (o : Opds) (e : Ecc) : Dev :=
  match d.canIssue cell 0x42 o with
  | none => d
  | some (r, k) =>
    let a := (d.slot k).addr o.opd0
    let g := groupBytes o.fmtA
    let w1 := bit o.flags 0
    if (d.slot k).busyCar [(a, 128 * g)] then d
    else if a % fmtAlign o.fmtA != 0 then (d.undefW k w1 o.fmtA).faultCell r cell stDenied 5
    else
      match d.carrelRead k a (128 * g) e.ce e.ue with
      | (d, none) => (d.undefW k w1 o.fmtA).faultCell r cell stUe 5
      | (d, some bs) =>
        let l := Led.sum ((chunksOf g 128 bs).map (fun c => (dec256 o.fmtA true c).2))
        (((d.perfIssue r cell 0 0).upSlot k (fun s => (s.setW w1 { fmt := o.fmtA, bytes := bs }).advance)).ledger r.part r.queue r.index l)

/-- R71, R93, R100: decodes 256 elements to FP32 lanes. -/
def doVld (d : Dev) (cell : Nat) (o : Opds) (e : Ecc) : Dev :=
  match d.canIssue cell 0x43 o with
  | none => d
  | some (r, k) =>
    let a := (d.slot k).addr o.opd1
    let g := groupBytes o.fmtA
    let v := regIx o.opd0
    if (d.slot k).busyCar [(a, g)] then d
    else if a % fmtAlign o.fmtA != 0 then (d.undefV k v).faultCell r cell stDenied 2
    else
      match d.carrelRead k a g e.ce e.ue with
      | (d, none) => (d.undefV k v).faultCell r cell stUe 5
      | (d, some bs) =>
        let (es, l) := dec256 o.fmtA false bs
        let ws := es.map elToF32
        ((d.perfIssue r cell 0 1).upSlot k (fun s => (s.setV v (ws.map (·.1))).advance)).ledger r.part r.queue r.index
          (Led.add l (Led.sum (ws.map (·.2))))

/-- R70, R100: stores 256 lanes in an IEEE format. -/
def doVst (d : Dev) (cell : Nat) (o : Opds) (e : Ecc) : Dev :=
  match d.canIssue cell 0x44 o with
  | none => d
  | some (r, k) =>
    let a := (d.slot k).addr o.opd1
    let g := groupBytes o.fmtB
    if (d.slot k).busyCar [(a, g)] then d
    else if a % 64 != 0 then (d.undefCarrel k a g).faultCell r cell stDenied 2
    else
      let (eb, mb) := fmtFloat o.fmtB
      let ws := ((d.slot k).v (regIx o.opd0)).map (fun w => if o.fmtB = 0x32 then (w, false) else f32To eb mb w)
      let d := d.upSlot k (fun s => { s with
        carrelUe := (e.ue.filter (fun u => meetsCar u a g)).foldl (fun l u => insertNat (u % 2 ^ 21 / 8 * 8) l) s.carrelUe })
      match d.carrelWrite k a (ws.flatMap (fun w => leBytes (g / 256) w.1)) with
      | (d, true) =>
        ((d.perfIssue r cell 0 1).upSlot k Slot.advance).ledger r.part r.queue r.index ⟨(ws.filter (·.2)).length, 0, 0⟩
      | (d, false) => (d.undefCarrel k a g).faultCell r cell stUe 5

/-! ### Matrix (R86–R90, R100) -/

/-- R86: steps per row per block of a format's class. -/
def fmtSteps (f : Nat) : Nat :=
  if f = 3 || f = 4 || f = 5 then 1 else if f = 1 || f = 2 || f = 0x10 then 2 else if f = 0x30 || f = 0x31 then 8 else 4

/-- R319: a format's work counter: its place in R56, FP32 omitted. -/
def workIx (f : Nat) : Nat := [0x01, 0x02, 0x03, 0x04, 0x05, 0x10, 0x11, 0x12, 0x13, 0x14, 0x15, 0x20, 0x21, 0x30].findIdx (· == f)

/-- R100: the 128 columns of a weight buffer; a buffer never loaded reads zeros. -/
def Slot.columns (s : Slot) (w1 : Bool) : Option (Nat × List (List El)) :=
  (if w1 then s.w1 else s.w0).map (fun t => (t.fmt, (chunksOf (groupBytes t.fmt) 128 t.bytes).map (fun c => (dec256 t.fmt true c).1)))

/-- R87–R90: one activation row against every column of the tile; the counts are saturations. -/
def Slot.mmaRow (s : Slot) (comp own : Bool) (bank row : Nat) (act : List El) (cols : List (List El)) : Slot × Nat :=
  cols.zipIdx.foldl (fun (s, n) (col, c) =>
    let key := accKey bank row c
    let (p, m) := accAdd comp ((tget 0 s.acc key).toNat, (tget 0 s.comp key).toNat) (blockSum (mmaTerms own act col))
    ({ s with acc := tset 0 s.acc key (BitVec.ofNat 32 p.1), comp := tset 0 s.comp key (BitVec.ofNat 32 p.2) }, n + m)) (s, 0)

/-- The activation rows in order, from accumulator row `row` on. -/
def Slot.mmaRows (s : Slot) (comp own : Bool) (bank : Nat) (cols : List (List El)) : Nat → List (List El) → Slot × Nat
  | _, [] => (s, 0)
  | row, a :: l =>
    let x := s.mmaRow comp own bank row a cols
    let y := x.1.mmaRows comp own bank cols (row + 1) l
    (y.1, x.2 + y.2)

/-- R87–R90, R100: adds one accumulation block per row and column. The activation elements' ledger counts are taken as each row
is read. -/
def doMma (d : Dev) (cell : Nat) (o : Opds) (e : Ecc) : Dev :=
  match d.canIssue cell 0x60 o with
  | none => d
  | some (r, k) =>
    let s := d.slot k
    let (bank, first, n) := rowsOf o.opd0
    let g := groupBytes o.fmtA
    let w1 := bit o.flags 0
    let comp := bit o.flags 1
    let addrs := (List.range n).map (fun i => (s.addr o.opd1 + i * o.opd2) % 2 ^ 21)
    let (wf, cols) := (s.columns w1).getD (o.fmtA, List.replicate 128 (List.replicate 256 elZero))
    if s.busyCar (addrs.map (fun a => (a, g))) then d
    else if addrs.any (fun a => a % fmtAlign o.fmtA != 0) then (d.undefRows k bank first n).faultCell r cell stDenied 1
    else
      match d.carrelReads k g e addrs with
      | (d, none) => (d.undefRows k bank first n).faultCell r cell stUe 5
      | (d, some bss) =>
        let acts := bss.map (fun b => dec256 o.fmtA true b)
        let own := fmtOwnTerm o.fmtA || fmtOwnTerm wf
        let (s', sat) := (d.slot k).mmaRows comp own bank cols first (acts.map (·.1))
        let steps := n * max (fmtSteps o.fmtA) (fmtSteps wf) * (if comp then 2 else 1)
        let d := d.work r.part (workIx (if fmtSteps o.fmtA < fmtSteps wf then wf else o.fmtA)) (n * 32768)
        ((d.perfIssue r cell steps 0).upSlot k (fun _ => s'.advance)).ledger r.part r.queue r.index
          (Led.add ⟨sat, 0, 0⟩ (Led.sum (acts.map (·.2))))

/-- R100: clears accumulator rows and their compensation words. -/
def doAclr (d : Dev) (cell : Nat) (o : Opds) : Dev :=
  match d.canIssue cell 0x61 o with
  | none => d
  | some (r, k) =>
    let (bank, first, n) := rowsOf o.opd0
    (d.perfIssue r cell (ceilDiv n 16) 0).upSlot k (fun s =>
      ({ s with acc := tclear s.acc (accKey bank first 0) (accKey bank (first + n) 0),
                comp := tclear s.comp (accKey bank first 0) (accKey bank (first + n) 0) } : Slot).advance)

/-- R90, R100: reads an accumulator row pair into a vector register. -/
def doAcrd (d : Dev) (cell : Nat) (o : Opds) : Dev :=
  match d.canIssue cell 0x62 o with
  | none => d
  | some (r, k) =>
    let s := d.slot k
    let (bank, rp) := s.rowPair o.opd1
    let ws := (List.range 256).map (fun i =>
      let key := accKey bank (2 * rp) 0 + i
      accRead (tget 0 s.acc key).toNat (tget 0 s.comp key).toNat)
    ((d.perfIssue r cell 1 0).upSlot k (fun s => (s.setV (regIx o.opd0) (ws.map (·.1))).advance)).ledger r.part r.queue r.index
      ⟨(ws.filter (·.2)).length, 0, 0⟩

/-- R90, R100: writes an accumulator row pair from a vector register; compensation words become +0. -/
def doAcwr (d : Dev) (cell : Nat) (o : Opds) : Dev :=
  match d.canIssue cell 0x63 o with
  | none => d
  | some (r, k) =>
    (d.perfIssue r cell 1 0).upSlot k (fun s =>
      let (bank, rp) := s.rowPair o.opd1
      let key := accKey bank (2 * rp) 0
      ({ s with acc := tputs 0 s.acc key ((s.v (regIx o.opd0)).map (BitVec.ofNat 32)),
                comp := tclear s.comp key (key + 256) } : Slot).advance)

/-! ### Vector (R91–R93, R100) -/

/-- A two-operand vector instruction: `f` gives each lane's result from va, vb and vd; VFMA counts two lane operations (R319). -/
def Dev.vec2 (d : Dev) (cell op : Nat) (o : Opds) (f : Nat → Nat → Nat → Nat × Bool) : Dev :=
  match d.canIssue cell op o with
  | none => d
  | some (r, k) =>
    let s := d.slot k
    let vb := if bit o.flags 0 then List.replicate 256 (s.x (regIx o.opd2)) else s.v (regIx o.opd2)
    let ws := ((s.v (regIx o.opd1)).zip (vb.zip (s.v (regIx o.opd0)))).map (fun (a, b, c) => f a b c)
    let d := if op = 0x82 then d.work r.part 15 256 else d
    ((d.perfIssue r cell 0 1).upSlot k (fun s => (s.setV (regIx o.opd0) (ws.map (·.1))).advance)).ledger r.part r.queue r.index
      ⟨(ws.filter (·.2)).length, 0, 0⟩

/-- A one-operand vector instruction. -/
def Dev.vec1 (d : Dev) (cell op : Nat) (o : Opds) (f : Nat → Nat × Bool) : Dev :=
  match d.canIssue cell op o with
  | none => d
  | some (r, k) =>
    let ws := ((d.slot k).v (regIx o.opd1)).map f
    ((d.perfIssue r cell 0 2).upSlot k (fun s => (s.setV (regIx o.opd0) (ws.map (·.1))).advance)).ledger r.part r.queue r.index
      ⟨(ws.filter (·.2)).length, 0, 0⟩

def doVadd (d : Dev) (cell : Nat) (o : Opds) : Dev := d.vec2 cell 0x80 o (fun a b _ => f32Add a b)
def doVmul (d : Dev) (cell : Nat) (o : Opds) : Dev := d.vec2 cell 0x81 o (fun a b _ => f32Mul a b)
def doVfma (d : Dev) (cell : Nat) (o : Opds) : Dev := d.vec2 cell 0x82 o (fun a b c => f32Fma a b c)
def doVmax (d : Dev) (cell : Nat) (o : Opds) : Dev := d.vec2 cell 0x83 o (fun a b _ => (f32Max a b, false))
def doVmin (d : Dev) (cell : Nat) (o : Opds) : Dev := d.vec2 cell 0x84 o (fun a b _ => (f32Min a b, false))
def doVexp2 (d : Dev) (cell : Nat) (o : Opds) : Dev := d.vec1 cell 0x86 o f32Exp2
def doVlog2 (d : Dev) (cell : Nat) (o : Opds) : Dev := d.vec1 cell 0x87 o f32Log2
def doVrcp (d : Dev) (cell : Nat) (o : Opds) : Dev := d.vec1 cell 0x88 o f32Rcp
def doVrsqrt (d : Dev) (cell : Nat) (o : Opds) : Dev := d.vec1 cell 0x89 o f32Rsqrt

/-- R92: one level of the tree. -/
def treeLevel (f : Nat → Nat → Nat × Bool) : List Nat → List (Nat × Bool)
  | a :: b :: l => f a b :: treeLevel f l
  | _ => []

/-- R92: eight levels; the flag says some combination gave an infinity from finite operands. -/
def treeFold (f : Nat → Nat → Nat × Bool) : Nat → List Nat → Bool → Nat × Bool
  | 0, l, b => (l.headD 0, b)
  | n + 1, l, b =>
    let r := treeLevel f l
    treeFold f n (r.map (·.1)) (b || r.any (·.2))

/-- R92: a reduction over the 256 lanes, its result in every lane; one saturation per issue at most (R91). -/
def Dev.vecTree (d : Dev) (cell op : Nat) (o : Opds) (f : Nat → Nat → Nat × Bool) : Dev :=
  match d.canIssue cell op o with
  | none => d
  | some (r, k) =>
    let (w, b) := treeFold f 8 ((d.slot k).v (regIx o.opd1)) false
    ((d.perfIssue r cell 0 3).upSlot k (fun s => (s.setV (regIx o.opd0) (List.replicate 256 w)).advance)).ledger r.part r.queue r.index
      ⟨b2n b, 0, 0⟩

def doVrsum (d : Dev) (cell : Nat) (o : Opds) : Dev := d.vecTree cell 0x8A o f32Add
def doVrmax (d : Dev) (cell : Nat) (o : Opds) : Dev := d.vecTree cell 0x8B o (fun a b => (f32Max a b, false))

/-- R93, R94, R100: quantises 256 lanes into a narrow format. -/
def doVqnt (d : Dev) (cell : Nat) (o : Opds) (e : Ecc) : Dev :=
  match d.canIssue cell 0x8C o with
  | none => d
  | some (r, k) =>
    let s := d.slot k
    let a := s.addr o.opd1
    let f := o.fmtB
    let sreg := fld o.opd2 19 16
    let sa := s.x sreg % 2 ^ 21
    let two := fmtMx f && sreg != 0
    let ranges := if two then [(a, 32 * fmtBits f), (sa, 8)] else [(a, groupBytes f)]
    let undef := fun (d : Dev) => d.each ranges (fun d (b, n) => d.undefCarrel k b n)
    if s.busyCar ranges then d
    else if a % fmtAlign f != 0 then (undef d).faultCell r cell stDenied 2
    else
      let ix := fld o.opd2 11 8
      let sr : Option Sr := if bit o.flags 0
        then some { seed := (d.part r.part).seed, tensor := s.x (fld o.opd2 3 0), base := s.xPair ix % 2 ^ 40 } else none
      let (bs, sc, l) := quantise f (vqntRatio o.flags) ((s.v (regIx o.opd0)).map f32) sr
      let d := d.upSlot k (fun s => { s with
        carrelUe := (e.ue.filter (fun u => ranges.any (fun (b, n) => meetsCar u b n))).foldl
          (fun l u => insertNat (u % 2 ^ 21 / 8 * 8) l) s.carrelUe })
      let (d, ok1) := d.carrelWrite k a (if two then bs else if fmtMx f then mxGroup bs sc else bs)
      let (d, ok2) := if two then d.carrelWrite k sa sc else (d, true)
      if ok1 && ok2 then
        ((d.perfIssue r cell 0 (if bit o.flags 1 then 6 else 4)).upSlot k Slot.advance).ledger r.part r.queue r.index l
      else (undef d).faultCell r cell stUe 5

def doVsplat (d : Dev) (cell : Nat) (o : Opds) : Dev :=
  d.simple cell 0x8E o 1 (fun s => s.setV (regIx o.opd0) (List.replicate 256 (s.x (regIx o.opd1))))

/-! ### Scalar (R100) -/

def doSeti (d : Dev) (cell : Nat) (o : Opds) : Dev := d.simple cell 0xA0 o 0 (fun s => s.setX (regIx o.opd0) o.opd1)
def doAddi (d : Dev) (cell : Nat) (o : Opds) : Dev :=
  d.simple cell 0xA1 o 0 (fun s => s.setX (regIx o.opd0) (s.x (regIx o.opd1) + o.opd2))
def doAdd (d : Dev) (cell : Nat) (o : Opds) : Dev :=
  d.simple cell 0xA2 o 0 (fun s => s.setX (regIx o.opd0) (s.x (regIx o.opd1) + s.x (regIx o.opd2)))
def doMuli (d : Dev) (cell : Nat) (o : Opds) : Dev :=
  d.simple cell 0xA3 o 0 (fun s => s.setX (regIx o.opd0) (s.x (regIx o.opd1) * o.opd2))

/-! ### Scrub, ledger, performance counters, trace (R107–R111) -/

/-- R107: one scrub pass over a slot's carrel: errors that have appeared are found, corrected or reported. -/
def doCarrelScrub (d : Dev) (k : Nat) (e : Ecc) : Dev := (d.carrelRead k 0 (2 ^ 21) e.ce e.ue).1

/-- R17, R108: the ledger clears are open to the bound host and to every requester that may write a WO field of the map. -/
def doLedgerClear (d : Dev) (p : Nat) (f : Part → Part) : Dev := d.upPart p f

/-- R111: performance and trace registers: the bound host, the Archivist, JTAG; the management port reaches them not at all. -/
def perfWriter (r : Requester) : Bool := r != .mgmt

/-- R17: a write refused by requester: counted, no effect. -/
def Dev.accessErr (d : Dev) : Dev := d.upSec (fun x => { x with accessErr := satAdd 32 x.accessErr 1 })

def doPerfFreeze (d : Dev) (r : Requester) (b : Bool) : Dev :=
  if perfWriter r then d.upCat (fun c => { c with freeze := b }) else d.accessErr

/-- R111: clears the counters of every cell of partition `p`. -/
def Dev.perfClearPart (d : Dev) (p : Nat) : Dev :=
  let cl := (d.part p).clusters.toNat
  d.upCat (fun c => { c with perf := tdrop c.perf (fun key => bit cl (key / 128)) })

def doPerfClear (d : Dev) (r : Requester) (p : Nat) : Dev := if perfWriter r then d.perfClearPart p else d.accessErr

/-- R111: the host has taken the entries before `n`. -/
def doTraceReadAdvance (d : Dev) (r : Requester) (n : Nat) : Dev :=
  if perfWriter r then d.upCat (fun c => { c with trRead := n % 4096 }) else d.accessErr

/-- R110: once room has returned, a LOST entry records what was missed. -/
def doTraceLostEntry (d : Dev) : Dev :=
  d.upCat (fun c =>
    if c.trEnable && c.trMissed != 0 && !(c.trStop && trUsed c == 4095) then
      { trPut c { kind := 0x07, part := 0, quad := 0, ts := d.now, payload := c.trMissed } with trMissed := 0 }
    else c)

end Sys2Proof.Machine
end

