-- ==== Sys2Proof/Machine/Flags.lean ====
section
/-! DEFINITION. Status that the registers derive from the state: cells (R108), slots and clusters (R360). -/

namespace Sys2Proof.Machine

/-- R108: the instruction at the program counter waits for a port: a RECV behind a RECV, a SEND behind a SEND. -/
def Slot.atPort (s : Slot) : Bool :=
  let (op, o) := decodeIns (tget 0 s.store s.pc).toNat
  (op == 0x20 && (tget none s.recv o.opd0).isSome) || (op == 0x21 && tget [] s.outBuf o.opd0 != [])

/-- R108: CAT_CELL_STATE state. -/
def Dev.cellState (d : Dev) (n : Nat) : Nat :=
  match d.slotOf n with
  | none => if (d.cellPart n).isNone then 0 else 1
  | some k =>
    let s := d.slot k
    if s.health = 4 then 5
    else if (d.cellPart n).isNone then 0
    else match d.runOf n with
      | none => 1
      | some r => if s.stopped || r.fault.isSome then 4 else if s.ended then 1 else if s.atPort then 3 else 2

/-- R108: pc fields read as zero for a confidential partition. -/
def Dev.cellConf (d : Dev) (n : Nat) : Bool := match d.cellPart n with | some p => (d.part p).conf | none => false

/-- R108: CAT_CELL_STATE. -/
def Dev.cellStateReg (d : Dev) (n : Nat) : Nat :=
  let pc := match d.slotOf n with | some k => (d.slot k).pc | none => 0
  d.cellState n + (d.cellPart n).getD 0 * 16 + (if d.cellConf n then 0 else pc * 256) + tget (n % 16) d.cat.map n * 2 ^ 20

/-- R108: CAT_CELL_FAULT. -/
def Dev.cellFaultReg (d : Dev) (n : Nat) : Nat :=
  let f := tget CellFault.init d.cat.faults n
  f.status + (if d.cellConf n then 0 else f.pc * 256) + f.unit * 2 ^ 20 + b2n f.valid * 2 ^ 31

end Sys2Proof.Machine
end

