-- ==== Sys2Proof/Machine/Queues.lean ====
section
/-! DEFINITION. Queues, doorbells, dispatch, the work orders that need no other unit, completion, cancelling (R144–R163).
Queue 32,768 stands for the shell control queue. -/

namespace Sys2Proof.Machine

/-- model: the number that stands for the shell control queue. -/
def ctlQ : Nat := 32768

/-! ### Fields of a work order (R152, R153) -/

def woOp (w : Bytes) : Nat := le w 0 1
def woFlags (w : Bytes) : Nat := le w 1 1
def woTag (w : Bytes) : Nat := le w 2 2
def woBudget (w : Bytes) : Nat := le w 4 2
def woFmtA (w : Bytes) : Nat := le w 6 1
def woFmtB (w : Bytes) : Nat := le w 7 1
def woTrip (w : Bytes) : Nat := le w 8 4
def woWait (w : Bytes) (k : Nat) : Nat := le w (12 + 8 * k) 8
def woSig (w : Bytes) (k : Nat) : Nat := le w (28 + 8 * k) 8
/-- Operand bytes, counted from byte 44. -/
def woOpd (w : Bytes) (o n : Nat) : Nat := le w (44 + o) n

def entryValid (e : Nat) : Bool := bit e 15
def entryCounter (e : Nat) : Nat := e % 2 ^ 14
def waitThreshold (e : Nat) : Nat := fld e 63 16
def sigRemote (e : Nat) : Bool := bit e 14
def sigDevice (e : Nat) : Nat := fld e 35 16
def sigAmount (e : Nat) : Nat := fld e 63 40

/-- R144: the engine of a queue; engine 0 serves the control queue. -/
def engineOf (q : Nat) : Nat := if q = ctlQ then 0 else q / 2048

/-- R151: the queue belongs to its partition; not one that a reset left killed. -/
def Queue.bound (q : Queue) : Bool := q.state != 0 && q.state != 4

/-- R123: ring size. -/
def Queue.size (q : Queue) : Nat := 2 ^ q.log2

/-- Work orders of queue q dispatched and not retired. -/
def Dev.inFlight (d : Dev) (q : Nat) : List Flight := d.que.flights.filter (fun f => f.queue == q)

/-! ### What the poured structure binds -/

/-- R124: counter n is bound to partition p. -/
def Dev.counterOf (d : Dev) (p n : Nat) : Bool := (d.counter n).bound && (d.counter n).part == p

/-- R121: source n is bound to partition p by EVENTBIND, or through a queue, counter or plan of the partition. -/
def Dev.sourceOf (d : Dev) (p n : Nat) : Bool :=
  ((d.src n).bound && (d.src n).part == p) ||
  (if n < 0x8000 then (d.queue n).bound && (d.queue n).part == p
   else if n < 0xC000 then d.counterOf p (n - 0x8000)
   else if n < 0xC400 then (match d.plan (n - 0xC000) with | some pl => pl.part == p | none => false)
   else false)

/-- R119: a cell group of partition p. -/
def Dev.groupOf (d : Dev) (p g : Nat) : Option Group := tget none d.cat.groups (p * 1024 + g)

/-- R357: a group holding a cell whose slot is FAILED. -/
def Dev.groupFailed (d : Dev) (p g : Nat) : Bool :=
  match d.groupOf p g with
  | some x => (bitsOf 1024 x.cells).any (fun n => match d.slotOf n with | some k => (d.slot k).health == 3 | none => true)
  | none => false

def Group.list (g : Group) : List Nat := bitsOf 1024 g.cells

/-! ### Malformed work orders (R163) -/

/-- R156: the opcode is defined and permitted on the queue. -/
def opPermitted (w : Bytes) (ctl : Bool) : Bool :=
  match woOp w with
  | 0x00 => true
  | 0x30 => if ctl then woOpd w 18 1 != 1 else woOpd w 18 1 != 0
  | 0x31 => ctl | 0x32 => ctl | 0x33 => ctl | 0x34 => ctl
  | 0x01 => !ctl | 0x02 => !ctl | 0x03 => !ctl | 0x10 => !ctl | 0x11 => !ctl | 0x12 => !ctl | 0x20 => !ctl | 0x21 => !ctl
  | _ => false

/-- R152, R156: flag bits 5:4 an opcode uses. -/
def opFlagMask (op : Nat) : Nat :=
  match op with
  | 0x02 => 0x10 | 0x03 => 0x30 | 0x10 => 0x30 | _ => 0

/-- R156: operand bytes an opcode uses: (first, end). -/
def opUsed (op : Nat) : Nat :=
  match op with
  | 0x01 => 20 | 0x02 => 20 | 0x03 => 20 | 0x10 => 18 | 0x11 => 18 | 0x12 => 18 | 0x20 => 2 | 0x30 => 19 | 0x31 => 2
  | 0x32 => 6 | 0x33 => 4 | 0x34 => 20 | _ => 0

/-! ### Collectives: R249 -/

def isCol (w : Bytes) : Bool := woOp w == 0x10 || woOp w == 0x11 || woOp w == 0x12

/-- R249: bytes of `c` elements. -/
def colBytes (f c : Nat) : Nat := if f = 0 then c else if fmtIfeb f then c / 256 * groupBytes f else c * fmtBits f / 8

/-- R249, R261: the work order asks for the sprue path. -/
def colSprue (w : Bytes) : Bool := woOp w == 0x10 && bit (woFlags w) 4

/-- R249: breaches of flags and count. -/
def colFlagsBad (w : Bytes) (pl : Option Plan) : Bool :=
  let c := woOpd w 14 4
  let fl := woFlags w
  isCol w &&
    ((woOp w != 0x10 && Nat.land fl 0x30 != 0) || (bit fl 5 && !bit fl 4) ||
     (colSprue w && (decide (256 < colBytes (woFmtA w) c) || (match pl with | some pl => !bit pl.flags.toNat 2 | none => false))) ||
     (c == 0 && !colSprue w) || (fmtIfeb (woFmtA w) && c % 256 != 0))

/-- R249: breaches of formats. -/
def colFmtsBad (w : Bytes) (pl : Option Plan) : Bool :=
  woFmtA w != woFmtB w ||
    (if woOp w = 0x10 then (match pl with | some pl => pl.accFmt != woFmtA w | none => false)
     else woFmtA w != 0 && (!fmtDefined (woFmtA w) || fmtMx (woFmtA w)))

/-- R249: breaches of alignment and B. -/
def colAlignBad (w : Bytes) : Bool :=
  isCol w && (woOpd w 2 6 % 64 != 0 || woOpd w 8 6 % 64 != 0 || colBytes (woFmtA w) (woOpd w 14 4) % 64 != 0)

/-- R163, detail 0x1002. -/
def woReserved (w : Bytes) : Bool :=
  let op := woOp w
  let fl := woFlags w
  let sigBad := fun (e : Nat) => fld e 39 36 != 0 || (!sigRemote e && sigDevice e != 0)
  bit fl 3 || bit fl 6 || bit fl 7 || Nat.land fl 0x30 != Nat.land (Nat.land fl 0x30) (opFlagMask op) ||
  fld (woBudget w) 15 14 == 3 ||
  (op == 0x00 && !allZero (w.drop 4)) ||
  bit (woWait w 0) 14 || bit (woWait w 1) 14 || sigBad (woSig w 0) || sigBad (woSig w 1) ||
  !allZero (w.drop (44 + opUsed op)) ||
  (op == 0x30 && decide (1 < woOpd w 18 1)) ||
  (op == 0x32 && (woOpd w 3 1 != 0 || decide (3 < woOpd w 2 1) || (woOpd w 2 1 == 1 && decide (1023 < woOpd w 4 2)) ||
    (woOpd w 2 1 == 2 && decide (63 < woOpd w 4 2)))) ||
  (op == 0x33 && (woOpd w 1 1 != 0 || decide (2 < woOpd w 0 1) ||
    (woOpd w 0 1 == 0 && (decide (2047 < woOpd w 2 2) || decide (16 < woOpd w 2 2 % 32))) ||
    (woOpd w 0 1 == 1 && decide (3 < woOpd w 2 2)) || (woOpd w 0 1 == 2 && decide (15 < woOpd w 2 2)))) ||
  (op == 0x34 && (decide (1 < woOpd w 0 1) || woOpd w 1 3 != 0)) ||
  (op == 0x03 && woOpd w 18 2 == 0) ||
  (op == 0x02 && woFmtA w != 0 && woOpd w 16 4 % 256 != 0)

/-- R163, detail 0x1003. -/
def Dev.woEntries (d : Dev) (w : Bytes) (ctl : Bool) (p : Nat) : Bool :=
  let es := [woWait w 0, woWait w 1, woSig w 0, woSig w 1]
  if ctl then es.any entryValid
  else
    [woWait w 0, woWait w 1].any (fun e => entryValid e && !d.counterOf p (entryCounter e)) ||
    [woSig w 0, woSig w 1].any (fun e => entryValid e && (sigAmount e == 0 || (!sigRemote e && !d.counterOf p (entryCounter e))))

/-- R163, detail 0x1004. -/
def Dev.woStructure (d : Dev) (w : Bytes) (p : Nat) : Bool :=
  match woOp w with
  | 0x01 =>
    match d.groupOf p (woOpd w 0 2) with
    | none => true
    | some g => g.list.any (fun n => decide (tget 0 d.cat.patLen n ≤ woOpd w 2 2))
  | 0x10 => match d.plan (woOpd w 0 2) with | some pl => pl.part != p | none => true
  | 0x11 => match d.plan (woOpd w 0 2) with | some pl => pl.part != p | none => true
  | 0x12 => match d.plan (woOpd w 0 2) with | some pl => pl.part != p | none => true
  | 0x20 => woOpd w 0 2 != 0xFFFF && !d.sourceOf p (woOpd w 0 2)
  | _ => false

/-- R188: the transcoder's pairs. -/
def xcodeOk (a b : Nat) : Bool :=
  (fmtIfeb a && b == 0x30) || (a == 0x30 && fmtIfeb b) || (fmtMx a && fmtMx b && a != b)

/-- R163, detail 0x1005. -/
def woFormats (w : Bytes) (pl : Option Plan) : Bool :=
  let a := woFmtA w
  let b := woFmtB w
  match woOp w with
  | 0x10 => colFmtsBad w pl | 0x11 => colFmtsBad w pl | 0x12 => colFmtsBad w pl
  | 0x02 => if a == 0 && b == 0 then false else !xcodeOk a b
  | 0x03 => false
  | _ => a != 0 || b != 0

/-- R157: whether a COPY's address names another device. -/
def Dev.far (d : Dev) (a : Nat) : Bool := a / 2 ^ 44 != d.rte.devId

/-- R163, details 0x1006 and 0x1007, for COPY (R58, R157). -/
def woUnaligned (w : Bytes) : Bool :=
  (woOp w == 0x02 && woFmtA w != 0 && (woOpd w 0 8 % 16 != 0 || woOpd w 8 8 % 16 != 0)) || colAlignBad w

def Dev.woSides (d : Dev) (w : Bytes) : Bool :=
  let far := d.far
  woOp w == 0x02 &&
    ((far (woOpd w 0 8) && far (woOpd w 8 8)) ||
     (woFmtA w != 0 && [woOpd w 0 8, woOpd w 8 8].any (fun a => far a || decide (hbmEnd ≤ a % 2 ^ 44))))

/-- R163: the lowest detail that applies, 0 when the work order is well formed. -/
def Dev.malformed (d : Dev) (w : Bytes) (ctl : Bool) (p : Nat) : Nat :=
  let pl := if isCol w then d.plan (woOpd w 0 2) else none
  if !opPermitted w ctl then 0x1001
  else if woReserved w || colFlagsBad w pl then 0x1002
  else if d.woEntries w ctl p then 0x1003
  else if d.woStructure w p then 0x1004
  else if woFormats w pl then 0x1005
  else if woUnaligned w then 0x1006
  else if d.woSides w then 0x1007
  else 0

/-! ### Reading, doorbells -/

/-- R147: the one read of work order `i` of queue `q`: 64 bytes; the empty string when the read failed. -/
def Dev.readWo (d : Dev) (q i : Nat) (e : Ecc) : Dev × Bytes :=
  if q = ctlQ then (d, leBytes 64 (tget 0 d.que.ctlSlot (i % 16)))
  else
    let x := d.queue q
    match d.vaRead x.part (x.ring + 64 * (i % x.size)) 64 1 2 true e with
    | (d, .ok bs) => (d, bs)
    | (d, _) => (d, [])

def Dev.ctlQueue (d : Dev) : Queue :=
  { Queue.init with state := 1, log2 := 4, prod := d.que.ctlProd, disp := d.que.ctlDisp, ret := d.que.ctlRet, head := d.que.ctlHead }

/-- The counts of a queue, the control queue's among them. -/
def Dev.anyQueue (d : Dev) (q : Nat) : Queue := if q = ctlQ then d.ctlQueue else d.queue q

def Dev.upAnyQueue (d : Dev) (q : Nat) (f : Queue → Queue) : Dev :=
  if q = ctlQ then
    let x := f d.ctlQueue
    d.upQue (fun m => { m with ctlProd := x.prod, ctlDisp := x.disp, ctlRet := x.ret, ctlHead := x.head })
  else d.upQueue q f

/-- R147: when the head has become available and is not yet read, reads it. -/
def Dev.readHead (d : Dev) (q : Nat) (e : Ecc) : Dev :=
  let x := d.anyQueue q
  if x.head.isSome || x.prod == x.disp then d
  else
    let (d, bs) := d.readWo q x.disp e
    d.upAnyQueue q (fun x => { x with head := some bs })

def Dev.countBadBell (d : Dev) : Dev := d.upQue (fun m => { m with badBell := satAdd 32 m.badBell 1 })

/-- R146: a doorbell value. -/
def Dev.bell (d : Dev) (q v : Nat) (e : Ecc) : Dev :=
  let x := d.anyQueue q
  let v := v % 2 ^ 32
  let ahead := (v + 2 ^ 32 - x.prod) % 2 ^ 32
  let back := (v + 2 ^ 32 - x.ret) % 2 ^ 32
  if ahead = 0 then d
  else if ahead ≤ back && back ≤ x.size then (d.upAnyQueue q (fun x => { x with prod := v })).readHead q e
  else d.countBadBell

/-- R40, R135, R146: the bound host writes value `v` at byte `off` of queue q's doorbell stride. -/
def doQueueDoorbell (d : Dev) (q off v : Nat) (e : Ecc) : Dev :=
  let x := d.queue q
  if x.state = 0 || off != 0 || (x.bound && (d.part x.part).state == 1) then d.refuse (0xF1000000000 + q * 0x40 + off)
  else if x.state != 1 then d.countBadBell
  else d.bell q v e

/-- R17: who may write what a map reserves for the bound host: the host itself, JTAG in VENDOR, and the Archivist. -/
def hostOnly (r : Requester) : Bool := r == .host || r == .jtagVendor || r == .archivist

/-- R17: who may write what a map reserves for the management port. -/
def mgmtOnly (r : Requester) : Bool := r == .mgmt || r == .jtagOwner || r == .jtagVendor || r == .archivist

/-- R150: QUE_CTL_DOORBELL. -/
def doCtlDoorbell (d : Dev) (r : Requester) (v : Nat) : Dev :=
  if hostOnly r then d.bell ctlQ v { ce := [], ue := [] } else d.accessErr

/-! ### Dispatch -/

def Flight.make (q i p : Nat) (w : Bytes) : Flight :=
  { queue := q, index := i, part := p, wo := w, started := false, status := none, detail := 0, result := 0, sat := 0, nan := 0,
    inv := 0, uj := 0, issued := false, out0 := stNotIssued, out1 := stNotIssued, nojudge := false, pieces := 0, fail := 0,
    twBase := 0, region := 64, watch := false }

/-- R154: every valid wait entry holds. Counters only rise while bound, so an entry that has held still holds. -/
def Dev.waitsHold (d : Dev) (w : Bytes) : Bool :=
  [woWait w 0, woWait w 1].all (fun e => !entryValid e || decide (waitThreshold e ≤ (d.counter (entryCounter e)).value))

/-- R142: whether a pattern swap in progress covers a cell of the list. -/
def Dev.swapCovers (d : Dev) (cells : List Nat) : Bool :=
  match d.mld.op with
  | some o => o.mode == 1 && cells.any (fun n => o.cells.contains n)
  | none => false

/-- R247: a collective on a plan whose previous instance is still in progress here. -/
def Dev.planBusy (d : Dev) (w : Bytes) : Bool :=
  isCol w && (match d.plan (woOpd w 0 2) with | some pl => pl.inst.isSome | none => false)

/-- R398: a further ATTEST is taken: one request is served and at most four wait. -/
def Dev.reportRoom (d : Dev) : Bool :=
  decide (d.sec.repQ.length + (d.que.flights.filter (fun f => f.queue == ctlQ && woOp f.wo == 0x34 && !f.started && f.status.isNone)).length < 5)

/-- R148: whether the head of queue q is dispatchable (a malformed or unreadable head leaves the queue at once). -/
def Dev.ready (d : Dev) (q : Nat) : Bool :=
  let x := d.anyQueue q
  match x.head with
  | none => false
  | some w =>
    x.state == 1 && (q == ctlQ || (d.part x.part).state == 2) &&
    (w == [] || d.malformed w (q == ctlQ) x.part != 0 ||
      (d.waitsHold w &&
       (!(bit (woFlags w) 0 || woOp w == 0x21) || x.ret == x.disp) &&
       !d.planBusy w && (woOp w != 0x34 || d.reportRoom) &&
       decide ((d.inFlight q).length < 64) &&
       decide ((d.que.flights.filter (fun f => engineOf f.queue == engineOf q)).length < 1024) &&
       (woOp w != 0x01 ||
        (match d.groupOf x.part (woOpd w 0 2) with
         | some g => !d.cat.runs.any (fun r => r.cells.any (fun n => g.list.contains n)) && !d.swapCovers g.list
         | none => true))))

/-- R149: a queue's rank in its engine's round robin within its priority. -/
def Dev.rrRank (d : Dev) (q : Nat) : Nat :=
  let x := d.queue q
  (q + 32768 - (tget 0 d.que.rr (engineOf q * 4 + x.prio) + 1)) % 32768

/-- R149, R150: engine order: the control queue first, then priority, then round robin. -/
def Dev.chosen (d : Dev) (q : Nat) : Bool :=
  d.ready q &&
  (q == ctlQ ||
    (!(engineOf q == 0 && d.ready ctlQ) &&
     d.que.queues.all (fun kv =>
       kv.1 == q || engineOf kv.1 != engineOf q || !d.ready kv.1 || decide (kv.2.prio < (d.queue q).prio) ||
       (kv.2.prio == (d.queue q).prio && decide (d.rrRank q < d.rrRank kv.1)))))

/-- R176: the pieces of a COPY of `n` bytes from `a` to `b`, split at the interleave-unit boundaries of both sides, in ascending
destination offset: (offset, length). -/
def cutPieces (a b : Nat) : Nat → Nat → Nat → List (Nat × Nat)
  | 0, _, _ => []
  | fuel + 1, o, n =>
    if n = 0 then []
    else
      let m := min n (min (2048 - (a + o) % 2048) (2048 - (b + o) % 2048))
      (o, m) :: cutPieces a b fuel (o + m) (n - m)

/-- R157: the pieces of a COPY work order. -/
def copyPieces (w : Bytes) : List (Nat × Nat) :=
  let n := woOpd w 16 4
  cutPieces (woOpd w 0 8) (woOpd w 8 8) (n / 1024 + 3) 0 n

/-- R375: the fabric packets that a work order's operands imply (Ladle packets have their own streams). -/
def Dev.impliedPackets (d : Dev) (w : Bytes) : Nat :=
  let c := if woOp w = 0x02 && woFmtA w = 0 && (d.far (woOpd w 0 8) || d.far (woOpd w 8 8)) then (copyPieces w).length else 0
  c + ([woSig w 0, woSig w 1].filter (fun e => entryValid e && sigRemote e)).length

def Stream.make (p : Nat) : Stream := { part := p, next := 0, first := 0, last := 0, count := 0, bytes := 0, digest := 0 }

def Dev.stream (d : Dev) (p n : Nat) : Stream := (tget none d.twin.streams n).getD (Stream.make p)

def Dev.upStream (d : Dev) (p n : Nat) (f : Stream → Stream) : Dev :=
  d.upTwin (fun t => { t with streams := tset none t.streams n (some (f (d.stream p n))) })

/-- R192: the lowest free weight-region slot. -/
def Dev.freeRegion (d : Dev) (p : Nat) : Option Nat :=
  (List.range 64).find? (fun r => let x := tget Region.init (d.part p).regions r; !x.valid && !x.busy)

def Dev.upRegion (d : Dev) (p r : Nat) (f : Region → Region) : Dev :=
  d.upPart p (fun x => { x with regions := tup Region.init x.regions r f })

/-- R192: a digesting COPY takes the lowest free slot at dispatch; with none free it completes with RESOURCE_BUSY. -/
def Dev.takeRegion (d : Dev) (f : Flight) : Dev × Flight :=
  if woOp f.wo = 0x02 && bit (woFlags f.wo) 4 then
    match d.freeRegion f.part with
    | some r => (d.upRegion f.part r (fun x => { x with busy := true }), { f with region := r })
    | none => (d, { f with status := some stBusy })
  else (d, f)

/-- R375: the block of twin_seq values of a work order is reserved at its dispatch. -/
def Dev.takeBlock (d : Dev) (f : Flight) : Dev × Flight :=
  let n := d.impliedPackets f.wo
  if n = 0 then (d, f)
  else
    let b := (d.stream f.part f.queue).next
    (d.upStream f.part f.queue (fun s => { s with next := (s.next + n) % 2 ^ 32 }), { f with twBase := b })

/-- R247: the instance of a collective at its dispatch. -/
def Inst.make (f : Flight) (k now : Nat) : Inst :=
  let w := f.wo
  { queue := f.queue, index := f.index, inst := k, op := woOp w - 0x10, sprue := colSprue w, max := bit (woFlags w) 5,
    fmt := woFmtA w, bytes := colBytes (woFmtA w) (woOpd w 14 4), src := woOpd w 2 6 % 2 ^ 44, dst := woOpd w 8 6 % 2 ^ 44,
    started := false, pos := 0, out := 0, fwd := [], sent := [], seen := [], hold := [], acked := [], txDig := [], rxDig := [],
    digIn := [], resDig := 0, badDig := false, verdict := false, spPos := 0, spVals := [], mine := none, final := none,
    finParts := [], endSt := none, stalled := false, at0 := now, twBase := 0 }

/-- R162, R265: the status a received NOTICE gives. -/
def noticeStatus (st : Nat) : Nat := if st = stFenced then stMemberFenced else st

/-- R247, R265: a collective takes the plan's next instance; a kept NOTICE ends it at once, no data moved. -/
def Dev.takeInst (d : Dev) (f : Flight) : Dev × Flight :=
  if !isCol f.wo then (d, f)
  else
    let n := woOpd f.wo 0 2
    match d.plan n with
    | none => (d, f)
    | some pl =>
      let d := d.upPlan n (fun pl => { pl with count := (pl.count + 1) % 2 ^ 32, lastOp := woOp f.wo - 0x10 })
      match pl.note with
      | some (k, st, _) =>
        if k = pl.count then (d.upPlan n (fun pl => { pl with note := none }), { f with status := some (noticeStatus st) })
        else (d.upPlan n (fun y => { y with inst := some (Inst.make f pl.count d.now) }), f)
      | none => (d.upPlan n (fun y => { y with inst := some (Inst.make f pl.count d.now) }), f)

/-- R148, R163: the engine takes the head of queue q: into flight, or completed without dispatch. -/
def doDispatch (d : Dev) (q : Nat) (e : Ecc) : Dev :=
  if d.chosen q then
    let x := d.anyQueue q
    let w := x.head.getD []
    let i := x.disp
    let p := if q = ctlQ then 0 else x.part
    let det := if w = [] then 0 else d.malformed w (q == ctlQ) p
    let short := w != [] && det == 0 && woOp w == 0x01 && d.groupFailed p (woOpd w 0 2)
    let f := Flight.make q i p (if w = [] then List.replicate 64 0 else w)
    let f := if w = [] then { f with status := some stUe, nojudge := true }
             else if det != 0 then { f with status := some stMould, detail := det, nojudge := true }
             else if short then { f with status := some stShort } else f
    let d := d.upAnyQueue q (fun x => { x with disp := (x.disp + 1) % 2 ^ 32, head := none })
    let (d, f) := if f.status.isNone && q != ctlQ then
        let (d, f) := d.takeRegion f
        let (d, f) := d.takeInst f
        d.takeBlock f
      else (d, f)
    let d := d.upQue (fun m => { m with
      flights := m.flights ++ [f],
      rr := if q = ctlQ then m.rr else tset 0 m.rr (engineOf q * 4 + x.prio) q })
    let d := if f.status.isNone && q != ctlQ then
        d.trace 0x01 p (engineOf q / 4) (q % 2 ^ 15 + woOp w * 2 ^ 15 + i % 2 ^ 25 * 2 ^ 23)
      else d
    d.readHead q e
  else d

/-! ### Work orders that need no other unit (R156) -/

/-- The work order (q, i) that its unit may take now: in flight, of this opcode, not yet taken, not ended. -/
def Dev.take (d : Dev) (q i op : Nat) : Option Flight :=
  match d.flight q i with
  | some f => if woOp f.wo = op && !f.started && f.status.isNone then some f else none
  | none => none

def Dev.startWork (d : Dev) (q i : Nat) : Dev := d.upFlight q i (fun f => { f with started := true })

def doNopWorkOrder (d : Dev) (q i : Nat) : Dev :=
  match d.take q i 0x00 with
  | some _ => (d.startWork q i).endWork q i stOk 0 0
  | none => d

def doWaitWorkOrder (d : Dev) (q i : Nat) : Dev :=
  match d.take q i 0x21 with
  | some _ => (d.startWork q i).endWork q i stOk 0 0
  | none => d

/-- R156, R288: raises the named source (0xFFFF: none); software raisings carry info zero. -/
def doSignal (d : Dev) (q i : Nat) : Dev :=
  match d.take q i 0x20 with
  | some f =>
    let n := woOpd f.wo 0 2
    ((if n = 0xFFFF then d else d.raise n 0).startWork q i).endWork q i stOk 0 0
  | none => d

/-- R83: a run's start values in one cell; words with a parity mark have done their work (R103). -/
def Slot.startRun (s : Slot) (w : Bytes) (cell rank : Nat) : Slot :=
  let s : Slot := { s with
    pc := woOpd w 2 2, ended := false, ranOff := false, stopped := false, recv := [],
    inBuf := tmap [] (fun _ l => l.map (fun x => { x with bad := false })) s.inBuf }
  (((((s.setX 1 (woOpd w 4 4)).setX 2 (woOpd w 8 4)).setX 3 (woOpd w 12 4)).setX 4 (woOpd w 16 4)).setX 5 cell).setX 6 rank

/-- R83, R103, R142: the run of a cell group starts when every cell is free. -/
def doRunPattern (d : Dev) (q i : Nat) : Dev :=
  match d.take q i 0x01 with
  | none => d
  | some f =>
    match d.groupOf f.part (woOpd f.wo 0 2) with
    | none => d
    | some g =>
      let cells := g.list
      if d.cat.runs.any (fun r => r.cells.any (fun n => cells.contains n)) || d.swapCovers cells then d
      else if cells.any (fun n => bit d.cat.swapBad n) then (d.startWork q i).endWork q i stMould 0 0
      else
        let bad := (cells.flatMap (fun n => match d.slotOf n with
          | some k => ((d.slot k).inBuf.filter (fun kv => kv.2.any (·.bad))).map (fun kv => (n, kv.1)) | none => [])).head?
        let r : Run := { queue := q, index := i, group := woOpd f.wo 0 2, part := f.part, cells := cells,
                         entry := woOpd f.wo 2 2, fault := none }
        let d := d.startWork q i
        let d := d.each cells.zipIdx (fun d (n, k) => d.upCell n (fun s => s.startRun f.wo n k))
        let d := d.upCat (fun c => { c with runs := c.runs ++ [r] })
        let d := d.trace 0x03 f.part (engineOf q / 4) (woOpd f.wo 0 2 % 2 ^ 10 + woOpd f.wo 2 2 % 2 ^ 12 * 2 ^ 10)
        match bad with
        | some (n, port) => d.faultParity r n port
        | none => d

/-! ### Completion -/

/-- R95, R162: the status of the record. -/
def Flight.final (f : Flight) : Nat :=
  let st := f.status.getD stOk
  let t := woTrip f.wo
  if st = stOk && t != 0xFFFFFFFF && (decide (t < f.sat) || decide (t < f.nan) || decide (t < f.inv)) then stSat else st

/-- R161: the completion record. -/
def Flight.record (f : Flight) (size : Nat) : Bytes :=
  leBytes 1 f.final ++ leBytes 1 (b2n (f.index / size % 2 == 0) + 2 * b2n (decide (0xFFFFFFFF < f.uj))) ++ leBytes 1 (woOp f.wo) ++ [0] ++
  leBytes 2 (woTag f.wo) ++ leBytes 2 f.detail ++ leBytes 1 f.out0 ++ leBytes 1 f.out1 ++ [0, 0] ++ leBytes 4 f.index ++
  leBytes 8 f.result ++ leBytes 4 (min f.uj 0xFFFFFFFF) ++ leBytes 4 (min (f.sat + f.nan + f.inv) 0xFFFFFFFF)

/-- R155: whether the work order's increments are issued. -/
def Flight.issues (f : Flight) : Bool :=
  !f.nojudge && (f.final == stOk || f.final == stSat || bit (woFlags f.wo) 2)

/-- R164, R34, R158: one local increment entry of a work order and its outcome. -/
def Dev.localIncr (d : Dev) (p e : Nat) : Dev × Nat :=
  let n := entryCounter e
  if sigAmount e = 0 || !d.counterOf p n then (d, stNotIssued)
  else if (d.part p).ready then (d.incrCounter n (sigAmount e), stOk)
  else (d.refuseIncr, stFenced)

/-- R145: the retired count passes every work order whose record is written. `fuel`: the records written ahead. -/
def advanceRet (q : Nat) : Nat → Nat → List (Nat × Nat) → Nat × List (Nat × Nat)
  | 0, r, l => (r, l)
  | n + 1, r, l => if l.contains (q, r) then advanceRet q n ((r + 1) % 2 ^ 32) (l.erase (q, r)) else (r, l)

/-- R155, R161: the record of a flight whose outcomes are all in is written, its event raised, the work order retired. -/
def Dev.writeRecord (d : Dev) (f : Flight) : Dev :=
  let x := d.anyQueue f.queue
  let rec_ := f.record x.size
  let d := if f.queue = ctlQ then d.upQue (fun m => { m with ctlCompl := tset 0 m.ctlCompl (f.index % 16) (ofLe rec_) })
           else (d.vaWrite x.part (x.compl + 32 * (f.index % x.size)) 2 2 true rec_).1
  let d := if f.final = stSat then d.upPart f.part (fun p => { p with trips := satAdd 16 p.trips 1 }) else d
  let d := d.upQue (fun m => { m with
    flights := m.flights.filter (fun y => !(y.queue == f.queue && y.index == f.index)),
    doneAhead := (f.queue, f.index) :: m.doneAhead })
  let (r, l) := advanceRet f.queue (d.que.doneAhead.length) x.ret d.que.doneAhead
  let d := (d.upAnyQueue f.queue (fun x => { x with ret := r })).upQue (fun m => { m with doneAhead := l })
  let d := if f.queue = ctlQ then d else
    d.trace 0x02 f.part (engineOf f.queue / 4) (f.queue % 2 ^ 15 + f.final * 2 ^ 15 + f.index % 2 ^ 25 * 2 ^ 23)
  if f.queue = ctlQ then
    d.raiseAny 0xD401
  else if bit (woFlags f.wo) 1 then d.raise f.queue (f.index % 2 ^ 32 + f.final % 2 ^ 8 * 2 ^ 32)
  else d

/-- R158: cancels one undispatched work order: the engine's one read of it, then a flight that has ended. -/
def Dev.cancelOne (d : Dev) (q : Nat) : Dev :=
  let x := d.queue q
  let (d, w) := match x.head with | some w => (d, w) | none => d.readWo q x.disp { ce := [], ue := [] }
  let f := Flight.make q x.disp x.part (if w = [] then List.replicate 64 0 else w)
  let d := d.upQueue q (fun x => { x with disp := (x.disp + 1) % 2 ^ 32, head := none })
  d.upQue (fun m => { m with flights := m.flights ++ [{ f with status := some stCancelled }] })

def Dev.cancelN (q : Nat) : Nat → Dev → Dev
  | 0, d => d
  | n + 1, d => Dev.cancelN q n (d.cancelOne q)

/-- R158: every work order of queue q not yet dispatched is cancelled in one event. -/
def Dev.cancelAll (d : Dev) (q : Nat) : Dev :=
  let x := d.queue q
  Dev.cancelN q ((x.prod + 2 ^ 32 - x.disp) % 2 ^ 32) d

/-- R169: QUE_CANCEL with bit 31 clear. -/
def doQueueCancel (d : Dev) (r : Requester) (q : Nat) : Dev :=
  if !hostOnly r then d.accessErr
  else if (d.queue q).state = 1 || (d.queue q).state = 2 then d.cancelAll q else d

/-- R169: QUE_CANCEL with bit 31 set. -/
def doQueueDisable (d : Dev) (r : Requester) (q : Nat) : Dev :=
  if !hostOnly r then d.accessErr
  else if (d.queue q).state = 1 || (d.queue q).state = 2 then (d.cancelAll q).upQueue q (fun x => { x with state := 2 }) else d

/-! ### Sync counters (R164) -/

/-- R164: an increment applied to a bound counter of a partition in service. -/
def doSyncIncrementApply (d : Dev) (n amount : Nat) : Dev :=
  if (d.counter n).bound && (d.part (d.counter n).part).ready && amount != 0 then d.incrCounter n amount else d.refuseIncr

/-- R40, R164: the bound host's 64-bit write to counter n's increment address; a zero amount is counted as refused, an unbound
counter is refused as an unbound doorbell is. -/
def doSyncCounterDoorbell (d : Dev) (n amount : Nat) : Dev :=
  if !(d.counter n).bound then (d.refuseIncr).refuse (0xF1002000000 + 8 * n)
  else if !(d.part (d.counter n).part).ready || amount = 0 then d.refuseIncr
  else d.incrCounter n amount

end Sys2Proof.Machine
end

