-- ==== Sys2Proof/Machine/NearMem.lean ====
section
/-! DEFINITION. The memory base dies: refresh, scrub, plain accesses (R171–R183), ordered accumulation (R184–R187), transcoding
(R188, R189), gather and scatter (R190), digests (R191, R192), zeroisation. -/

namespace Sys2Proof.Machine

/-! ### Temperature and scrub -/

/-- R172: 85 °C in units of 0.25 °C. -/
def hotRefresh (t : Int) : Bool := decide (340 ≤ t)

/-- R182: 32-byte units per stack. -/
def scrubUnits : Nat := 3221225472

/-- R182: the scrubber reads the next unit of an active stack. -/
def doScrubRead (d : Dev) (s : Nat) (e : Ecc) : Dev :=
  if d.mem.scrubOn && (d.stack s).state == 1 then
    let n := (d.stack s).scrubAt
    let (d, _) := d.memRead 0 (s * stackSize + 32 * n) 32 e
    d.upStack s (fun t =>
      if n + 1 = scrubUnits then { t with scrubAt := 0, passes := (t.passes + 1) % 2 ^ 16 } else { t with scrubAt := n + 1 })
  else d

/-! ### Plain accesses -/

/-- R196: the reader field's code. -/
def readerCode : Reader → Nat
  | .scrub => 0 | .cellDma => 1 | .queueEngine => 2 | .ladle => 3 | .nmu => 4 | .peer => 5 | .host => 6

/-- R177: the permission bits a reader needs. -/
def readNeed : Reader → Nat
  | .peer => 4 | .host => 0x40 | .nmu => 0x21 | _ => 1

def writeNeed : Reader → Nat
  | .peer => 8 | .host => 0x80 | .nmu => 0x22 | _ => 2

/-- R42, R177: requesters of the owning partition, which alone reach its carrels. -/
def readerOwn : Reader → Bool
  | .peer => false | .host => false | _ => true

/-- R183: READ of at most 2 KiB of partition `p`'s memory. -/
def doNmuRead (d : Dev) (p : Nat) (r : Reader) (va n : Nat) (e : Ecc) : Dev :=
  if !(d.part p).ready then d.emit .memFail
  else
    match d.vaRead p va n (readNeed r) (readerCode r) (readerOwn r) e with
    | (d, .ok bs) => d.emit (.memData bs)
    | (d, _) => d.emit .memFail

/-- R183: WRITE of at most 2 KiB of partition `p`'s memory. -/
def doNmuWrite (d : Dev) (p : Nat) (r : Reader) (va : Nat) (bs : Bytes) : Dev :=
  if !(d.part p).ready then d.emit .memFail
  else
    match d.vaWrite p va (writeNeed r) (readerCode r) (readerOwn r) bs with
    | (d, .ok _) => d
    | (d, _) => d.emit .memFail

/-- Zeros over a physical range: bytes cleared, failed units written whole (R107, R181). -/
def Dev.zeroRange (d : Dev) (pa n : Nat) : Dev :=
  d.upMem (fun m => { m with
    bytes := tclear m.bytes pa (pa + n),
    ueUnits := m.ueUnits.filter (fun u => !(decide (pa ≤ u) && decide (u < pa + n))),
    ueLog := tmap UeEnt.init (fun _ x => if decide (pa ≤ x.addr) && decide (x.addr < pa + n) && m.ueUnits.contains x.addr
      then { x with cleared := true } else x) m.ueLog })

def Dev.zeroStack (d : Dev) (s : Nat) : Dev := d.zeroRange (s * stackSize) stackSize

/-- A shelf page 0–511. -/
def Dev.zeroShelf (d : Dev) (g : Nat) : Dev := d.zeroRange (shelfBase + g * 0x200000) 0x200000

/-- R183: ZERO, issued by the loader or a reset: of a stack, or of a shelf page, that no partition in service holds. -/
def doZero (d : Dev) (page : Bool) (n : Nat) : Dev :=
  if page then
    if parts16.any (fun p => (d.part p).ready && (d.part p).pages.any (fun kv =>
        match kv.2 with | some g => decide (shelfBase / 0x200000 ≤ kv.1) && g.ppage == shelfBase / 0x200000 + n | none => false)) then d
    else d.zeroShelf n
  else
    match d.stackPart n with
    | some p => if (d.part p).ready then d else d.zeroStack n
    | none => d.zeroStack n

/-! ### Ordered accumulate-on-write (R184–R187) -/

def overlaps (a n b m : Nat) : Bool := decide (a < b + m) && decide (b < a + n)

/-- R184, R187: a sequence may open: fewer than 4,096 are open on its die and none overlaps it. -/
def Mem.canOpen (m : Mem) (a : AccSeq) : Bool :=
  decide ((m.accs.filter (fun x => x.stack == a.stack)).length < 4096) &&
  !m.accs.any (fun x => overlaps x.addr x.length a.addr a.length)

/-- R187: opens, oldest first, every waiting sequence that may now open (one that overlaps an earlier waiting one stays behind it). -/
def Mem.openWaiting (m : Mem) : Mem :=
  m.waiting.foldl (fun m a =>
    if m.canOpen a && !m.waiting.any (fun x => overlaps x.addr x.length a.addr a.length) then { m with accs := m.accs ++ [a] }
    else { m with waiting := m.waiting ++ [a] }) { m with waiting := [] }

/-- R184: ACC_OPEN. -/
def doAccOpen (d : Dev) (a : AccSeq) : Dev :=
  d.upMem (fun m => ({ m with waiting := m.waiting ++ [a] } : Mem).openWaiting)

/-- R196: staging of a die in use, bytes. -/
def Mem.staged (m : Mem) (s : Nat) : Nat :=
  (m.accs.filter (fun x => x.stack == s)).foldl (fun n x => n + x.held.foldl (fun k kv => k + (kv.2.getD []).length) 0) 0

/-- R184: one contribution added to the destination, element by element; position 0 is written. -/
def accMerge (fmt pos : Nat) (dst src : Bytes) : Bytes × Nat :=
  if pos = 0 then (src, 0)
  else if fmt = 0x32 then
    let l := ((chunksOf 4 (src.length / 4) dst).zip (chunksOf 4 (src.length / 4) src)).map (fun (a, b) => f32Add (ofLe a) (ofLe b))
    (l.flatMap (fun r => leBytes 4 r.1), (l.filter (·.2)).length)
  else
    let l := ((chunksOf 2 (src.length / 2) dst).zip (chunksOf 2 (src.length / 2) src)).map (fun (a, b) =>
      let (t, o) := f32Add (ofLe a * 2 ^ 16) (ofLe b * 2 ^ 16)
      let (c, p) := f32To 8 7 t
      (c, o || p))
    (l.flatMap (fun r => leBytes 2 r.1), (l.filter (·.2)).length)

/-- What a contribution came to (R185, R186). -/
inductive AccRes where
  | applied | held | dup | crcBad | full | ue | noSeq
deriving DecidableEq, Repr

/-- Adds ledger counts of a collective's arithmetic to the destination's partition and to the plan's work order there (R184). -/
def Dev.colLedger (d : Dev) (p plan : Nat) (l : Led) : Dev :=
  match d.plan plan with
  | some pl =>
    match pl.inst with
    | some x => d.ledger p x.queue x.index l
    | none => d.upPart p (fun y => y.ledger l)
  | none => d.upPart p (fun y => y.ledger l)

/-- R184, R185: applies the contribution at the next expected position, then every held one that follows. `fuel`: N. -/
def Dev.accRun (e : Ecc) : Nat → Dev → AccSeq → Bytes → Dev × AccSeq × Bool
  | 0, d, a, _ => (d, a, true)
  | fuel + 1, d, a, data =>
    let (d, old) := if a.next = 0 then (d, some []) else d.memRead 3 a.addr a.length e
    match old with
    | none => (d, a, false)
    | some old =>
      let (bs, n) := accMerge a.fmt a.next old data
      let (d, ok) := d.memPut 3 a.addr bs
      if !ok then (d, a, false)
      else
        let d := d.colLedger a.part a.plan ⟨n, 0, 0⟩
        let a := { a with next := a.next + 1 }
        match tget none a.held a.next with
        | some b => Dev.accRun e fuel d { a with held := tset none a.held a.next none } b
        | none => (d, a, true)

/-- R187: the sequence is closed: plain writes held for its range are applied, waiting sequences open. -/
def Dev.accClose (d : Dev) (a : AccSeq) : Dev :=
  let d := d.upMem (fun m => { m with accs := m.accs.filter (fun x => !(x.stack == a.stack && x.tag == a.tag)) })
  let mine := d.mem.heldWr.filter (fun h => overlaps h.addr h.data.length a.addr a.length && !d.accHolds h.addr h.data.length)
  let d := d.upMem (fun m => { m with heldWr := m.heldWr.filter (fun h => !mine.contains h) })
  let d := d.each mine (fun d h => (d.memPut 3 h.addr h.data).1)
  d.upMem Mem.openWaiting

/-- R187: closes a sequence unfinished: staging released, held contributions absorbed, destination undefined. -/
def Dev.accAbort (d : Dev) (a : AccSeq) : Dev :=
  let d := d.upLdl (fun l => { l with absorbed := satAdd 64 l.absorbed a.held.length })
  let d := if a.next = 0 then d else d.undefMem [(a.addr, a.length)]
  d.accClose a

def Dev.accSeq (d : Dev) (s tag : Nat) : Option AccSeq := d.mem.accs.find? (fun a => a.stack == s && a.tag == tag)

/-- R185, R186: one contribution. -/
def Dev.accOne (d : Dev) (s tag pos : Nat) (data : Bytes) (crc : Nat) (e : Ecc) : Dev × AccRes :=
  match d.accSeq s tag with
  | none => (d, .noSeq)
  | some a =>
    let dup := fun (d : Dev) => d.upMem (fun m => { m with accDup := satAdd 64 m.accDup 1 })
    if crc32c data != crc then (d, .crcBad)
    else if a.n ≤ pos || pos < a.next || (tget none a.held pos).isSome then (dup d, .dup)
    else if pos = a.next then
      match Dev.accRun e a.n d a data with
      | (d, a, false) => (d.accAbort a, .ue)
      | (d, a, true) =>
        if a.next = a.n then (d.accClose a, .applied)
        else (d.upMem (fun m => { m with accs := updWhere (fun x => x.stack == s && x.tag == tag) (fun _ => a) m.accs }), .applied)
    else if 8388608 < d.mem.staged s + data.length then (d, .full)
    else
      (d.upMem (fun m => { m with
        accs := updWhere (fun x => x.stack == s && x.tag == tag) (fun x => { x with held := tset none x.held pos (some data) }) m.accs }),
       .held)

/-- R187: ACC_ABORT. -/
def doAccAbort (d : Dev) (s tag : Nat) : Dev :=
  match d.accSeq s tag with
  | some a => d.accAbort a
  | none => d.upMem (fun m => { m with waiting := m.waiting.filter (fun a => !(a.stack == s && a.tag == tag)) })

/-- R187: a fence or reset closes every sequence of a partition. -/
def Dev.accAbortPart (d : Dev) (p : Nat) : Dev :=
  let d := d.upMem (fun m => { m with waiting := m.waiting.filter (fun a => a.part != p) })
  d.each (d.mem.accs.filter (fun a => a.part == p)) (fun d a => d.accAbort a)

/-! ### Transcoder (R188, R189) -/

/-- R71: an element converted to BF16, saturating. -/
def elToBf16 (x : El) : Nat × Led :=
  match x.v with
  | .nan => (0x7FC0, Led.zero)
  | .inf neg => ((if neg then 0x8000 else 0) + 0x7F80, Led.zero)
  | .fin neg m e =>
    if m = 0 then (if neg then 0x8000 else 0, Led.zero)
    else
      match ieeeRound 8 7 neg m e false with
      | (_, true) => ((if neg then 0x8000 else 0) + 0x7F7F, ⟨1, 0, 0⟩)
      | (c, false) => (c, Led.zero)

/-- R189: bytes of a tensor of n elements. -/
def tensorBytes (f n : Nat) : Nat :=
  if fmtIfeb f then n / 256 * groupBytes f
  else if fmtMx f then ceilDiv (n * fmtBits f / 8) 16 * 16 + n / 32
  else n * fmtBits f / 8

/-- R188: converts n elements (a multiple of 256). -/
def transcode (fa fb n : Nat) (src : Bytes) : Bytes × Led :=
  if fmtIfeb fa then
    let rs : List (Bytes × Led) := (chunksOf (groupBytes fa) (n / 256) src).map fun b =>
      let d := dec256 fa false b
      let ws : List (Nat × Led) := d.1.map elToBf16
      (ws.flatMap (fun w : Nat × Led => leBytes 2 w.1),
        Led.add d.2 (Led.sum (ws.map (fun w : Nat × Led => w.2))))
    (rs.flatMap (·.1), Led.sum (rs.map (·.2)))
  else if fmtIfeb fb then
    let rs := (chunksOf 512 (n / 256) src).map (fun b =>
      let (bs, _, l) := quantise fb 0 ((chunksOf 2 256 b).map (fun c => ieeeVal 8 7 (ofLe c))) none
      (bs, l))
    (rs.flatMap (·.1), Led.sum (rs.map (·.2)))
  else
    let eb := n * fmtBits fa / 8
    let (es, l1) := decMx fa (slice src 0 eb) (slice src (ceilDiv eb 16 * 16) (n / 32))
    let (bs, sc, l2) := quantise fb 0 (es.map (·.v)) none
    (bs ++ List.replicate ((16 - bs.length % 16) % 16) 0 ++ sc, Led.add l1 l2)

/-- R351: a near-memory unit of the partition's stacks is marked failed. -/
def Dev.nmuBad (d : Dev) (p : Nat) : Bool := (bitsOf 16 (d.part p).stackSet.toNat).any (fun s => bit d.cat.nmuFail.toNat s)

/-- R188: XCODE for work order (q, i) of partition p: read and near-memory bits on the source, write and near-memory bits on
the destination (R177). -/
def Dev.xcode (d : Dev) (p q i src dst n fa fb : Nat) (e : Ecc) : Dev × Acc :=
  match (d.part p).pieces 0x22 true (pieceFuel (tensorBytes fb n)) dst (tensorBytes fb n) with
  | .error a => (d.denyPage a, .denied)
  | .ok _ =>
    match d.vaRead p src (tensorBytes fa n) 0x21 4 true e with
    | (d, .ok bs) =>
      let (out, l) := transcode fa fb n bs
      (d.ledger p q i l).vaWrite p dst 0x22 4 true out
    | r => r

def doXcode (d : Dev) (q i src dst n fa fb : Nat) (e : Ecc) : Dev :=
  match d.flight q i with
  | some f => if xcodeOk fa fb && n % 256 == 0 && f.status.isNone then (d.xcode f.part q i src dst n fa fb e).1 else d
  | none => d

/-- R157, R188: COPY with two formats; the result counts the bytes written. -/
def doCopyConvert (d : Dev) (q i : Nat) (e : Ecc) : Dev :=
  match d.take q i 0x02 with
  | none => d
  | some f =>
    let fa := woFmtA f.wo
    let fb := woFmtB f.wo
    if fa = 0 then d
    else
      let n := woOpd f.wo 16 4
      let d := d.startWork q i
      if d.nmuBad f.part then d.endWork q i stShort 0 0
      else match d.xcode f.part q i (woOpd f.wo 0 8 % 2 ^ 44) (woOpd f.wo 8 8 % 2 ^ 44) n fa fb e with
      | (d, .ok _) => d.endWork q i stOk 0 (tensorBytes fb n)
      | (d, x) => d.endWork q i x.status 0 0

/-! ### Gather and scatter (R190) -/

/-- R183, R190: one row; the row's place in the table is `t`, its place at the destination `x`. -/
def Dev.grow (d : Dev) (p t x n : Nat) (scatter : Bool) (e : Ecc) : Dev × Acc :=
  let a := if scatter then x else t
  let b := if scatter then t else x
  match (d.part p).pieces 0x22 true (pieceFuel n) b n with
  | .error v => (d.denyPage v, .denied)
  | .ok _ =>
    match d.vaRead p a n 0x21 4 true e with
    | (d, .ok bs) => d.vaWrite p b 0x22 4 true bs
    | r => r

def doGrow (d : Dev) (p table index row dst : Nat) (scatter : Bool) (e : Ecc) : Dev :=
  (d.grow p (table + index * row) dst row scatter e).1

/-- R190: rows in list order up to the first that fails; the answer is the rows moved and the failing access. -/
def Dev.growList (p table row dst : Nat) (scatter : Bool) (e : Ecc) : List Nat → Nat → Dev → Dev × Nat × Acc
  | [], k, d => (d, k, .ok [])
  | ix :: l, k, d =>
    match d.grow p (table + ix * row) (dst + k * row) row scatter e with
    | (d, .ok _) => Dev.growList p table row dst scatter e l (k + 1) d
    | (d, x) => (d, k, x)

/-- R156, R190: GATHER, or SCATTER when flag bit 4 is set. -/
def Dev.gather (d : Dev) (q i : Nat) (scatter : Bool) (e : Ecc) : Dev :=
  match d.take q i 0x03 with
  | none => d
  | some f =>
    if bit (woFlags f.wo) 4 != scatter then d
    else
      let w := if bit (woFlags f.wo) 5 then 8 else 4
      let n := woOpd f.wo 18 2
      let row := (woFmtA f.wo + 256 * woFmtB f.wo) * 16
      let d := d.startWork q i
      if d.nmuBad f.part then d.endWork q i stShort 0 0
      else match d.vaRead f.part (woOpd f.wo 6 6 % 2 ^ 44) (w * n) 0x21 4 true e with
      | (d, .ok bs) =>
        let (d, k, x) := Dev.growList f.part (woOpd f.wo 0 6 % 2 ^ 44) row (woOpd f.wo 12 6 % 2 ^ 44) scatter e
          ((chunksOf w n bs).map ofLe) 0 d
        d.endWork q i x.status 0 (k * row)
      | (d, x) => d.endWork q i x.status 0 0

def doGather (d : Dev) (q i : Nat) (e : Ecc) : Dev := d.gather q i false e
def doScatter (d : Dev) (q i : Nat) (e : Ecc) : Dev := d.gather q i true e

/-! ### Digests (R191, R192) -/

/-- R191: the digest of a range's bytes. -/
def rangeDigest (bs : Bytes) : Nat :=
  sha256 (leBytes 8 bs.length ++ (chunksOf 2048 (ceilDiv bs.length 2048) bs).flatMap sha256Bytes)

/-- R183, R191: digests a range into slot r; the slot is freed when the range cannot be read. -/
def Dev.digestInto (d : Dev) (p r va n : Nat) (e : Ecc) : Dev × Acc :=
  match d.vaRead p va n 0x21 4 true e with
  | (d, .ok bs) =>
    (d.upRegion p r (fun _ => { digest := rangeDigest bs, addr := va, length := n, valid := true, stale := false, busy := false }), .ok [])
  | (d, x) => (d.upRegion p r (fun _ => Region.init), x)

def doDigest (d : Dev) (p r va n : Nat) (e : Ecc) : Dev := (d.digestInto p r va n e).1

/-- R192, R196: MEM_REGION_CLEAR, bound host only. -/
def doRegionClear (d : Dev) (r : Requester) (p : Nat) : Dev :=
  if hostOnly r then d.upPart p (fun x => { x with regions := [] }) else d.accessErr

end Sys2Proof.Machine
end

