-- ==== Sys2Proof/Machine/Fabric.lean ====
section
/-! DEFINITION. What every user of the fabric shares: packets and their bytes (R218–R220), injection (R226), congestion echoes
(R232), twin numbering and ranges (R374–R380), the fence (R363), the outcomes of requests and increments (R166, R233, R365). -/

namespace Sys2Proof.Machine

/-! ### Packets -/

/-- R220: the lowest VC of a packet kind (0 CTL, 1 REQ, 3 RSP, 5 COL, 7 RUN); none for reserved kinds. -/
def kindVc (k : Nat) : Option Nat :=
  if k = 0x01 || k = 0x02 || k = 0x03 then some 1
  else if k = 0x08 then some 3
  else if 0x09 ≤ k && k ≤ 0x0C then some 0
  else if 0x10 ≤ k && k ≤ 0x14 then some 5
  else if k = 0x18 then some 7
  else if 0x19 ≤ k && k ≤ 0x1D then some 0
  else none

/-- R220, R235, R236: whether a packet of kind `k` may be on VC `vc`; runner packets also travel as REQ. -/
def kindOnVc (k vc : Nat) : Bool :=
  match kindVc k with
  | none => false
  | some 0 => vc == 0
  | some 7 => vc == 7 || vc == 1 || vc == 2
  | some b => vc == b || vc == b + 1

/-- R219: the 32 header bytes. -/
def pktHeader (p : Packet) : Bytes :=
  leBytes 4 (p.dst % 2 ^ 20 + p.dstPart % 16 * 2 ^ 20 + p.kind % 32 * 2 ^ 24) ++
  leBytes 4 (p.src % 2 ^ 20 + p.srcPart % 16 * 2 ^ 20 + b2n p.cong * 2 ^ 24 + b2n p.echo * 2 ^ 25 + b2n p.twin * 2 ^ 26) ++
  leBytes 4 p.seq ++ leBytes 4 (p.length % 2 ^ 13 + p.age % 2 ^ 16 * 2 ^ 16) ++ leBytes 8 (p.addr % 2 ^ 44) ++
  leBytes 4 p.arg0 ++ leBytes 4 p.arg1

/-- R218, R374: a packet's bytes. -/
def pktBytes (p : Packet) : Bytes := pktHeader p ++ p.payload ++ (if p.twin then p.trailer else [])

/-- R218, R374: the bytes a packet takes in flits, from its header bytes. -/
def packetSize (h : Bytes) : Nat := 32 + le h 12 2 % 2 ^ 13 + (if bit (le h 4 4) 26 then 16 else 0)

/-- R219: the packet that starts at byte 0. -/
def parsePacket (bs : Bytes) : Packet :=
  let w0 := le bs 0 4
  let w1 := le bs 4 4
  let n := le bs 12 2 % 2 ^ 13
  { dst := w0 % 2 ^ 20, dstPart := fld w0 23 20, kind := fld w0 28 24, src := w1 % 2 ^ 20, srcPart := fld w1 23 20,
    cong := bit w1 24, echo := bit w1 25, twin := bit w1 26, seq := le bs 8 4, length := n, age := le bs 14 2,
    addr := le bs 16 8 % 2 ^ 44, arg0 := le bs 24 4, arg1 := le bs 28 4, payload := slice bs 32 n,
    trailer := if bit w1 26 then slice bs (32 + n) 16 else [] }

/-- R218: the flits of a packet. -/
def pktFlits (p : Packet) : List Bytes :=
  let bs := pktBytes p
  (chunksOf 256 (bs.length / 256 + 1) bs).map (fun c => c ++ List.replicate (256 - c.length) 0)

/-- A packet of this device. -/
def Dev.packet (d : Dev) (kind dst dstPart srcPart seq addr arg0 arg1 : Nat) (payload : Bytes) : Packet :=
  { dst := dst, dstPart := dstPart, kind := kind, src := d.rte.devId, srcPart := srcPart, cong := false, echo := false,
    twin := false, seq := seq, length := payload.length, age := 0, addr := addr, arg0 := arg0, arg1 := arg1, payload := payload,
    trailer := [] }

/-- R226: a packet of this device waits to enter its routers. -/
def Dev.inject (d : Dev) (p : Packet) : Dev := (d.upRte (fun r => { r with heldInj := r.heldInj ++ [p] })).emit (.inject p)

/-- A unit takes a delivered packet. -/
def Dev.takePkt (d : Dev) (p : Packet) : Dev := d.upRte (fun r => { r with inbox := dropFirst (· == p) r.inbox })

/-- R225: whether device `dev` has been declared lost. -/
def Dev.isLost (d : Dev) (dev : Nat) : Bool := d.rte.lost.contains dev

/-! ### Congestion echoes (R232) -/

/-- R232: an echo from device `dev`. -/
def Dev.echoFrom (d : Dev) (dev : Nat) : Dev :=
  let d := d.upRte (fun r => { r with echoes := satAdd 16 r.echoes 1 })
  let cut := fun (l : Nat) => max 1000 (l - l / 8)
  match tget none d.rte.rates dev with
  | some x =>
    d.upRte (fun r => { r with rates := tset none r.rates dev (some
      { limit := if x.cutAt + 1000 ≤ d.now then cut x.limit else x.limit,
        cutAt := if x.cutAt + 1000 ≤ d.now then d.now else x.cutAt, echoAt := d.now }) })
  | none =>
    let full := d.rte.rates.length == 4096
    let top := d.rte.rates.foldl (fun (b : Nat × Nat) kv =>
      let l := (kv.2.map (·.limit)).getD 0
      if b.2 < l then (kv.1, l) else b) (0, 0)
    d.upRte (fun r => { r with
      rates := tset none (if full then tset none r.rates top.1 none else r.rates) dev
        (some { limit := cut 200000, cutAt := d.now, echoAt := d.now }) })

/-- R232: a marked or echoing response. -/
def Dev.noteEcho (d : Dev) (p : Packet) : Dev := if p.cong || p.echo then d.echoFrom p.src else d

/-- R232: the answer to a request: its echo bit is the request's congestion mark. -/
def Dev.answer (d : Dev) (q : Packet) (kind arg0 arg1 : Nat) (payload : Bytes) : Dev :=
  d.inject { d.packet kind q.src q.srcPart q.dstPart q.seq 0 arg0 arg1 payload with echo := q.cong }

/-! ### Twin operation: partner, fence (R363, R377, R380) -/

/-- R373: the partner, at a XOR 1. -/
def Dev.partnerId (d : Dev) : Nat := Nat.xor d.rte.devId 1

/-- R377: a TWIN packet to the partner. -/
def Dev.sendTwin (d : Dev) (p sub : Nat) (payload : Bytes) : Dev :=
  d.inject (d.packet 0x1C d.partnerId p p 0 0 sub 0 payload)

/-- The cell or queue of a recovery's info field, bits 27:8. -/
def causeInfo (cause unit : Nat) : Nat := cause % 256 + unit % 2 ^ 20 * 256

/-- R363, R369 step 1, R372, R380: fences a partition in service; a recovery already under way absorbs the request. -/
def Dev.fence (d : Dev) (p cause cell queue : Nat) : Dev :=
  let x := d.part p
  if x.state = 2 then
    let unit := if cell != 0xFFFFFFFF then cell else queue
    let d := d.upPart p (fun x => { x with
      state := 3, fencedAt := d.now, rcCell := cell, rcQueue := queue, unpour := cause == 6,
      rcStep := if cause = 6 then x.rcStep else 2,
      rcCause := if cause = 6 then x.rcCause else cause,
      rcCount := if cause = 6 then x.rcCount else satAdd 16 x.rcCount 1 })
    let d := d.raise (0xD080 + p) (causeInfo cause unit)
    if x.twin = 1 && cause != 5 then d.sendTwin p 4 [BitVec.ofNat 8 cause] else d
  else d

/-! ### Twin operation: numbering and ranges (R374–R379) -/

/-- R374: the destination matches an entry of the twin peer table. -/
def Dev.twinPeer (d : Dev) (dst part : Nat) : Bool :=
  d.rst.twPeer.any (fun kv => kv.2.2.2 && kv.2.1 / 2 == dst / 2 && bit kv.2.2.1 part)

/-- R374: a partition whose own packets carry trailers: paired, or a solo survivor (R380). -/
def Dev.twinned (d : Dev) (p : Nat) : Bool := (d.part p).twin == 1 || (d.part p).twin == 2

/-- R374: the trailer. -/
def Dev.trailer (d : Dev) (p stream tseq : Nat) : Bytes :=
  let id := d.rte.devId
  leBytes 2 stream ++ leBytes 2 (id % 2) ++ leBytes 4 tseq ++ leBytes 4 (if d.twinned p then id / 2 * 2 else id) ++ leBytes 4 0

/-- R374: the copies of one packet: twin-addressed when its partition is paired or its destination matches the table; a matching
destination's partner gets a copy too. -/
def Dev.copies (d : Dev) (stream tseq : Nat) (k : Packet) : List Packet :=
  let m := d.twinPeer k.dst k.dstPart
  if d.twinned k.srcPart || m then
    let k := { k with twin := true, trailer := d.trailer k.srcPart stream tseq }
    if m then [k, { k with dst := Nat.xor k.dst 1 }] else [k]
  else [k]

/-- R377: a packet's digest term. -/
def twinTerm (tseq : Nat) (k : Packet) : Nat :=
  let h := pktHeader { k with age := 0 }
  mix64 (Nat.xor (mix64 tseq) (crc32c (h.take 4 ++ h.drop 12 ++ k.payload ++ k.trailer)))

/-- R379: each twin of a pairing whose ranges differ recovers every partition of it, sends DIVERGED and raises 0xD120 + p. -/
def Dev.diverge (d : Dev) (r : Range) : Dev :=
  let d := d.sendTwin r.part 5 (leBytes 2 r.stream ++ leBytes 2 0 ++ leBytes 4 r.first ++ leBytes 4 r.last ++ leBytes 4 0 ++
    leBytes 8 r.digest)
  d.each (parts16.filter (fun p => (d.part p).twin == 1)) (fun d p =>
    ((d.fence p 5 0xFFFFFFFF 0xFFFFFFFF).upPart p (fun x => { x with twin := 3, twHeld := false })).raise (0xD120 + p) d.partnerId)

/-- R380: the partner is silent: every paired partition goes on alone; its unmatched ranges are dropped. -/
def Dev.goSolo (d : Dev) : Dev :=
  let ps := parts16.filter (fun p => (d.part p).twin == 1)
  let d := d.upTwin (fun t => { t with
    own := t.own.filter (fun r => !ps.contains r.part), theirs := t.theirs.filter (fun r => !ps.contains r.part) })
  d.each ps (fun d p => (d.upPart p (fun x => { x with twin := 2, twHeld := false })).raise (0xD110 + p) d.partnerId)

/-- R378: whether the partition's output is withheld: it holds 4,096 own ranges unmatched. -/
def Dev.reheld (d : Dev) (p : Nat) : Dev :=
  d.upPart p (fun x => { x with twHeld := decide (4096 ≤ (d.twin.own.filter (fun r => r.part == p)).length) })

/-- R378, R379: compares one range of this device with the partner's, when both are present. -/
def Dev.compareRange (d : Dev) (a b : Range) : Dev :=
  let d := d.upTwin (fun t => { t with own := t.own.filter (· != a), theirs := t.theirs.filter (· != b) })
  let d := (d.upPart a.part (fun x => { x with twRanges := (x.twRanges + 1) % 2 ^ 16 })).reheld a.part
  if a.digest = b.digest then d else d.diverge a

def sameRange (a b : Range) : Bool := a.stream == b.stream && a.part == b.part && a.first == b.first && a.last == b.last

/-- R377: closes the open range of a stream; `st` is the status when its work order or instance ends. -/
def Dev.closeRange (d : Dev) (p n : Nat) (st : Option Nat) : Dev :=
  let s := d.stream p n
  if s.count = 0 || (d.part p).twin != 1 then d
  else
    let dig := match st with | some x => Nat.xor s.digest (mix64 x) | none => s.digest
    let r : Range := { part := p, stream := n, first := s.first, last := s.last, digest := dig }
    let d := d.upStream p n (fun s => { s with count := 0, bytes := 0, digest := 0 })
    let d := d.upTwin (fun t => { t with own := t.own ++ [r] })
    let d := (d.sendTwin p 2 (leBytes 2 n ++ leBytes 2 0 ++ leBytes 4 r.first ++ leBytes 4 r.last ++ leBytes 4 0 ++ leBytes 8 dig)).reheld p
    match d.twin.theirs.find? (sameRange r) with
    | some b => d.compareRange r b
    | none => d

/-- R377: a packet of a paired partition enters its stream's open range. -/
def Dev.noteTwin (d : Dev) (stream tseq : Nat) (k : Packet) : Dev :=
  if (d.part k.srcPart).twin = 1 then
    let d := d.upStream k.srcPart stream (fun s => { s with
      first := if s.count = 0 then tseq else s.first, last := tseq, count := s.count + 1, bytes := s.bytes + k.length,
      digest := Nat.xor s.digest (twinTerm tseq k) })
    if (d.part k.srcPart).twBytes ≤ (d.stream k.srcPart stream).bytes then d.closeRange k.srcPart stream none else d
  else d

/-! ### Requests and increments sent, and their outcomes -/

/-- R157, R233: one piece of work order (q, i) got its outcome; the last ends the work order, unless an earlier end stands. -/
def Dev.pieceDone (d : Dev) (q i st n : Nat) : Dev :=
  let d := d.upFlight q i (fun f => { f with
    pieces := f.pieces - 1,
    result := if st = stOk then f.result + n else f.result,
    fail := if f.fail = 0 && st != stOk then st else f.fail })
  match d.flight q i with
  | some f => if f.pieces = 0 then d.endWork q i f.fail 0 f.result else d
  | none => d

/-- R365: an outcome after the kill. -/
def Dev.lateOutcome (d : Dev) (p counter st seq : Nat) : Dev :=
  d.raise (0xD0D0 + p) (counter % 2 ^ 14 + st % 2 ^ 8 * 2 ^ 14 + seq % 2 ^ 26 * 2 ^ 22)

/-- R166: a remote increment's outcome. -/
def Dev.settleInc (d : Dev) (r : RInc) (st : Nat) : Dev :=
  let d := d.upSyn (fun y => { y with
    sent := y.sent.filter (fun x => !(x.dev == r.dev && x.seq == r.seq)),
    undeliv := if st = stOk then y.undeliv else satAdd 64 y.undeliv 1 })
  if r.killed then d.lateOutcome r.part r.pkt.arg0 st r.seq
  else d.upFlight r.queue r.index (fun f => if r.sig = 0 then { f with out0 := st } else { f with out1 := st })

/-- The local write of a READ_REQ's data; the status of the piece. -/
def Dev.readArrives (d : Dev) (r : Req) (data : Bytes) : Dev × Nat :=
  match d.vaWrite r.part r.dest 2 2 true data with
  | (d, a) => (d, a.status)

/-- R233: a request's outcome: status `st`, and for a READ_REQ that read, its data. -/
def Dev.settleReq (d : Dev) (r : Req) (st : Nat) (data : Bytes) : Dev :=
  let d := d.upRte (fun y => { y with reqs := y.reqs.filter (fun x => !(x.dev == r.dev && x.seq == r.seq)) })
  if r.killed then d.lateOutcome r.part 0 st r.seq
  else if r.queue = 0xFFFF then d
  else if r.pkt.kind = 0x01 && st = stOk then
    let (d, st) := d.readArrives r data
    d.pieceDone r.queue r.index st data.length
  else d.pieceDone r.queue r.index st r.pkt.length

/-- R233: sends one request with the next sequence of its destination; a lost destination gives UNREACHABLE at once (R225). -/
def Dev.sendReq (d : Dev) (q i dest : Nat) (k : Packet) : Dev :=
  let n := tget 0 d.rte.nextSeq k.dst
  let k := { k with seq := n }
  let r : Req := { dev := k.dst, seq := n, pkt := k, part := k.srcPart, queue := q, index := i, dest := dest, withdraw := false,
                   killed := false }
  let d := d.upRte (fun y => { y with nextSeq := tset 0 y.nextSeq k.dst ((n + 1) % 2 ^ 32), reqs := y.reqs ++ [r] })
  if d.isLost k.dst then d.settleReq r stUnreachable [] else d.inject k

/-- R165: sends one remote increment with the next sequence of its destination. -/
def Dev.sendInc (d : Dev) (q i sig : Nat) (k : Packet) : Dev :=
  let n := tget 0 d.syn.nextSeq k.dst
  let k := { k with seq := n }
  let r : RInc := { dev := k.dst, seq := n, pkt := k, part := k.srcPart, queue := q, index := i, sig := sig, withdraw := false,
                    killed := false }
  let d := d.upSyn (fun y => { y with nextSeq := tset 0 y.nextSeq k.dst ((n + 1) % 2 ^ 32), sent := y.sent ++ [r] })
  if d.isLost k.dst then d.settleInc r stUnreachable else d.inject k

/-- R374, R375: sends a packet of work order (q, i) with its copies; the first copy decides the work order's outcome. -/
def Dev.sendWork (d : Dev) (q i tseq dest : Nat) (k : Packet) : Dev :=
  let l := d.copies q tseq k
  let d := d.noteTwin q tseq (l.headD k)
  d.each l.zipIdx (fun d (k, j) => d.sendReq (if j = 0 then q else 0xFFFF) i dest k)

def Dev.sendWorkInc (d : Dev) (q i sig tseq : Nat) (k : Packet) : Dev :=
  let l := d.copies q tseq k
  let d := d.noteTwin q tseq (l.headD k)
  d.each l.zipIdx (fun d (k, j) => d.sendInc (if j = 0 then q else 0xFFFF) i sig k)

/-! ### Receivers' state of senders (R165, R233) -/

/-- Whether sequence `s` is newer than `h` in 32-bit order. -/
def seqNewer (s h : Nat) : Bool :=
  let x := (s + 2 ^ 32 - h) % 2 ^ 32
  decide (0 < x) && decide (x < 2 ^ 31)

/-- Whether sequence `s` has left the window of 65,536 below `h`. -/
def seqStale (s h : Nat) : Bool := !seqNewer s h && decide (65536 ≤ (h + 2 ^ 32 - s) % 2 ^ 32)

/-- Records an outcome of sequence `s`; what left the window is dropped. -/
def Sender.record (x : Sender) (s out now : Nat) : Sender :=
  let h := if x.seen == [] || seqNewer s x.highest then s else x.highest
  { highest := h, seen := tdrop (tset none x.seen s (some out)) (fun k => seqStale k h), lastAt := now }

end Sys2Proof.Machine
end

