-- ==== Sys2Proof/Machine/Links.lean ====
section
/-! DEFINITION. The Didjauk links (R197–R215): flits and link words, retry and replay, lane changes, training and wiring, loss. -/

namespace Sys2Proof.Machine

/-! ### Port states (R215) -/

/-- R223: ACTIVE or DEGRADED. -/
def Port.inService (p : Port) : Bool := p.state == 2 || p.state == 3

/-- The link runs: ACTIVE, DEGRADED or STANDBY. -/
def Port.up (p : Port) : Bool := p.inService || p.state == 6

/-- R209, R210: a port in service reports DEGRADED while fewer than 8 lanes run in either direction. -/
def Port.report (p : Port) : Port :=
  if p.inService then { p with state := if p.txMask = 0xFF && p.rxMask = 0xFF then 2 else 3 } else p

/-! ### Sending (R202, R204) -/

/-- R204: flits waiting move into the retry buffer while it has room; each is sent with the next link sequence. -/
def Port.pump : Nat → Port → Port × List RetryFlit
  | 0, p => (p, [])
  | fuel + 1, p =>
    match p.txq with
    | [] => (p, [])
    | f :: rest =>
      if p.retry.length < 1024 then
        let f := { f with seq := p.txSeq }
        let n := (p.retry.filter (fun x => !x.acked)).length + 1
        let (p, l) := Port.pump fuel { p with
          retry := p.retry ++ [f], txq := rest, txSeq := (p.txSeq + 1) % 4096, peak := max p.peak n }
        (p, f :: l)
      else (p, [])

def Dev.pump (d : Dev) (p : Nat) : Dev :=
  let (x, l) := (d.port p).pump (d.port p).txq.length
  (d.upPort p (fun _ => x)).each l (fun d f => d.emit (.flit p f.seq f.vc f.last))

/-- R218: a packet's flits go out on a port's VC. -/
def Dev.linkSend (d : Dev) (p vc : Nat) (k : Packet) : Dev :=
  let fs := pktFlits k
  let l : List RetryFlit := fs.zipIdx.map (fun (b, i) =>
    { seq := 0, vc := vc, bytes := b, last := i + 1 == fs.length, acked := false })
  (d.upPort p (fun x => { x with txq := x.txq ++ l })).pump p

/-- R204: the packets whose last flit is acknowledged leave the front of the retry buffer. -/
def dropAcked : Nat → List RetryFlit → List RetryFlit
  | 0, l => l
  | fuel + 1, l =>
    match l.find? (·.last) with
    | some f => if f.acked then dropAcked fuel ((l.dropWhile (fun x => !x.last)).drop 1) else l
    | none => l

/-- Marks every flit up to the one of sequence `a`. -/
def ackUpTo (a : Nat) : List RetryFlit → List RetryFlit
  | [] => []
  | f :: l => { f with acked := true } :: (if f.seq = a then l else ackUpTo a l)

/-- R204: an ack. -/
def Port.ack (p : Port) (a : Nat) : Port :=
  if p.retry.any (fun f => f.seq == a) then
    let r := dropAcked p.retry.length (ackUpTo a p.retry)
    { p with retry := r }
  else p

/-! ### Loss of the port (R213) -/

/-- R236: the runners that leave by port p are broken. -/
def Dev.breakRunners (d : Dev) (p : Nat) : Dev :=
  let hit := d.rte.runners.filter (fun kv => match kv.2 with | some r => r.state == 2 && r.egress == p | none => false)
  let d := d.upRte (fun r => { r with
    runners := tmap none (fun _ o => o.map (fun x => if x.state == 2 && x.egress == p then { x with state := 4 } else x)) r.runners })
  d.each hit (fun d _ => d.raiseAny 0xC4A5)

/-- R43, R213 step 4: every retry-buffer entry and credit of the port is released and counted. -/
def Dev.releasePort (d : Dev) (p st : Nat) : Dev :=
  let d := d.upPort p (fun x => { x with
    state := st,
    lostFl := satAdd 32 x.lostFl (x.retry.length + x.txq.length),
    partialRx := satAdd 32 x.partialRx (x.partIn.filter (fun kv => kv.2 != [])).length,
    retry := [], txq := [], partIn := [], waitNak := false, mapPend := false, newTx := none, xoffIn := 0, xoffOut := 0,
    txMask := 0, rxMask := 0, retrain := 0, partVal := false })
  d.breakRunners p

/-- R213: the port is declared lost. -/
def Dev.portLost (d : Dev) (p : Nat) : Dev :=
  ((d.releasePort p 4).upPort p (fun x => { x with losses := satAdd 16 x.losses 1 })).raiseAny (0xC400 + p)

/-! ### Replay (R205, R207) -/

/-- R205: the flits not acknowledged are sent again, in order; the 16th replay of one sequence in a row loses the port. -/
def Dev.replay (d : Dev) (p : Nat) : Dev :=
  let x := d.port p
  match x.retry.filter (fun f => !f.acked) with
  | [] => d
  | f :: l =>
    let row := if x.lastNak = f.seq then x.nakRow + 1 else 1
    let d := d.upPort p (fun x => { x with replays := satAdd 32 x.replays 1, lastNak := f.seq, nakRow := row })
    if 16 ≤ row then d.portLost p else d.each (f :: l) (fun d g => d.emit (.flit p g.seq g.vc g.last))

/-! ### Input buffers (R227–R229) -/

def flitBytes (k : Packet) : Nat := 256 * (pktFlits k).length

/-- R227: the occupancy of a VC. -/
def Port.occ (p : Port) (v : Nat) : Nat :=
  (tget [] p.inBuf v).foldl (fun n k => n + flitBytes k) 0 + (tget [] p.partIn v).length

def reserve : Nat := 16384
def poolSize : Nat := 147456
def headroom : Nat := 245760

/-- R227: VCs that may use the shared pool. -/
def sharedVc (v : Nat) : Bool := 1 ≤ v && v ≤ 6

def Port.above (p : Port) (v : Nat) : Nat := p.occ v - reserve

/-- R227, R245: the shared pool in use. -/
def Port.pool (p : Port) : Nat := min poolSize (([1, 2, 3, 4, 5, 6]).foldl (fun n v => n + p.above v) 0)

/-- R227, R245: the headroom in use. -/
def Port.head (p : Port) : Nat :=
  ([1, 2, 3, 4, 5, 6]).foldl (fun n v => n + p.above v) 0 - p.pool + p.above 0 + p.above 7

/-- R229: whether a flit of VC v finds room. -/
def Port.fits (p : Port) (v : Nat) : Bool :=
  decide (p.occ v + 256 ≤ reserve) || (sharedVc v && decide (p.pool + 256 ≤ poolSize)) || decide (p.head + 256 ≤ headroom)

/-- R228: the xoff bit of VC v, from its last value. -/
def Port.xoffBit (p : Port) (v : Nat) : Bool :=
  let free := poolSize - p.pool
  let e := p.margin * 1024
  if decide (reserve ≤ p.occ v) && (!sharedVc v || decide (free ≤ e)) then true
  else if decide (p.occ v < reserve) || (sharedVc v && decide (e + 32768 ≤ free)) then false
  else bit p.xoffOut.toNat v

def Port.reXoff (p : Port) : Port :=
  { p with xoffOut := BitVec.ofNat 8 (ofBits ((List.range 8).filter p.xoffBit)) }

/-! ### Receiving (R203, R205) -/

def Dev.sendNak (d : Dev) (p : Nat) : Dev := d.emit (.nak p (((d.port p).rxSeq + 4095) % 4096))

/-- R205: a discarded or out-of-order flit: NAK, once until the expected sequence arrives. -/
def Dev.flitGap (d : Dev) (p : Nat) : Dev :=
  if (d.port p).up && !(d.port p).waitNak then (d.upPort p (fun x => { x with waitNak := true })).sendNak p else d

/-- R202: the fields that every valid flit carries. -/
def Port.common (p : Port) (w : Nat) : Port :=
  let p := if bit w 24 then p.ack (fld w 23 12) else p
  let m : BitVec 8 := BitVec.ofNat 8 (fld w 47 40)
  { p with
    xoffIn := BitVec.ofNat 8 (fld w 39 32),
    newTx := if fld w 30 28 != 4 && (m &&& p.txMask) == p.txMask && m != p.txMask then some (m, 4096) else p.newTx }

/-- R203: a flit whose CRC matches. -/
def flitOk (f : Flit) : Bool := crc32 (slice f.bytes 0 256 ++ leBytes 8 f.word) == fld f.word 95 64

/-- Every flit's way in: decoding, checks, the common fields, then its type's own effect. -/
def Dev.recvFlit (d : Dev) (p ty : Nat) (f : Flit) (body : Dev → Dev) : Dev :=
  let x := d.port p
  if x.state = 0 || x.state = 4 then d
  else if f.badFec then (d.upPort p (fun x => { x with fecUe := satAdd 32 x.fecUe 1 })).flitGap p
  else if !flitOk f || 5 ≤ fld f.word 30 28 then (d.upPort p (fun x => { x with crcErr := satAdd 32 x.crcErr 1 })).flitGap p
  else if fld f.word 30 28 != ty then d
  else body (if x.up then (d.upPort p (fun x => x.common f.word)).pump p else d)

/-- R218: the bytes of a VC's packet in arrival; a whole packet enters the input buffer. -/
def Port.gather (p : Port) (v : Nat) (bs : Bytes) : Port :=
  let b := tget [] p.partIn v ++ slice bs 0 256
  if packetSize b ≤ b.length then
    { p with partIn := tset [] p.partIn v [], inBuf := tset [] p.inBuf v (tget [] p.inBuf v ++ [parsePacket b]) }
  else { p with partIn := tset [] p.partIn v b }

/-- R205, R229: a DATA flit. -/
def doFlitData (d : Dev) (p : Nat) (f : Flit) : Dev :=
  d.recvFlit p 0 f (fun d =>
    let x := d.port p
    let seq := f.word % 4096
    let vc := fld f.word 27 25
    if !x.up then d
    else if seq = x.rxSeq then
      if x.fits vc then
        d.upPort p (fun x => ({ x with
          rxSeq := (x.rxSeq + 1) % 4096, rxAny := true, waitNak := false, mapPend := false }.gather vc f.bytes).reXoff)
      else (d.upRte (fun r => { r with headOvf := satAdd 32 r.headOvf 1 })).flitGap p
    else if (seq + 4096 - x.rxSeq) % 4096 < 2048 then d.flitGap p
    else d)

/-- R202, R212: an IDLE flit names its sender; another name is the wrong wiring. -/
def doFlitIdle (d : Dev) (p : Nat) (f : Flit) : Dev :=
  d.recvFlit p 1 f (fun d =>
    let x := d.port p
    if x.up && (le f.bytes 0 4 % 2 ^ 20 != x.partner || le f.bytes 4 1 != x.partPort) then
      ((d.portLost p).upPort p (fun x => { x with state := 5 })).raise (0xC440 + p) (le f.bytes 0 4 % 2 ^ 20)
    else d)

/-- R205: a NAK is answered by a replay from ack + 1. -/
def doFlitNak (d : Dev) (p : Nat) (f : Flit) : Dev :=
  d.recvFlit p 2 f (fun d => if (d.port p).up then d.replay p else d)

/-- R212: the partner a port expects: (device, port). -/
def wiring (id p : Nat) : Nat × Nat :=
  let a := devA id
  let b := devB id
  let c := devC id
  let e := devD id
  if p < 7 then (devId (Nat.xor a (p + 1)) b c e, p)
  else if p < 14 then (devId a (Nat.xor b (p - 6)) c e, p)
  else if p = 14 then (devId a b ((c + 1) % 128) e, 15)
  else if p = 15 then (devId a b ((c + 127) % 128) e, 14)
  else if p = 16 then (devId a b c ((e + 1) % 128), 17)
  else (devId a b c ((e + 127) % 128), 16)

/-- R211, R213: the port enters service on the lanes both sides locked: STANDBY until the next RESUME. -/
def Port.enter (p : Port) (m : BitVec 8) : Port :=
  { p with
    state := 6, txMask := m, rxMask := m, txSeq := 0, rxSeq := 0, rxAny := false, retry := [], txq := [], waitNak := false,
    lastNak := 4096, nakRow := 0, mapPend := false, newTx := none, retrain := 0, partIn := [], xoffIn := 0, partVal := true }

/-- R211, R212: a HELLO. -/
def doFlitHello (d : Dev) (p : Nat) (f : Flit) : Dev :=
  d.recvFlit p 3 f (fun d =>
    let dev := le f.bytes 0 4 % 2 ^ 20
    let pp := le f.bytes 4 1
    let lanes := le f.bytes 6 1
    let mast := bit (le f.bytes 7 1) 0
    let x := d.port p
    if x.state = 1 then
      let d := d.upPort p (fun x => { x with
        partner := dev, partPort := pp % 32, partMast := mast })
      if (dev, pp) = wiring d.rte.devId p then
        let m := x.locked &&& BitVec.ofNat 8 lanes &&& ~~~ x.laneHold
        if m = 0 then d else (d.upPort p (fun x => x.enter m)).raiseAny (0xC460 + p)
      else (d.upPort p (fun x => { x with state := 5 })).raise (0xC440 + p) dev
    else if x.state = 5 then
      d.upPort p (fun x => { x with
        partner := dev, partPort := pp % 32, partMast := mast })
    else d)

/-- R208: a LANEMAP: the new mask and the replay wait for the next lane-block boundary; of two acks the higher counts. -/
def doFlitLanemap (d : Dev) (p : Nat) (f : Flit) : Dev :=
  d.recvFlit p 4 f (fun d =>
    if (d.port p).up then d.upPort p (fun x => { x with newTx := some (BitVec.ofNat 8 (fld f.word 47 40), fld f.word 23 12) }) else d)

/-! ### Timers and lanes -/

def doNakRepeat (d : Dev) (p : Nat) : Dev := if (d.port p).up && (d.port p).waitNak then d.sendNak p else d

def Dev.sendLanemap (d : Dev) (p : Nat) : Dev :=
  d.emit (.lanemap p (d.port p).rxMask.toNat (((d.port p).rxSeq + 4095) % 4096))

def lane (l : Nat) : BitVec 8 := BitVec.ofNat 8 (2 ^ l)

/-- R208, R209: a lane judged failed leaves rx_mask. -/
def doLaneFail (d : Dev) (p l : Nat) (c : LaneCause) : Dev :=
  let x := d.port p
  if x.up && x.rxMask &&& lane l != 0 then
    let d := d.upPort p (fun x => ({ x with
      rxMask := x.rxMask &&& ~~~ lane l, failed := x.failed ||| lane l,
      marker := if c == .markers then x.marker ||| lane l else x.marker,
      retrain := x.retrain &&& ~~~ lane l,
      degrades := satAdd 16 x.degrades 1, mapPend := true } : Port).report)
    let d := d.raise (0xC420 + p) (d.port p).rxMask.toNat
    if (d.port p).rxMask = 0 then d else d.sendLanemap p
  else d

def doLanemapRepeat (d : Dev) (p : Nat) : Dev :=
  if (d.port p).up && (d.port p).mapPend && (d.port p).rxMask != 0 then d.sendLanemap p else d

/-- R210: back on 8 lanes in both directions. -/
def Dev.lanesBack (d : Dev) (p was : Nat) : Dev :=
  if was = 3 && (d.port p).state = 2 then d.raiseAny (0xC480 + p) else d

/-- R208, R210: at a lane-block boundary the sender takes the new mask; after a LANEMAP it replays from ack + 1. -/
def doLaneMaskSwitch (d : Dev) (p : Nat) : Dev :=
  let x := d.port p
  match x.newTx with
  | some (m, a) =>
    if !x.up then d
    else
      let d := (d.upPort p (fun x => ({ x with txMask := m, newTx := none } : Port).report)).lanesBack p x.state
      if a < 4096 then
        let d := (d.upPort p (fun x => x.ack a)).replay p
        if (d.port p).up then d.pump p else d
      else d
  | none => d

/-- R210: a failed lane retrains in the background. -/
def doLaneRetrain (d : Dev) (p l : Nat) : Dev :=
  let x := d.port p
  if x.up && x.rxMask &&& lane l == 0 && x.laneHold &&& lane l == 0 then
    d.upPort p (fun x => { x with retrain := x.retrain ||| lane l })
  else d

/-- R210: a retrained lane clean for 1 s is offered in rx_mask. -/
def doLaneRestore (d : Dev) (p l : Nat) : Dev :=
  let x := d.port p
  if x.up && x.retrain &&& lane l != 0 then
    (d.upPort p (fun x => ({ x with rxMask := x.rxMask ||| lane l, retrain := x.retrain &&& ~~~ lane l } : Port).report)).lanesBack p x.state
  else d

/-! ### Training (R211, R213, R215, R217) -/

/-- R228: the early margin, KiB, from a round trip in ns. -/
def earlyMargin (rtt : Nat) : Nat := ceilDiv (rtt * 200 - 245760) 4096 * 4

/-- Training starts on the lanes that lock. -/
def Dev.train (d : Dev) (p : Nat) (locked : BitVec 8) (rtt : Nat) : Dev :=
  d.upPort p (fun x => { x with
    state := 1, locked := locked &&& ~~~ x.laneHold, margin := earlyMargin rtt, partVal := false })

/-- R211: training at bring-up or after a retrain command. -/
def doPortTrain (d : Dev) (p : Nat) (locked : BitVec 8) (rtt : Nat) : Dev :=
  let x := d.port p
  if x.enable && d.rte.valid && (x.state = 0 || x.state = 1) then d.train p locked rtt else d

/-- R211, R212: HELLO in training and in quarantine. -/
def doHelloSend (d : Dev) (p : Nat) : Dev :=
  let x := d.port p
  if x.state = 1 || x.state = 5 then d.emit (.hello p d.rte.devId x.locked.toNat d.rte.isMaster) else d

/-- R213: 16 µs without a valid flit. -/
def doPortLossTimeout (d : Dev) (p : Nat) : Dev := if (d.port p).up then d.portLost p else d

/-- R213 step 5: a lost port retrains. -/
def doPortRetrain (d : Dev) (p : Nat) (locked : BitVec 8) (rtt : Nat) : Dev :=
  if (d.port p).state = 4 && (d.port p).enable then d.train p locked rtt else d

/-- R215: LNK_CTL retrain. -/
def doLinkRetrain (d : Dev) (p : Nat) : Dev :=
  let x := d.port p
  if x.state = 0 then d
  else
    let d := if x.inService then d.portLost p else d.releasePort p x.state
    d.upPort p (fun x => { x with state := 1 })

/-- R215: LNK_CTL enable. -/
def doLinkEnable (d : Dev) (p : Nat) (on : Bool) : Dev :=
  let x := d.port p
  if on then
    let d := d.upPort p (fun x => { x with enable := true })
    if x.state = 0 && !x.enable && d.rte.valid then d.upPort p (fun x => { x with state := 1 }) else d
  else
    let d := if x.state = 0 then d else d.releasePort p 0
    d.upPort p (fun x => { x with enable := false, state := 0 })

end Sys2Proof.Machine
end

