-- ==== Sys2Proof/Machine/Routing.lean ====
section
/-! DEFINITION. Addressing, routing and flow control (R216–R245): paths, forwarding, end-to-end requests, runners, DRAIN and
RESUME, the protected registers; the twin filter that stands before every request (R376). -/

namespace Sys2Proof.Machine

/-! ### Paths (R222–R224) -/

/-- R197: a port's dimension: 0 A, 1 B, 2 C, 3 D. -/
def portDim (p : Nat) : Nat := if p < 7 then 0 else if p < 14 then 1 else if p < 16 then 2 else 3

/-- A chosen next hop. -/
structure Hop where
  port : Nat
  hi   : Bool
deriving DecidableEq, Repr

/-- R223, R224: the port may carry traffic. -/
def Dev.usable (d : Dev) (p : Nat) : Bool := (d.port p).inService && bit d.rte.prot.mask.toNat p

/-- R244: position `x` lies in the excluded range, counted in the + direction from first to last. -/
def excluded (b : Nat × Nat × Bool) (x : Nat) : Bool :=
  b.2.2 && decide ((x + 128 - b.1) % 128 ≤ (b.2.1 + 128 - b.1) % 128)

/-- R223: the positions passed from cur to dst: dst included, cur excluded. -/
def passed (cur dst : Nat) (plus : Bool) : List Nat :=
  let n := if plus then (dst + 128 - cur) % 128 else (cur + 128 - dst) % 128
  (List.range n).map (fun i => if plus then (cur + i + 1) % 128 else (cur + 128 - (i + 1)) % 128)

/-- R223. `port` is the dimension's + port. -/
def Dev.ringStep (d : Dev) (port : Nat) (b : Nat × Nat × Bool) (cur dst : Nat) (hi : Bool) : Option Hop :=
  let plus := decide ((dst + 128 - cur) % 128 ≤ 64)
  let meets := fun (pl : Bool) => (passed cur dst pl).any (excluded b)
  let go := fun (pl : Bool) =>
    let p := if pl then port else port + 1
    if d.usable p then some (Hop.mk p (hi || (pl && cur == 127) || (!pl && cur == 0))) else none
  if !meets plus then go plus else if !meets (!plus) then go (!plus) else none

/-- R224. `port` is the port of difference 1. -/
def Dev.cliqueStep (d : Dev) (port : Nat) (health : BitVec 64) (permit : BitVec 8) (cur dst : Nat) (hi : Bool) : Option Hop :=
  let out := fun (m : Nat) => port + Nat.xor cur m - 1
  let link := fun (i j : Nat) => bit health.toNat (8 * i + j)
  if d.usable (out dst) && link cur dst then some (Hop.mk (out dst) hi)
  else if hi then none
  else
    match (List.range 8).find? (fun m => m != cur && m != dst && bit permit.toNat m && d.usable (out m) && link cur m && link m dst) with
    | some m => some (Hop.mk (out m) true)
    | none => none

/-- R222: the next hop towards `dst`, for a packet that arrived in dimension `dim` (4: injected here) in class `hi`. -/
def Dev.route (d : Dev) (dst dim : Nat) (hi : Bool) : Option Hop :=
  let me := d.rte.devId
  let cls := fun (n : Nat) => hi && n == dim
  if devD dst != devD me then d.ringStep 16 d.rte.prot.brkD (devD me) (devD dst) (cls 3)
  else if devC dst != devC me then d.ringStep 14 d.rte.prot.brkC (devC me) (devC dst) (cls 2)
  else if devB dst != devB me then d.cliqueStep 7 d.rte.prot.healthB d.rte.prot.detB (devB me) (devB dst) (cls 1)
  else if devA dst != devA me then d.cliqueStep 0 d.rte.prot.healthA d.rte.prot.detA (devA me) (devA dst) (cls 0)
  else none

/-! ### Runner paths (R235) -/

/-- R126, R235: the egress port of a runner towards `dst` at device `me`, whatever the routing state: 31 at the destination. -/
def runEgress (me dst : Nat) : Nat :=
  if devD dst != devD me then (if devD me < devD dst then 16 else 17)
  else if devC dst != devC me then (if devC me < devC dst then 14 else 15)
  else if devB dst != devB me then 7 + Nat.xor (devB me) (devB dst) - 1
  else if devA dst != devA me then Nat.xor (devA me) (devA dst) - 1
  else 31

/-- R235: the date-line-free direction meets no excluded range here. -/
def Dev.runClear (d : Dev) (dst : Nat) : Bool :=
  let me := d.rte.devId
  if devD dst != devD me then !(passed (devD me) (devD dst) (decide (devD me < devD dst))).any (excluded d.rte.prot.brkD)
  else if devC dst != devC me then !(passed (devC me) (devC dst) (decide (devC me < devC dst))).any (excluded d.rte.prot.brkC)
  else true

/-- R234: the share carried by a port's runners other than the one of key `k`. -/
def Dev.portShare (d : Dev) (p k : Nat) : Nat :=
  d.rte.runners.foldl (fun n kv => match kv.2 with
    | some r => if kv.1 != k && r.egress == p && (r.state == 2 || r.state == 4 || r.sentUp) then n + r.share else n
    | none => n) 0

/-- R234, R235: whether this hop can carry a runner of key `k`. -/
def Dev.runFits (d : Dev) (dst share k : Nat) : Bool :=
  let e := runEgress d.rte.devId dst
  e == 31 || (d.runClear dst && d.usable e && decide (d.portShare e k + share ≤ 192) &&
    (decide (d.rte.runners.length < 65536) || (tget none d.rte.runners k).isSome))

def runKey (src n : Nat) : Nat := src * 65536 + n

def Dev.setRunner (d : Dev) (k : Nat) (r : Option Runner) : Dev := d.upRte (fun x => { x with runners := tset none x.runners k r })

def Dev.upRunner (d : Dev) (k : Nat) (f : Runner → Runner) : Dev :=
  d.upRte (fun x => { x with runners := tup none x.runners k (fun o => o.map f) })

/-- A runner packet on CTL along the runner's own path. -/
def Dev.sendRun (d : Dev) (kind : Nat) (r : Runner) : Dev :=
  if (d.port r.egress).inService then
    d.linkSend r.egress 0 { d.packet kind r.dst r.dstPart r.part 0 0 r.runner (if kind = 0x19 then r.share else 0) [] with src := r.src }
  else d

/-- R234: a local runner fails. -/
def Dev.failRunner (d : Dev) (k : Nat) : Dev :=
  (d.upRunner k (fun r => { r with state := 3, sentUp := false })).raiseAny 0xC4A4

/-- R234: predecessors established or failed. -/
def Dev.predsDone (d : Dev) (r : Runner) : Bool :=
  [r.pred0, r.pred1].all (fun n => n == 0xFFFF ||
    (match tget none d.rte.runners (runKey r.src n) with | some x => x.state == 2 || x.state == 3 || x.state == 4 | none => true))

/-- R234, R239: sends the setup of every staged local runner whose turn has come. `fuel`: their number. -/
def Dev.sendSetups : Nat → Dev → Dev
  | 0, d => d
  | fuel + 1, d =>
    match d.rte.runners.find? (fun kv => match kv.2 with
        | some r => r.loc && r.state == 1 && !r.sentUp && !r.remove && d.predsDone r | none => false) with
    | some (k, some r) =>
      if r.egress = 31 then Dev.sendSetups fuel (d.upRunner k (fun x => { x with state := 2 }))
      else if d.runFits r.dst r.share k then
        Dev.sendSetups fuel ((d.upRunner k (fun x => { x with sentUp := true })).sendRun 0x19 r)
      else Dev.sendSetups fuel (d.failRunner k)
    | _ => d

/-- R239 step 3: the runners to remove go, broken ones are torn down and staged again, failed ones are staged again. -/
def Dev.tearDown (d : Dev) : Dev :=
  d.each d.rte.runners (fun d kv => match kv.2 with
    | some r =>
      if !r.loc then d
      else
        let d := if (r.remove && r.state == 2) || r.state == 4 then d.sendRun 0x1A r else d
        if r.remove then d.setRunner kv.1 none
        else if r.state = 3 || r.state = 4 then d.upRunner kv.1 (fun x => { x with state := 1, sentUp := false })
        else d
    | none => d)

/-- R234: a runner setup at a hop or at the destination. -/
def doRunSetup (d : Dev) (k : Packet) : Dev :=
  let d := d.takePkt k
  if k.dst = d.rte.devId then d.emit (.runAnswer k.src (k.arg0 % 65536) true)
  else
    let key := runKey k.src (k.arg0 % 65536)
    if d.runFits k.dst k.arg1 key then
      let r : Runner := {
        state := 2, loc := false, src := k.src, runner := k.arg0 % 65536, egress := runEgress d.rte.devId k.dst,
        share := k.arg1, part := k.srcPart, dst := k.dst, dstPart := k.dstPart, pred0 := 0xFFFF, pred1 := 0xFFFF, remove := false,
        sentUp := false }
      (d.setRunner key (some r)).linkSend r.egress 0 k
    else d.emit (.runAnswer k.src (k.arg0 % 65536) false)

/-- R234: the answer reaches the source. -/
def doRunSetupAnswer (d : Dev) (n : Nat) (ok : Bool) : Dev :=
  let key := runKey d.rte.devId n
  match tget none d.rte.runners key with
  | some r =>
    if r.loc && r.state == 1 && r.sentUp then
      let d := if ok then d.upRunner key (fun x => { x with state := 2, sentUp := false }) else (d.sendRun 0x1A r).failRunner key
      Dev.sendSetups d.rte.runners.length d
    else d
  | none => d

/-- R236: a teardown removes the entry and goes on along its path. -/
def doRunTeardown (d : Dev) (k : Packet) : Dev :=
  let d := d.takePkt k
  let key := runKey k.src (k.arg0 % 65536)
  match tget none d.rte.runners key with
  | some r =>
    if r.loc then d
    else
      let d := d.setRunner key none
      if r.egress < 18 && (d.port r.egress).inService then d.linkSend r.egress 0 k else d
  | none => d

/-! ### Forwarding (R220–R231) -/

/-- R225: kinds whose discard for want of a route is answered by UNREACH. -/
def unreachKind (k : Nat) : Bool := (1 ≤ k && k ≤ 3) || k == 0x08 || k == 0x18 || (0x10 ≤ k && k ≤ 0x14)

/-- R225: no route: discarded and counted; UNREACH goes to the source. The packing of kind and sequence in arg1 is a free value. -/
def Dev.noRoute (d : Dev) (k : Packet) : Dev :=
  let d := d.upRte (fun r => { r with noRoute := satAdd 32 r.noRoute 1 })
  if unreachKind k.kind then
    let (v, d) := d.draw 32
    d.inject (d.packet 0x0C k.src k.srcPart 0 0 0 k.dst v.toNat [])
  else d

/-- The oldest packet that waits at input `p` (18: this device's own injection) on VC `vc`. -/
def Dev.waitingAt (d : Dev) (p vc : Nat) : Option Packet :=
  if p = 18 then d.rte.heldInj.find? (fun k => kindVc k.kind == some vc || (kindVc k.kind == none && vc == 0))
  else (tget [] (d.port p).inBuf vc).head?

def Dev.dropAt (d : Dev) (p vc : Nat) (k : Packet) : Dev :=
  if p = 18 then d.upRte (fun r => { r with heldInj := dropFirst (· == k) r.heldInj })
  else d.upPort p (fun x => ({ x with inBuf := tset [] x.inBuf vc ((tget [] x.inBuf vc).drop 1) } : Port).reXoff)

/-- R238, R378: whether an injected packet is held. -/
def Dev.holds (d : Dev) (p vc : Nat) (k : Packet) : Bool :=
  p == 18 && ((d.rte.fstate != 0 && vc != 0) || (k.twin && (d.part k.srcPart).twHeld))

/-- R231: the congestion mark at input `p`. -/
def Dev.marksAt (d : Dev) (p vc : Nat) (k : Packet) : Bool :=
  p != 18 && sharedVc vc && !k.cong && decide (81920 ≤ (d.port p).occ vc)

/-- R222: takes the packet out by a port on a VC, unless the partner holds that VC in xoff (R228). -/
def Dev.sendOut (d : Dev) (p vc o ovc : Nat) (k : Packet) (old : Packet) : Dev :=
  if bit (d.port o).xoffIn.toNat ovc then d
  else
    let m := d.marksAt p vc k
    let d := if m then d.upRte (fun r => { r with marks := satAdd 32 r.marks 1 }) else d
    (d.dropAt p vc old).linkSend o ovc { k with cong := k.cong || m }

/-- R235, R236: an established runner's egress for a packet. -/
def Dev.runnerOut (d : Dev) (k : Packet) : Option Nat :=
  match tget none d.rte.runners (runKey k.src (k.arg0 % 65536)) with
  | some r => if r.state = 2 && r.egress < 18 && (d.port r.egress).inService then some r.egress else none
  | none => none

/-- R222: one router takes the oldest packet of input `p` and VC `vc`. `wait`: its time in the buffers, in 10 µs units. -/
def Dev.forward (d : Dev) (p vc wait : Nat) : Dev :=
  match d.waitingAt p vc with
  | none => d
  | some old =>
    let k := { old with age := min 0xFFFF (old.age + max 1 wait) }
    if d.holds p vc k then d
    else if !kindOnVc k.kind vc then
      (d.dropAt p vc old).upRte (fun r => { r with noRoute := satAdd 32 r.noRoute 1 })
    else if 50000 < k.age then (d.dropAt p vc old).upRte (fun r => { r with aged := satAdd 32 r.aged 1 })
    else if k.dst = d.rte.devId || ((k.kind == 0x19 || k.kind == 0x1A) && p != 18) then
      (d.dropAt p vc old).upRte (fun r => { r with inbox := r.inbox ++ [k] })
    else
      match (if vc = 7 then d.runnerOut k else none) with
      | some o => d.sendOut p vc o 7 k old
      | none =>
        let dim := if p = 18 then 4 else portDim p
        -- CTL has one class: a packet that came by the dimension it still needs has made its detour (R224)
        let hi := if vc = 0 then p != 18 else vc == 2 || vc == 4 || vc == 6
        match d.route k.dst dim hi with
        | none => (d.dropAt p vc old).noRoute k
        | some h =>
          let base := if vc = 7 then 1 else if vc = 0 then 0 else (vc - 1) / 2 * 2 + 1
          d.sendOut p vc h.port (if vc = 0 then 0 else base + b2n h.hi) k old

def doPacketForward (d : Dev) (p vc wait : Nat) : Dev := d.forward p vc wait

/-- R235: the oldest runner packet at input `p` follows its path; at its destination the unit takes it. -/
def doRunData (d : Dev) (p wait : Nat) : Dev := d.forward p 7 wait

/-! ### UNREACH (R225) -/

/-- R225: device `dev` is lost until the next RESUME; operations pending towards it complete with UNREACHABLE. -/
def Dev.declareLost (d : Dev) (dev : Nat) : Dev :=
  let d := d.upRte (fun r => { r with lost := insertNat dev r.lost })
  let d := if dev = d.partnerId then d.goSolo else d
  let d := d.each (d.rte.reqs.filter (fun r => r.dev == dev)) (fun d r => d.settleReq r stUnreachable [])
  d.each (d.syn.sent.filter (fun r => r.dev == dev)) (fun d r => d.settleInc r stUnreachable)

/-! ### The twin filter (R376) -/

inductive TwinRes where
  | first | dup (out : Nat) | stale | full
deriving DecidableEq, Repr

def twinKey (k : Packet) : Nat × Nat × Nat := (le k.trailer 8 4 % 2 ^ 20, k.srcPart, le k.trailer 0 2)

def TwinEnt.is (x : TwinEnt) (k : Packet) : Bool := (x.pair, x.part, x.stream) == twinKey k

/-- R376: what the filter makes of a copy; a packet without a trailer passes as a first copy. -/
def Dev.twinCheck (d : Dev) (k : Packet) : TwinRes :=
  if !k.twin then .first
  else
    let s := le k.trailer 4 4
    match d.twin.filter.find? (fun x => x.is k) with
    | none => if d.twin.filter.length < 1024 then .first else .full
    | some x =>
      if !seqNewer s x.highest && decide (4096 ≤ (x.highest + 2 ^ 32 - s) % 2 ^ 32) then .stale
      else match tget none x.seen s with | some o => .dup o | none => .first

def Dev.countTwin (d : Dev) (r : TwinRes) : Dev :=
  d.upRst (fun x => { x with
    twDup := match r with | .dup _ => satAdd 32 x.twDup 1 | _ => x.twDup,
    twStale := match r with | .stale => satAdd 16 x.twStale 1 | _ => x.twStale,
    twFull := match r with | .full => satAdd 16 x.twFull 1 | _ => x.twFull })

/-- R376: the outcome of a first copy is recorded. -/
def Dev.twinRecord (d : Dev) (k : Packet) (out : Nat) : Dev :=
  if !k.twin then d
  else
    let s := le k.trailer 4 4
    let (a, b, c) := twinKey k
    let put := fun (x : TwinEnt) =>
      let h := if seqNewer s x.highest then s else x.highest
      { x with highest := h, seen := tdrop (tset none x.seen s (some out)) (fun q => decide (4096 ≤ (h + 2 ^ 32 - q) % 2 ^ 32)),
               lastAt := d.now }
    d.upTwin (fun t =>
      if t.filter.any (fun x => x.is k) then { t with filter := updWhere (fun x => x.is k) put t.filter }
      else { t with filter := t.filter ++ [{ pair := a, part := b, stream := c, highest := s, seen := [(s, some out)], lastAt := d.now }] })

/-- The filter stands before a kind's own rules: `h` handles a first copy and answers its outcome, `ans` answers a copy. -/
def Dev.twinned1 (d : Dev) (k : Packet) (h : Dev → Dev × Option Nat) (ans : Dev → Nat → Dev) : Dev :=
  match d.twinCheck k with
  | .first => match h d with | (d, some o) => d.twinRecord k o | (d, none) => d
  | .dup o => ans (d.countTwin (.dup o)) o
  | .stale => ans (d.countTwin .stale) stOk
  | .full => d.countTwin .full

/-! ### Requests (R117, R233) -/

/-- R34, R117: why a peer's request at partition `p` is refused. -/
def Dev.peerRefusal (d : Dev) (k : Packet) : Option Nat :=
  if !(d.part k.dstPart).ready then some stFenced
  else if !d.granted k.dstPart k.src k.srcPart then some stDenied
  else none

/-- R233: a READ_REQ; every copy is performed. -/
def doReadReq (d : Dev) (k : Packet) (e : Ecc) : Dev :=
  let d := d.takePkt k
  let perform := fun (d : Dev) =>
    match d.peerRefusal k with
    | some st => ((if st = stDenied then d.refuse k.addr else d).answer k 0x08 st 0 [], some st)
    | none =>
      match d.vaRead k.dstPart k.addr k.arg0 4 5 false e with
      | (d, .ok bs) => (d.answer k 0x08 stOk 0 bs, some stOk)
      | (d, x) => (d.answer k 0x08 x.status 0 [], some x.status)
  d.twinned1 k perform (fun d _ => (perform d).1)

/-- R233: what the sender's state says of a WRITE_REQ: nothing to do (the table full, or the sequence out of the window), or the
outcome recorded, none at its first arrival. -/
def Dev.e2eCheck (d : Dev) (k : Packet) : Dev × Option (Option Nat) :=
  match tget none d.rte.senders k.src with
  | none => if 16384 ≤ d.rte.senders.length then (d.upRte (fun r => { r with e2eFull := satAdd 32 r.e2eFull 1 }), none) else (d, some none)
  | some x => if seqStale k.seq x.highest then (d, none) else (d, some (tget none x.seen k.seq))

/-- R233: a WRITE_REQ's first arrival: applied or refused, its outcome recorded and answered. -/
def Dev.writeFirst (d : Dev) (k : Packet) : Dev × Nat :=
  match d.peerRefusal k with
  | some st => (if st = stDenied then d.refuse k.addr else d, st)
  | none => match d.vaWrite k.dstPart k.addr 8 5 false k.payload with | (d, a) => (d, a.status)

def Dev.e2eRecord (d : Dev) (k : Packet) (st : Nat) : Dev :=
  d.upRte (fun r => { r with
    senders := tset none r.senders k.src (some (((tget none r.senders k.src).getD Sender.init).record k.seq st d.now)) })

/-- R233: a WRITE_REQ is applied at most once per (sender, sequence). -/
def Dev.writeOnce (d : Dev) (k : Packet) : Dev × Option Nat :=
  match d.e2eCheck k with
  | (d, none) => (d, none)
  | (d, some (some o)) =>
    if o = stWithdrawn then (d, none) else ((d.upRte (fun r => { r with e2eDup := satAdd 32 r.e2eDup 1 })).answer k 0x08 o 0 [], some o)
  | (d, some none) => match d.writeFirst k with | (d, st) => ((d.e2eRecord k st).answer k 0x08 st 0 [], some st)

def doWriteReq (d : Dev) (k : Packet) : Dev :=
  (d.takePkt k).twinned1 k (fun d => d.writeOnce k) (fun d o => d.answer k 0x08 o 0 [])

/-- R233: a RESP settles its request. -/
def doResp (d : Dev) (k : Packet) : Dev :=
  let d := (d.takePkt k).noteEcho k
  match d.rte.reqs.find? (fun r => r.dev == k.src && r.seq == k.seq) with
  | some r => d.settleReq r (k.arg0 % 256) k.payload
  | none => d

def Dev.reqOf (d : Dev) (dev seq : Nat) : Option Req := d.rte.reqs.find? (fun r => r.dev == dev && r.seq == seq)

/-- R233: an unanswered request is sent again. -/
def doRequestResend (d : Dev) (dev seq : Nat) : Dev :=
  match d.reqOf dev seq with
  | some r => if r.withdraw then d else d.inject r.pkt
  | none => d

/-- R166: a withdrawal on CTL. -/
def Dev.sendWithdraw (d : Dev) (k : Packet) : Dev := d.inject (d.packet 0x0A k.dst k.dstPart k.srcPart k.seq 0 k.seq 0 [])

/-- R233: after 2 s a request is withdrawn. -/
def doRequestWithdrawTimeout (d : Dev) (dev seq : Nat) : Dev :=
  match d.reqOf dev seq with
  | some r =>
    if r.withdraw then d
    else (d.upRte (fun y => { y with reqs := updWhere (fun x => x.dev == dev && x.seq == seq) (fun x => { x with withdraw := true }) y.reqs })).sendWithdraw r.pkt
  | none => d

/-- R233: 3 s after its last packet a sender's state is dropped. -/
def doSenderStateExpiry (d : Dev) (dev : Nat) : Dev := d.upRte (fun r => { r with senders := tset none r.senders dev none })

/-- R232: 50 µs without an echo. -/
def doRateLimitRaise (d : Dev) (dev : Nat) : Dev :=
  d.upRte (fun r => { r with rates := tup none r.rates dev (fun o => match o with
    | some x => if 200000 ≤ x.limit + 2000 then none else some { x with limit := x.limit + 2000 }
    | none => none) })

/-! ### DRAIN and RESUME (R237–R239) -/

/-- R238: DRAIN with epoch `e`. -/
def doDrain (d : Dev) (e : Nat) : Dev :=
  d.upRte (fun r => { r with epoch := e % 2 ^ 16, fstate := if r.fstate = 0 then 1 else r.fstate })

/-- R238 step 3: no flit outside CTL in the input buffers, none unacknowledged. -/
def Dev.drainedNow (d : Dev) : Bool :=
  (List.range 18).all (fun p =>
    let x := d.port p
    x.inBuf.all (fun kv => kv.1 == 0 || kv.2 == []) && x.partIn.all (fun kv => kv.1 == 0 || kv.2 == []) &&
    x.retry.all (fun f => f.vc == 0 || f.acked) && x.txq.all (fun f => f.vc == 0))

def doDrainComplete (d : Dev) : Dev :=
  if d.rte.fstate = 1 && d.drainedNow then (d.upRte (fun r => { r with fstate := 2 })).raiseAny 0xC4A0 else d

/-- R238 step 4: what is still held outside CTL is discarded: whole packets of the input buffers and of the output queues. -/
def doDrainTimeout (d : Dev) : Dev :=
  if d.rte.fstate = 1 then
    let n := (List.range 18).foldl (fun n p =>
      let x := d.port p
      n + x.inBuf.foldl (fun k kv => if kv.1 = 0 then k else k + kv.2.length) 0 + (x.txq.filter (fun f => f.vc != 0 && f.last)).length) 0
    let d := d.each (List.range 18) (fun d p => d.upPort p (fun x => ({ x with
      inBuf := tdrop x.inBuf (fun v => v != 0), txq := x.txq.filter (fun f => f.vc == 0) } : Port).reXoff))
    (d.upRte (fun r => { r with fstate := 3, drainDis := satAdd 32 r.drainDis n })).raiseAny 0xC4A1
  else d

/-- R239: RESUME with epoch `e`. -/
def doResume (d : Dev) (e : Nat) : Dev :=
  if d.rte.fstate = 0 || d.rte.epoch != e % 2 ^ 16 then d.upRte (fun r => { r with frefused := satAdd 8 r.frefused 1 })
  else
    let d := d.upRte (fun r => { r with prot := r.pend })
    let d := d.each (List.range 18) (fun d p =>
      if (d.port p).state = 6 && bit d.rte.prot.mask.toNat p then d.upPort p (fun x => ({ x with state := 2 } : Port).report) else d)
    let d := d.tearDown
    let d := Dev.sendSetups d.rte.runners.length d
    (d.upRte (fun r => { r with lost := [], fstate := 0 })).raiseAny 0xC4A2

/-- R237, R245: the protected registers by their offset in the window; the pending copy takes the value. -/
def Prot.put (p : Prot) (off v : Nat) : Prot :=
  let brk := (fld v 6 0, fld v 14 8, bit v 31)
  match off with
  | 0x20 => { p with mask := BitVec.ofNat 18 v }
  | 0x24 => { p with brkC := brk }
  | 0x28 => { p with brkD := brk }
  | 0x2C => { p with detA := BitVec.ofNat 8 v, detB := BitVec.ofNat 8 (v / 256) }
  | 0x30 => { p with healthA := BitVec.ofNat 64 v }
  | 0x38 => { p with healthB := BitVec.ofNat 64 v }
  | _ => p

/-- R237: a write of a protected register. -/
def doProtectedRegisterWrite (d : Dev) (off v : Nat) : Dev :=
  if d.rte.fstate = 2 || d.rte.fstate = 3 then d.upRte (fun r => { r with pend := r.pend.put off v }) else d.raiseAny 0xC4A3

end Sys2Proof.Machine
end

