-- ==== Sys2Proof/Machine/Sync.lean ====
section
/-! DEFINITION. Remote increments (R165, R166), the plain COPY (R157) with its digest (R191), and the end of a work order
(R155, R161). -/

namespace Sys2Proof.Machine

/-! ### Remote increments at the receiver (R34, R117, R124, R165) -/

/-- R34, R117, R124, R170: what an increment that reaches this device comes to. -/
def Dev.applyInc (d : Dev) (k : Packet) : Dev × Nat :=
  let n := k.arg0 % 2 ^ 14
  let c := d.counter n
  if !c.bound then (d.refuseIncr, if (d.part k.dstPart).ready then stDenied else stFenced)
  else if !(d.part c.part).ready then (d.refuseIncr, stFenced)
  else if !c.peerIncr || !d.granted c.part k.src k.srcPart || k.arg1 = 0 then (d.refuseIncr, stDenied)
  else (d.incrCounter n k.arg1, stOk)

/-- R165: applied at most once per (sender, sequence); every copy is acknowledged. -/
def doIncrPacket (d : Dev) (k : Packet) : Dev :=
  let d := d.takePkt k
  let ack := fun (d : Dev) (o : Nat) => d.answer k 0x09 k.arg0 o []
  let handle := fun (d : Dev) =>
    let x := (tget none d.syn.senders k.src).getD Sender.init
    match tget none x.seen k.seq with
    | some o =>
      if o = stWithdrawn then (ack d stUnreachable, (none : Option Nat))
      else (ack (d.upSyn (fun y => { y with dup := satAdd 64 y.dup 1 })) o, some o)
    | none =>
      if x.seen != [] && seqStale k.seq x.highest then (d.upSyn (fun y => { y with dup := satAdd 64 y.dup 1 }), none)
      else
        let (d, o) := d.applyInc k
        let d := d.upSyn (fun y => { y with senders := tset none y.senders k.src (some (x.record k.seq o d.now)) })
        (ack d o, some o)
  if 50000 < k.age then d else d.twinned1 k handle ack

/-! ### Outcomes at the sender (R166) -/

def Dev.incOf (d : Dev) (dev seq : Nat) : Option RInc := d.syn.sent.find? (fun r => r.dev == dev && r.seq == seq)

def doIncrAck (d : Dev) (k : Packet) : Dev :=
  let d := (d.takePkt k).noteEcho k
  match d.incOf k.src k.seq with
  | some r => d.settleInc r (k.arg1 % 256)
  | none => d

/-- R165: resent every 1 ms. -/
def doIncrResend (d : Dev) (dev seq : Nat) : Dev :=
  match d.incOf dev seq with
  | some r => if r.withdraw then d else d.inject r.pkt
  | none => d

/-- R166: after 2 s the sender withdraws. -/
def doIncrWithdrawTimeout (d : Dev) (dev seq : Nat) : Dev :=
  match d.incOf dev seq with
  | some r =>
    if r.withdraw then d
    else (d.upSyn (fun y => { y with
      sent := updWhere (fun x => x.dev == dev && x.seq == seq) (fun x => { x with withdraw := true }) y.sent })).sendWithdraw r.pkt
  | none => d

/-- R166, R233: a withdrawal arrives, of an increment or of a request: answered applied when the sequence was applied, else
withdrawn, and then never applied. -/
def doWithdraw (d : Dev) (req : Bool) (k : Packet) : Dev :=
  let d := d.takePkt k
  let s := k.arg0
  let x := (tget none (if req then d.rte.senders else d.syn.senders) k.src).getD Sender.init
  let put := fun (d : Dev) (y : Sender) =>
    if req then d.upRte (fun r => { r with senders := tset none r.senders k.src (some y) })
    else d.upSyn (fun r => { r with senders := tset none r.senders k.src (some y) })
  match tget none x.seen s with
  | some o =>
    if o = stOk then d.answer k 0x0B s 1 [] else d.answer k 0x0B s 0 []
  | none =>
    let d := put d (x.record s stWithdrawn d.now)
    let d := if req then d else d.upSyn (fun y => { y with withdrawn := satAdd 64 y.withdrawn 1 })
    d.answer k 0x0B s 0 []

/-- R166: an unanswered withdrawal is resent every 10 ms. -/
def doWithdrawResend (d : Dev) (req : Bool) (dev seq : Nat) : Dev :=
  if req then
    match d.reqOf dev seq with
    | some r => if r.withdraw then d.sendWithdraw r.pkt else d
    | none => d
  else
    match d.incOf dev seq with
    | some r => if r.withdraw then d.sendWithdraw r.pkt else d
    | none => d

/-- R166: the answer to a withdrawal: 0 withdrawn gives UNREACHABLE, 1 applied gives OK (of a READ_REQ, with no byte
read). -/
def doWithdrawAns (d : Dev) (req : Bool) (k : Packet) : Dev :=
  let d := d.takePkt k
  let st := if k.arg1 = 0 then stUnreachable else stOk
  if req then
    match d.reqOf k.src k.arg0 with
    | some r => d.settleReq r st []
    | none => d
  else
    match d.incOf k.src k.arg0 with
    | some r => d.settleInc r st
    | none => d

/-! ### COPY (R157, R191) -/

/-- The permission checks of a COPY's local sides: the refused address. -/
def Dev.copyDenied (d : Dev) (p src dst n : Nat) (same digest : Bool) : Option Nat :=
  let bad := fun (va need : Nat) => match (d.part p).pieces need true (pieceFuel n) va n with | .error a => some a | .ok _ => none
  let s := if d.far src then none else bad (src % 2 ^ 44) (if same && digest then 0x21 else 1)
  let t := if d.far dst || (same && digest) then none else bad (dst % 2 ^ 44) (if digest then 0x22 else 2)
  match s with | some a => some a | none => t

/-- R157: one local piece: bytes written and the piece's status. -/
def Dev.copyPiece (d : Dev) (p src dst n : Nat) (e : Ecc) : Dev × Nat :=
  match d.vaRead p src n 1 4 true e with
  | (d, .ok bs) => match d.vaWrite p dst 2 4 true bs with | (d, a) => (d, a.status)
  | (d, a) => (d, a.status)

/-- R157: the pieces of a local COPY: bytes written, status of the first piece that failed. -/
def Dev.copyLocal (p src dst : Nat) (e : Ecc) : List (Nat × Nat) → Dev → Nat → Nat → Dev × Nat × Nat
  | [], d, b, st => (d, b, st)
  | (o, n) :: l, d, b, st =>
    match d.copyPiece p (src + o) (dst + o) n e with
    | (d, x) => Dev.copyLocal p src dst e l d (if x = stOk then b + n else b) (if st = stOk then x else st)

/-- R157, R233: the pieces of a COPY with one side on a peer. The destination partition of such a request is a free value: the
spec gives a COPY no partition for it. -/
def Dev.copyFar (d : Dev) (f : Flight) (src dst : Nat) (e : Ecc) : Dev :=
  let ps := copyPieces f.wo
  let (v, d) := d.draw 4
  let d := d.upFlight f.queue f.index (fun x => { x with pieces := ps.length })
  d.each ps.zipIdx (fun d ((o, n), i) =>
    let tseq := (f.twBase + i) % 2 ^ 32
    if d.far src then
      d.sendWork f.queue f.index tseq (dst % 2 ^ 44 + o)
        (d.packet 0x01 (src / 2 ^ 44) v.toNat f.part 0 (src % 2 ^ 44 + o) n 0 [])
    else
      match d.vaRead f.part (src % 2 ^ 44 + o) n 1 4 true e with
      | (d, .ok bs) =>
        d.sendWork f.queue f.index tseq 0 (d.packet 0x02 (dst / 2 ^ 44) v.toNat f.part 0 (dst % 2 ^ 44 + o) 0 0 bs)
      | (d, a) => d.pieceDone f.queue f.index a.status n)

/-- R157: a COPY without conversion. -/
def Dev.copy (d : Dev) (q i : Nat) (digest : Bool) (e : Ecc) : Dev :=
  match d.take q i 0x02 with
  | none => d
  | some f =>
    if woFmtA f.wo != 0 || bit (woFlags f.wo) 4 != digest then d
    else
      let src := woOpd f.wo 0 8
      let dst := woOpd f.wo 8 8
      let n := woOpd f.wo 16 4
      let d := d.startWork q i
      if digest && d.nmuBad f.part then d.endWork q i stShort 0 0
      else match d.copyDenied f.part src dst n (src == dst) digest with
      | some a => (d.denyPage a).endWork q i stDenied 0 0
      | none =>
        if n = 0 || (digest && src == dst) then d.endWork q i stOk 0 0
        else if d.far src || d.far dst then d.copyFar f src dst e
        else
          match Dev.copyLocal f.part (src % 2 ^ 44) (dst % 2 ^ 44) e (copyPieces f.wo) d 0 stOk with
          | (d, b, st) => d.endWork q i st 0 b

def doCopy (d : Dev) (q i : Nat) (e : Ecc) : Dev := d.copy q i false e
def doDigestCopy (d : Dev) (q i : Nat) (e : Ecc) : Dev := d.copy q i true e

/-- R191, R192: a digesting COPY whose bytes are written digests its destination; with a destination on a peer, the same bytes
are digested at their source. A COPY that failed frees its slot. -/
def Dev.digestEnd (d : Dev) (f : Flight) (e : Ecc) : Dev :=
  if f.region = 64 then d
  else if f.final != stOk && f.final != stSat then d.upRegion f.part f.region (fun _ => Region.init)
  else
    let dst := woOpd f.wo 8 8
    let n := if woFmtA f.wo = 0 then woOpd f.wo 16 4 else tensorBytes (woFmtB f.wo) (woOpd f.wo 16 4)
    if d.far dst then
      match d.vaRead f.part (woOpd f.wo 0 8 % 2 ^ 44) n 1 4 true e with
      | (d, .ok bs) => d.upRegion f.part f.region (fun _ =>
          { digest := rangeDigest bs, addr := dst % 2 ^ 44, length := n, valid := true, stale := false, busy := false })
      | (d, a) => (d.upRegion f.part f.region (fun _ => Region.init)).upFlight f.queue f.index (fun x => { x with status := some a.status })
    else
      match d.digestInto f.part f.region (dst % 2 ^ 44) n e with
      | (d, .ok _) => d
      | (d, a) => d.upFlight f.queue f.index (fun x => { x with status := some a.status })

/-! ### The end of a work order (R155, R161) -/

/-- R153: a remote entry that R153 makes invalid is not issued. -/
def remoteOk (e : Nat) : Bool := sigAmount e != 0 && fld e 39 36 == 0

/-- R155: issues increment entry `k` of a flight; the number of its packet within the work order's block is `j` (R375). -/
def Dev.issueSig (d : Dev) (f : Flight) (k j : Nat) : Dev :=
  let e := woSig f.wo k
  let put := fun (d : Dev) (o : Nat) => d.upFlight f.queue f.index (fun x => if k = 0 then { x with out0 := o } else { x with out1 := o })
  if !entryValid e || !f.issues then put d stNotIssued
  else if sigRemote e then
    if !remoteOk e then put d stNotIssued
    else
      let (v, d) := d.draw 4
      (put d stAwaited).sendWorkInc f.queue f.index k ((f.twBase + j) % 2 ^ 32)
        (d.packet 0x03 (sigDevice e) v.toNat f.part 0 0 (entryCounter e) (sigAmount e) [])
  else
    match d.localIncr f.part e with
    | (d, o) => put d o

/-- R155, R377: both entries, then the end of the work order's range. -/
def Dev.issueAll (d : Dev) (f : Flight) : Dev :=
  let c := d.impliedPackets f.wo - ([woSig f.wo 0, woSig f.wo 1].filter (fun e => entryValid e && sigRemote e)).length
  let d := d.upFlight f.queue f.index (fun x => { x with issued := true })
  let d := d.issueSig f 0 c
  let d := d.issueSig f 1 (if entryValid (woSig f.wo 0) && sigRemote (woSig f.wo 0) then c + 1 else c)
  if f.queue = ctlQ then d else d.closeRange f.part f.queue (some f.final)

/-- R155: once its unit has ended, a work order's increments are issued; once every outcome is in, its record is written. -/
def doWorkOrderComplete (d : Dev) (q i : Nat) (e : Ecc) : Dev :=
  match d.flight q i with
  | none => d
  | some f =>
    if f.status.isNone then d
    else
      let d := if f.issued then d else
        let d := d.digestEnd f e
        d.issueAll ((d.flight q i).getD f)
      match d.flight q i with
      | some f => if f.out0 = stAwaited || f.out1 = stAwaited then d else d.writeRecord f
      | none => d

end Sys2Proof.Machine
end

