-- ==== Sys2Proof/Machine/Mould.lean ====
section
/-! DEFINITION. The mould file and the checks of the first pass (R112–R133): sections, entries, errors. -/

namespace Sys2Proof.Machine

/-! ### The file (R112–R116) -/

def mFlags (m : Bytes) : Nat := le m 8 4
def mSigned (m : Bytes) : Bool := bit (mFlags m) 0
def mConf (m : Bytes) : Bool := bit (mFlags m) 1
def mFull (m : Bytes) : Bool := bit (mFlags m) 2
def mOnly (m : Bytes) : Bool := bit (mFlags m) 3
def mSlot (m : Bytes) : Nat := le m 14 1
def mSize (m : Bytes) : Nat := le m 16 8

/-- R112: bytes of the signature trailer. -/
def trailerLen : Nat := 7856

/-- R114: the digest of an image. -/
def mDigest (m : Bytes) : Nat :=
  sha256 (m.take 24 ++ List.replicate 32 0 ++ (m.take (mSize m)).drop 56)

/-- R115: a section table entry with its section's bytes. -/
structure Sect where
  ty    : Nat
  ver   : Nat
  count : Nat
  off   : Nat
  len   : Nat
  raw   : Bytes
deriving DecidableEq, Repr

def mSects (m : Bytes) : List Sect :=
  (List.range (min 12 (le m 12 2))).map (fun i =>
    let e := slice m (128 + 32 * i) 32
    let off := le e 8 8
    let len := le e 16 8
    { ty := le e 0 2, ver := le e 2 2, count := le e 4 4, off := off, len := len, raw := (m.drop off).take len })

/-- R116: bytes of one entry. -/
def entryLen : Nat → Nat
  | 0x01 => 64 | 0x02 => 136 | 0x03 => 32 | 0x04 => 176 | 0x05 => 16 | 0x06 => 32 | 0x07 => 16 | 0x08 => 8 | 0x09 => 32
  | 0x0A => 64 | 0x0B => 8 | 0x0C => 16 | _ => 0

def mSect (m : Bytes) (ty : Nat) : Option Sect := (mSects m).find? (fun s => s.ty == ty)

/-- The entries of a section with their indices. -/
def mEntries (m : Bytes) (ty : Nat) : List (Nat × Bytes) :=
  match mSect m ty with
  | some s => (chunksOf (entryLen ty) s.count s.raw).zipIdx.map (fun (b, i) => (i, b))
  | none => []

/-- R133: an error: code, section type, entry index (bit 31: what is missing). -/
structure MErr where
  code : Nat
  sect : Nat
  idx  : Nat
deriving DecidableEq, Repr

/-- R133: `a` is reported rather than `b`. -/
def MErr.before (a b : MErr) : Bool :=
  decide (a.code < b.code) || (a.code == b.code && (decide (a.sect < b.sect) || (a.sect == b.sect && decide (a.idx < b.idx))))

/-- R133: the error reported. -/
def mWorst : List MErr → Option MErr
  | [] => none
  | e :: l => match mWorst l with | some x => if e.before x then some e else some x | none => some e

def errIf (b : Bool) (code sect idx : Nat) : List MErr := if b then [⟨code, sect, idx⟩] else []

/-- R112: reserved bytes that are not zero. -/
def rsvBad (e : Bytes) (l : List (Nat × Nat)) : Bool := l.any (fun (a, b) => !allZero (slice e a (b + 1 - a)))

/-- R133: the status of an error. -/
def mStatus (code : Nat) : Nat :=
  if code = 0x0103 || code = 0x0602 || code = 0x0E01 || code = 0x0E03 then stBusy
  else if code = 0x0104 || code = 0x0202 then stShort
  else if code = 0x0E02 || code = 0x0E05 then stUnreachable
  else stMould

/-! ### Entries -/

/-- R117. -/
structure PEnt where
  ix : Nat
  part : Nat
  flags : Nat
  stk : Nat
  clusters : Nat
  seed : Nat
  lo : Nat
  hi : Nat
  pp : Nat
  raw : Bytes
deriving DecidableEq, Repr

def mParts (m : Bytes) : List PEnt :=
  (mEntries m 0x01).map (fun (i, e) =>
    { ix := i, part := le e 0 1, flags := le e 1 1, stk := le e 2 2, clusters := le e 8 8, seed := le e 16 8, lo := le e 24 4,
      hi := le e 28 4, pp := le e 32 1, raw := e })

def mPart (m : Bytes) (p : Nat) : Option PEnt := if p < 16 then (mParts m).find? (fun x => x.part == p) else none

/-- R119. -/
structure GEnt where
  ix : Nat
  group : Nat
  part : Nat
  cells : Nat
  raw : Bytes
deriving DecidableEq, Repr

def mGroups (m : Bytes) : List GEnt :=
  (mEntries m 0x02).map (fun (i, e) => { ix := i, group := le e 0 2, part := le e 2 1, cells := le e 8 128, raw := e })

/-- Bits of cell numbers, as a list. -/
def cellsOf (v : Nat) : List Nat := bitsOf 1024 v

/-- R119: the used cells of partition p, as a mask. -/
def mUsed (m : Bytes) (p : Nat) : Nat := ((mGroups m).filter (fun g => g.part == p)).foldl (fun a g => Nat.lor a g.cells) 0

/-- R120. -/
structure SEnt where
  ix : Nat
  chan : Nat
  cell : Nat
  port : Nat
  n : Nat
  dst : List (Nat × Nat)
  raw : Bytes
deriving DecidableEq, Repr

def mStreams (m : Bytes) : List SEnt :=
  (mEntries m 0x03).map (fun (i, e) =>
    let n := le e 5 1
    { ix := i, chan := le e 0 2, cell := le e 2 2, port := le e 4 1, n := n,
      dst := (List.range (min n 8)).map (fun k => (le e (8 + 3 * k) 2, le e (10 + 3 * k) 1)), raw := e })

/-- R121. -/
structure TEnt where
  ix : Nat
  pat : Nat
  part : Nat
  length : Nat
  off : Nat
  cells : Nat
  raw : Bytes
deriving DecidableEq, Repr

def mPats (m : Bytes) : List TEnt :=
  (mEntries m 0x04).map (fun (i, e) =>
    { ix := i, pat := le e 0 2, part := le e 2 1, length := le e 4 2, off := le e 16 4, cells := le e 48 128, raw := e })

/-- R121: the instruction words of a pattern. -/
def mCode (m : Bytes) (t : TEnt) : List Nat :=
  match mSect m 0x04 with
  | some s => (chunksOf 16 t.length (slice s.raw t.off (16 * t.length))).map ofLe
  | none => []

/-- R122. -/
structure VEnt where
  ix : Nat
  vpage : Nat
  part : Nat
  perm : Nat
  ppage : Nat
  raw : Bytes
deriving DecidableEq, Repr

def mPages (m : Bytes) : List VEnt :=
  (mEntries m 0x05).map (fun (i, e) =>
    { ix := i, vpage := le e 0 4 % 2 ^ 23, part := le e 4 1, perm := le e 5 1, ppage := le e 8 4, raw := e })

def shelfPage0 : Nat := shelfBase / 0x200000
def hbmPages : Nat := hbmEnd / 0x200000

/-- R123. -/
structure QEnt where
  ix : Nat
  queue : Nat
  part : Nat
  prio : Nat
  log2 : Nat
  ring : Nat
  compl : Nat
  raw : Bytes
deriving DecidableEq, Repr

def mQueues (m : Bytes) : List QEnt :=
  (mEntries m 0x06).map (fun (i, e) =>
    { ix := i, queue := le e 0 2, part := le e 2 1, prio := le e 3 1, log2 := le e 4 1, ring := le e 8 8, compl := le e 16 8, raw := e })

/-- R124. -/
structure CEnt where
  ix : Nat
  counter : Nat
  part : Nat
  flags : Nat
  initial : Nat
  raw : Bytes
deriving DecidableEq, Repr

def mCounters (m : Bytes) : List CEnt :=
  (mEntries m 0x07).map (fun (i, e) =>
    { ix := i, counter := le e 0 2, part := le e 2 1, flags := le e 3 1, initial := le e 8 8, raw := e })

/-- R125. -/
structure EEnt where
  ix : Nat
  source : Nat
  part : Nat
  queue : Nat
  holdoff : Nat
  flags : Nat
  raw : Bytes
deriving DecidableEq, Repr

def mEvents (m : Bytes) : List EEnt :=
  (mEntries m 0x08).map (fun (i, e) =>
    { ix := i, source := le e 0 2, part := le e 2 1, queue := le e 3 1, holdoff := le e 4 2, flags := le e 6 1, raw := e })

/-- R126. -/
structure REnt where
  ix : Nat
  runner : Nat
  part : Nat
  share : Nat
  dst : Nat
  dstPart : Nat
  pred0 : Nat
  pred1 : Nat
  raw : Bytes
deriving DecidableEq, Repr

def mRunners (m : Bytes) : List REnt :=
  (mEntries m 0x09).map (fun (i, e) =>
    { ix := i, runner := le e 0 2, part := le e 2 1, share := le e 4 2, dst := le e 8 4 % 2 ^ 20, dstPart := le e 12 1,
      pred0 := le e 16 2, pred1 := le e 18 2, raw := e })

/-- R128. -/
structure LEnt where
  ix : Nat
  plan : Nat
  part : Nat
  fmt : Nat
  members : Nat
  self : Nat
  dims : Nat
  flags : Nat
  stall : Nat
  sizes : List Nat
  order : List Nat
  list : Nat
  raw : Bytes
deriving DecidableEq, Repr

def mPlans (m : Bytes) : List LEnt :=
  (mEntries m 0x0A).map (fun (i, e) =>
    { ix := i, plan := le e 0 2, part := le e 2 1, fmt := le e 3 1, members := le e 4 4, self := le e 8 4, dims := le e 12 1,
      flags := le e 13 1, stall := le e 14 2, sizes := (List.range 4).map (fun k => le e (16 + 4 * k) 4),
      order := (List.range 4).map (fun k => le e (32 + k) 1), list := le e 40 8, raw := e })

/-- R128: the member list as 32-bit words. -/
def mMembers (m : Bytes) (l : LEnt) : List Nat :=
  match mSect m 0x0A with
  | some s => (chunksOf 4 l.members (slice s.raw l.list (4 * l.members))).map ofLe
  | none => []

/-- R129: (index, partition, share, bytes). -/
def mPower (m : Bytes) : List (Nat × Nat × Nat × Bytes) := (mEntries m 0x0B).map (fun (i, e) => (i, le e 0 1, le e 2 2, e))

/-- R130: (scope, partitions, digest_bytes) of the TWIN section. -/
def mTwin (m : Bytes) : Option (Nat × Nat × Nat) := ((mEntries m 0x0C).head?).map (fun (_, e) => (le e 0 1, le e 2 2, le e 4 4))

/-! ### Checks of the header and the section table -/

/-- What the checks look at: the device, its owner fuses, and what the POUR names. -/
structure MCtx where
  d      : Dev
  o      : OwnerFuses
  swap   : Bool
  part   : Nat      -- a swap's partition
  mask   : Nat
  length : Nat

def slotHash (o : OwnerFuses) (s : Nat) : Nat :=
  match s with
  | 0 => o.hash0.toNat | 1 => o.hash1.toNat | 2 => o.hash2.toNat | _ => o.hash3.toNat

/-- R394: the confidential flag in effect. -/
def mConfNow (c : MCtx) (m : Bytes) : Bool := mConf m || c.o.conf == 1

def chkHeader (c : MCtx) (m : Bytes) : List MErr :=
  let size := mSize m
  let signed := mSigned m
  let pol := c.d.sec.policy
  let s := mSlot m
  let dig := mDigest m
  errIf (le m 0 4 != 0x444D594B) 0x0001 0 0 ++
  errIf (le m 5 1 != 1 || le m 4 1 != 0) 0x0002 0 0 ++
  errIf (le m 6 2 != 0x9160) 0x0003 0 0 ++
  errIf (decide (size < 8192) || decide (134217728 < size) || size % 4096 != 0 ||
    size + (if signed then trailerLen else 0) != c.length || m.length != c.length) 0x0004 0 0 ++
  errIf (mFlags m / 16 != 0 || le m 15 1 != 0 || rsvBad m [(96, 127), (512, 4095)] || (mFull m && mOnly m) ||
    (!signed && s != 0) || (!mOnly m && !allZero (slice m 56 32)) || c.swap != mOnly m) 0x0006 0 0 ++
  errIf (dig != le m 24 32) 0x0007 0 0 ++
  errIf (!signed && (pol != 0 || mConfNow c m)) 0x0008 0 0 ++
  errIf (signed && (decide (3 < s) || !bit c.o.enrolled.toNat s || bit c.o.revoked.toNat s || (pol == 2 && !bit c.d.sec.slots.toNat s))) 0x0009 0 0 ++
  errIf (signed && !Config.slhVerify (slotHash c.o s) (leBytes 32 dig) (slice m size trailerLen)) 0x000A 0 0 ++
  errIf (mOnly m && c.swap && le m 56 32 != (c.d.part c.part).digest) 0x000B 0 0

/-- R115, R116: the table; the ends of earlier sections bound the later ones. -/
def chkTable (m : Bytes) : List MErr :=
  let n := le m 12 2
  let ss := mSects m
  let size := mSize m
  let rows := ss.zipIdx.flatMap (fun (s, i) =>
    let prev := ss.take i
    let low := prev.foldl (fun a x => max a (x.off + x.len)) 4096
    let before := prev.foldl (fun a x => max a x.ty) 0
    errIf (rsvBad (slice m (128 + 32 * i) 32) [(24, 31)]) 0x0006 0 i ++
    errIf (decide (s.ty ≤ before) || decide (0x0C < s.ty) || s.ver != 1 || s.off % 4096 != 0 || decide (s.off < low) ||
      decide (size < s.off + s.len) || decide (s.len < entryLen s.ty * s.count)) 0x0005 0 i)
  let have_ := fun t => ss.any (fun s => s.ty == t)
  errIf (decide (n < 1) || decide (12 < n)) 0x0005 0 0 ++ rows ++
  ((List.range 12).flatMap (fun i => errIf (decide (n ≤ i) && !allZero (slice m (128 + 32 * i) 32)) 0x0006 0 i)) ++
  errIf (if mOnly m then !(ss.length == 1 && have_ 4) else !([1, 2, 4, 5, 6].all have_)) 0x0005 0 n

/-! ### Checks of the sections -/

/-- R217: the box admits a device other than this one. -/
def admitsOther (own lo hi : Nat) : Bool :=
  let cs := fun (x : Nat) => [devA x, devB x, devC x, devD x]
  !((cs lo).zip (cs hi)).any (fun (a, b) => decide (b < a)) && !(cs lo == cs own && cs hi == cs own)

def outsideParts (c : MCtx) : List Nat := parts16.filter (fun p => (c.d.part p).poured && !bit c.mask p)

def chkParts (c : MCtx) (m : Bytes) : List MErr :=
  let ps := mParts m
  let outC := (outsideParts c).foldl (fun a p => Nat.lor a (c.d.part p).clusters.toNat) 0
  let outS := (outsideParts c).foldl (fun a p => Nat.lor a (c.d.part p).stackSet.toNat) 0
  let bad := (List.range 16).foldl (fun a s => if (c.d.stack s).state == 4 || bit c.d.cat.nmuFail.toNat s then a + 2 ^ s else a) 0
  let allS := ps.foldl (fun a x => Nat.lor a x.stk) 0
  let miss := (List.range 16).filter (fun s => !bit allS s)
  let lack := parts16.filter (fun p => bit c.mask p && !ps.any (fun x => x.part == p))
  ps.flatMap (fun x =>
    let prev := ps.take x.ix
    errIf (rsvBad x.raw [(4, 7), (33, 63)] || x.flags / 2 != 0) 0x0006 1 x.ix ++
    errIf (decide (15 < x.part) || prev.any (fun y => y.part == x.part) || !bit c.mask x.part) 0x0101 1 x.ix ++
    errIf (x.stk == 0 || x.clusters == 0 || prev.any (fun y => Nat.land y.stk x.stk != 0 || Nat.land y.clusters x.clusters != 0))
      0x0102 1 x.ix ++
    errIf (Nat.land x.stk outS != 0 || Nat.land x.clusters outC != 0) 0x0103 1 x.ix ++
    errIf (Nat.land x.stk bad != 0) 0x0104 1 x.ix) ++
  (match lack with | p :: _ => [⟨0x0101, 1, 2 ^ 31 + p⟩] | [] => []) ++
  (match miss with | s :: _ => errIf (mFull m) 0x0102 1 (2 ^ 31 + s) | [] => [])

/-- R119, R357: the logical cell would be absent once its cluster has left its present partition. -/
def Dev.absentAfter (d : Dev) (n : Nat) : Bool := ((d.clusterFree (n / 16)).slotOf n).isNone

def chkGroups (c : MCtx) (m : Bytes) : List MErr :=
  let gs := mGroups m
  gs.flatMap (fun g =>
    let cl := match mPart m g.part with | some x => x.clusters | none => 0
    let bad := decide (1023 < g.group) || (gs.take g.ix).any (fun h => h.group == g.group) || g.cells == 0 ||
      (cellsOf g.cells).any (fun n => !bit cl (n / 16))
    errIf (rsvBad g.raw [(3, 7)]) 0x0006 2 g.ix ++
    errIf bad 0x0201 2 g.ix ++
    errIf (!bad && (cellsOf g.cells).any (fun n => c.d.absentAfter n)) 0x0202 2 g.ix)

/-- R120: the directed mesh links of quadrant q from cluster a to cluster b: the row first, then the column. `fuel`: 8. -/
def meshPath (q : Nat) : Nat → Nat → Nat → List Nat
  | 0, _, _ => []
  | fuel + 1, a, b =>
    if a = b then []
    else
      let n := if a % 4 < b % 4 then a + 1 else if b % 4 < a % 4 then a - 1 else if a < b then a + 4 else a - 4
      (q * 256 + a * 16 + n) :: meshPath q fuel n b

/-- R120: where the bridge that changes bit `i` of q meets the mesh. -/
def meetAt (q i : Nat) : Nat := if i = 0 then (if bit q 0 then 4 else 7) else (if bit q 1 then 1 else 13)

/-- R21, R120: the mesh links and bridges of one route; bridges are 1,024 + 4q + q'. -/
def streamRoute (a b : Nat) : List Nat :=
  if a / 16 = b / 16 then []
  else
    let hop := fun (st : Nat × Nat × List Nat) (i : Nat) =>
      let (q, k, l) := st
      if bit (Nat.xor q (b / 256)) i then
        let q2 := Nat.xor q (2 ^ i)
        (q2, meetAt q2 i, l ++ meshPath q 8 k (meetAt q i) ++ [1024 + 4 * q + q2])
      else st
    let (q, k, l) := hop (hop (a / 256, a / 16 % 16, []) 0) 1
    l ++ meshPath q 8 k (b / 16 % 16)

def chkStreams (m : Bytes) : List MErr :=
  let ss := mStreams m
  let ownerOf := fun n => parts16.find? (fun p => (mPart m p).isSome && bit (mUsed m p) n)
  let bad := fun (s : SEnt) =>
    let prev := ss.take s.ix
    decide (4095 < s.chan) || prev.any (fun y => y.chan == s.chan) || s.n == 0 || decide (8 < s.n) || decide (3 < s.port) ||
    s.dst.any (fun x => decide (3 < x.2)) || (ownerOf s.cell).isNone || s.dst.any (fun x => ownerOf x.1 != ownerOf s.cell) ||
    prev.any (fun y => (y.cell, y.port) == (s.cell, s.port)) || s.dst.eraseDups.length != s.dst.length ||
    s.dst.any (fun x => prev.any (fun y => y.dst.contains x))
  let links := fun (s : SEnt) => (s.dst.flatMap (fun x => streamRoute s.cell x.1)).eraseDups
  ss.flatMap (fun s => errIf (rsvBad s.raw [(6, 7)] || (decide (s.n ≤ 8) && rsvBad s.raw [(8 + 3 * s.n, 31)])) 0x0006 3 s.ix ++
    errIf (bad s) 0x0301 3 s.ix) ++
  (ss.foldl (fun (st : Tab Nat × List MErr) s =>
    if bad s then st
    else
      let t := (links s).foldl (fun t l => tset 0 t l (tget 0 t l + 1)) st.1
      (t, st.2 ++ errIf ((links s).any (fun l => tget 0 t l == 65)) 0x0302 3 s.ix)) ([], [])).2

def chkPages (c : MCtx) (m : Bytes) : List MErr :=
  let vs := mPages m
  let outside := (outsideParts c).flatMap (fun p => (c.d.part p).pages.filterMap (fun kv =>
    match kv.2 with | some g => if shelfPage0 ≤ kv.1 then some g.ppage else none | none => none))
  let isShelf := fun v => decide (shelfPage0 ≤ v) && decide (v < shelfPage0 + 512)
  errIf (decide (786432 < vs.length)) 0x0501 5 786432 ++
  vs.flatMap (fun v =>
    let prev := vs.take v.ix
    let dup := prev.any (fun y => y.part == v.part && y.vpage == v.vpage)
    let ok := match mPart m v.part with
      | none => false
      | some x =>
        if v.vpage < hbmPages then decide (v.ppage < 49152 * (bitsOf 16 x.stk).length)
        else isShelf v.vpage && isShelf v.ppage && !outside.contains v.ppage &&
          !prev.any (fun y => isShelf y.vpage && y.ppage == v.ppage && y.part != v.part)
    errIf (rsvBad v.raw [(6, 7), (12, 15)] || le v.raw 0 4 / 2 ^ 23 != 0) 0x0006 5 v.ix ++
    errIf dup 0x0501 5 v.ix ++ errIf (!dup && !ok) 0x0502 5 v.ix)

/-- R123: the bytes lie wholly in pages mapped with local read and local write. -/
def mMapped (vs : List VEnt) (p va n : Nat) : Bool :=
  decide (va + n ≤ 2 ^ 44) &&
  (List.range ((va + n - 1) / 0x200000 + 1 - va / 0x200000)).all (fun k =>
    vs.any (fun v => v.part == p && v.vpage == va / 0x200000 + k && v.perm % 4 == 3))

def chkQueues (c : MCtx) (m : Bytes) : List MErr :=
  let qs := mQueues m
  let vs := mPages m
  qs.flatMap (fun q =>
    let busy := (mPart m q.part).isNone || ((c.d.queue q.queue).bound && !bit c.mask (c.d.queue q.queue).part)
    errIf (rsvBad q.raw [(5, 7), (24, 31)]) 0x0006 6 q.ix ++
    errIf busy 0x0602 6 q.ix ++
    errIf (decide (32767 < q.queue) || (qs.take q.ix).any (fun y => y.queue == q.queue) || decide (3 < q.prio) || decide (q.log2 < 6) ||
      decide (16 < q.log2) || q.ring % 64 != 0 || q.compl % 32 != 0 || !mMapped vs q.part q.ring (64 * 2 ^ (q.log2 % 32)) ||
      !mMapped vs q.part q.compl (32 * 2 ^ (q.log2 % 32))) 0x0601 6 q.ix)

def chkCounters (c : MCtx) (m : Bytes) : List MErr :=
  let cs := mCounters m
  cs.flatMap (fun x =>
    errIf (rsvBad x.raw [(4, 7)] || x.flags / 4 != 0) 0x0006 7 x.ix ++
    errIf (decide (16383 < x.counter) || (cs.take x.ix).any (fun y => y.counter == x.counter) || (mPart m x.part).isNone ||
      ((c.d.counter x.counter).bound && !bit c.mask (c.d.counter x.counter).part)) 0x0701 7 x.ix)

/-- R125: a source of a queue, counter or plan that the mould binds to partition p. -/
def mVia (m : Bytes) (p s : Nat) : Bool :=
  if s < 0x8000 then (mQueues m).any (fun q => q.part == p && q.queue == s)
  else if s < 0xC000 then (mCounters m).any (fun x => x.part == p && x.counter == s - 0x8000)
  else if s < 0xC400 then (mPlans m).any (fun l => l.part == p && l.plan == s - 0xC000)
  else false

def chkEvents (c : MCtx) (m : Bytes) : List MErr :=
  let es := mEvents m
  es.flatMap (fun e =>
    let prev := es.take e.ix
    errIf (rsvBad e.raw [(7, 7)] || e.flags / 2 != 0) 0x0006 8 e.ix ++
    errIf ((mPart m e.part).isNone || shellSrc e.source || decide (e.queue < 8) || decide (63 < e.queue) ||
      (decide (e.source < 0xD800) && !mVia m e.part e.source) || prev.any (fun y => y.source == e.source) ||
      prev.any (fun y => y.queue == e.queue && y.part != e.part) ||
      (outsideParts c).any (fun p => p != e.part && tget none c.d.evc.qPart e.queue == some p) ||
      ((c.d.src e.source).bound && !bit c.mask (c.d.src e.source).part) ||
      prev.any (fun y => y.source / 256 == e.source / 256 && y.holdoff != e.holdoff)) 0x0801 8 e.ix)

/-- R126: whether a chain of predecessors starting at runner r comes back to it. `fuel`: the number of runners. -/
def runCycle (rs : List REnt) (r : Nat) : Nat → Nat → Bool
  | 0, _ => false
  | fuel + 1, x =>
    match rs.find? (fun y => y.runner == x) with
    | some y => [y.pred0, y.pred1].any (fun p => p != 0xFFFF && (p == r || runCycle rs r fuel p))
    | none => false

/-- R126: the share that runners of partitions outside the pour keep on a port at the next RESUME. -/
def keptShare (c : MCtx) (port : Nat) : Nat :=
  c.d.rte.runners.foldl (fun n kv => match kv.2 with
    | some r => if r.loc && !r.remove && !bit c.mask r.part && r.egress == port then n + r.share else n
    | none => n) 0

def chkRunners (c : MCtx) (m : Bytes) : List MErr :=
  let rs := mRunners m
  let eg := fun (r : REnt) => runEgress c.d.rte.devId r.dst
  rs.flatMap (fun r =>
    let prev := rs.take r.ix
    let known := fun p => p == 0xFFFF || rs.any (fun y => y.runner == p)
    let sum := (prev.filter (fun y => eg y == eg r)).foldl (fun n y => n + y.share) (keptShare c (eg r))
    errIf (rsvBad r.raw [(3, 3), (6, 7), (13, 15), (20, 31)] || le r.raw 8 4 / 2 ^ 20 != 0) 0x0006 9 r.ix ++
    errIf (prev.any (fun y => y.runner == r.runner) || (mPart m r.part).isNone || !known r.pred0 || !known r.pred1 ||
      runCycle rs r.runner rs.length r.runner) 0x0901 9 r.ix ++
    errIf (r.share == 0 || decide (192 < r.share) ||
      (eg r != 31 && decide (sum ≤ 192) && decide (192 < sum + r.share))) 0x0902 9 r.ix)

def chkPlans (c : MCtx) (m : Bytes) : List MErr :=
  let ls := mPlans m
  errIf (decide (1024 < ls.length)) 0x0A01 10 1024 ++
  ls.flatMap (fun l =>
    let ws := mMembers m l
    let dims := l.sizes.take l.dims
    let ord := l.order.take l.dims
    let shape := decide (1023 < l.plan) || (ls.take l.ix).any (fun y => y.plan == l.plan) || (mPart m l.part).isNone ||
      (match c.d.plan l.plan with | some pl => !bit c.mask pl.part | none => false) ||
      (l.fmt != 0x30 && l.fmt != 0x32) || decide (l.members < 2) || decide (1048576 < l.members) || l.dims == 0 || decide (4 < l.dims) ||
      l.stall == 0 || decide (l.members ≤ l.self) || dims.foldl (· * ·) 1 != l.members || (l.sizes.drop l.dims).any (· != 0) ||
      (l.order.drop l.dims).any (· != 0xFF) || ord.any (fun x => decide (3 < x)) || ord.eraseDups.length != ord.length
    let fits := match mSect m 0x0A with | some s => l.list % 16 == 0 && decide (l.list + 4 * l.members ≤ s.len) | none => false
    let box : Part := match mPart m l.part with
      | some x => { Part.init with peerLo := x.lo, peerHi := x.hi, peerPart := x.pp } | none => Part.init
    let own := c.d.rte.devId
    errIf (rsvBad l.raw [(36, 39), (48, 63)] || l.flags / 8 != 0 || (!shape && fits && ws.any (fun w => w / 2 ^ 24 != 0))) 0x0006 10 l.ix ++
    errIf (!shape && !fits) 0x0005 10 l.ix ++
    errIf (shape || (fits &&
      ((ws.map (· % 2 ^ 24)).eraseDups.length != l.members || ws.getD l.self 0 % 2 ^ 24 != own + l.part * 2 ^ 20 ||
       ws.zipIdx.any (fun (w, k) => k != l.self && w % 2 ^ 20 != own &&
         !(box.inBox (w % 2 ^ 20) && (box.peerPart == 0xFF || box.peerPart == fld w 23 20)))))) 0x0A01 10 l.ix)

def chkPower (c : MCtx) (m : Bytes) : List MErr :=
  let kept := (outsideParts c).foldl (fun n p => n + (c.d.part p).share) 0
  ((mPower m).foldl (fun (st : Nat × List MErr) (i, p, s, e) =>
    (st.1 + s, st.2 ++ errIf (rsvBad e [(1, 1), (4, 7)]) 0x0006 11 i ++
      errIf ((mPart m p).isNone || (decide (st.1 ≤ 1024) && decide (1024 < st.1 + s))) 0x0B01 11 i)) (kept, [])).2

def chkTwin (m : Bytes) : List MErr :=
  match mSect m 0x0C with
  | none => []
  | some s =>
    let mine := (mParts m).foldl (fun a x => Nat.lor a (2 ^ x.part)) 0
    errIf (s.count != 1) 0x0C01 12 0 ++
    (mEntries m 0x0C).flatMap (fun (i, e) =>
      let sc := le e 0 1
      let ps := le e 2 2
      let db := le e 4 4
      errIf (rsvBad e [(1, 1), (8, 15)]) 0x0006 12 i ++
      errIf ((sc != 1 && sc != 2) || db == 0 || db % 4096 != 0 || (sc == 2 && (!mFull m || ps != 0)) ||
        (sc == 1 && (ps == 0 || Nat.land ps mine != ps))) 0x0C01 12 i)

/-- R121: INCR and RAISE name bindings of the partition; `cnt` and `src` decide. -/
def refBad (cnt src : Nat → Bool) (w : Nat) : Bool :=
  let (op, o) := decodeIns w
  (op == 0x06 && !cnt o.opd0) || (op == 0x07 && !src o.opd0)

/-- R121: patterns; `used p` is the mask of the used cells of partition p. -/
def chkPats (m : Bytes) (swap : Bool) (used : Nat → Nat) (cnt src : Nat → Nat → Bool) : List MErr :=
  let ts := mPats m
  let room := fun (t : TEnt) => match mSect m 0x04 with
    | some s => t.off % 16 == 0 && decide (176 * s.count ≤ t.off) && decide (t.off + 16 * t.length ≤ s.len) | none => false
  let got := ts.foldl (fun a t => Nat.lor a t.cells) 0
  let want := parts16.foldl (fun a p => Nat.lor a (used p)) 0
  let lack := (List.range 1024).filter (fun n => bit want n && !bit got n)
  ts.flatMap (fun t =>
    let prev := ts.take t.ix
    let shape := prev.any (fun y => y.pat == t.pat) || t.length == 0 || decide (4096 < t.length)
    let ok := !shape && room t
    let code := if ok then mCode m t else []
    errIf (rsvBad t.raw [(3, 3), (6, 15), (20, 47)]) 0x0006 4 t.ix ++
    errIf (!shape && !room t) 0x0005 4 t.ix ++
    errIf (shape || (cellsOf t.cells).any (fun n => !bit (used t.part) n) || t.cells == 0 ||
      prev.any (fun y => Nat.land y.cells t.cells != 0)) 0x0403 4 t.ix ++
    errIf (code.any (fun w => !insOk t.length w)) 0x0401 4 t.ix ++
    errIf (code.any (refBad (cnt t.part) (src t.part))) 0x0402 4 t.ix) ++
  (match lack with | n :: _ => errIf (!swap) 0x0403 4 (2 ^ 31 + n) | [] => [])

/-- R131–R133: every check of the first pass on a structure mould. -/
def chkStructure (c : MCtx) (m : Bytes) : List MErr :=
  let h := chkHeader c m
  if h.any (fun e => decide (e.code ≤ 4)) then h
  else
    let t := chkTable m
    if t.any (fun e => e.code == 5) then h ++ t
    else
      h ++ t ++ chkParts c m ++ chkGroups c m ++ chkStreams m ++ chkPages c m ++ chkQueues c m ++ chkCounters c m ++ chkEvents c m ++
      chkRunners c m ++ chkPlans c m ++ chkPower c m ++ chkTwin m ++
      chkPats m false (fun p => if (mPart m p).isSome then mUsed m p else 0)
        (fun p n => (mCounters m).any (fun x => x.part == p && x.counter == n))
        (fun p s => (mEvents m).any (fun e => e.part == p && e.source == s) || mVia m p s) ++
      errIf (!c.d.rte.valid && ([9, 10, 12].any (fun ty => (mSect m ty).isSome) ||
        (mParts m).any (fun x => admitsOther c.d.rte.devId x.lo x.hi))) 0x0E05 0 0

/-- R141: the checks of a pattern swap, against the partition's poured bindings. -/
def chkSwap (c : MCtx) (m : Bytes) : List MErr :=
  let h := chkHeader c m
  if h.any (fun e => decide (e.code ≤ 4)) then h
  else
    let t := chkTable m
    if t.any (fun e => e.code == 5) then h ++ t
    else
      h ++ t ++ errIf (c.mask != 2 ^ c.part) 0x0101 0 0 ++
      chkPats m true (fun p => if p = c.part then ofBits ((bitsOf 1024 c.d.cat.used).filter (fun n => c.d.cellPart n == some p)) else 0)
        (fun p n => c.d.counterOf p n) (fun p s => c.d.sourceOf p s)

end Sys2Proof.Machine
end

