-- ==== Sys2Proof/Machine/Pour.lean ====
section
/-! DEFINITION. Pouring, unpouring and swapping (R134–R142), the release of a partition's resources (R140, R297, R339), the kill of
its queues (R151, R158, R365). -/

namespace Sys2Proof.Machine

/-! ### Clearing a slot, releasing a partition -/

/-- R83, R339: what a reset of the slot, or a pour, clears; the program store and the slot's health stay. -/
def Slot.wipe (s : Slot) : Slot :=
  { Slot.init with store := s.store, health := s.health, cause := s.cause, tests := s.tests, lastPass := s.lastPass,
                   failRow := s.failRow, before := s.before }

/-- The slots of a partition's clusters. -/
def Part.slots (p : Part) : List Nat := (bitsOf 64 p.clusters.toNat).flatMap (fun c => (List.range 17).map (fun j => c * 32 + j))

/-- R122: the shelf pages (0–511) that a partition maps. -/
def Part.shelf (p : Part) : List Nat :=
  (p.pages.filterMap (fun kv => match kv.2 with
    | some g => if shelfPage0 ≤ kv.1 && shelfPage0 ≤ g.ppage then some (g.ppage - shelfPage0) else none | none => none)).eraseDups

/-- Sources that partition p's bindings bring (R121, R125). -/
def Dev.isSourceOf (d : Dev) (p n : Nat) : Bool := d.sourceOf p n

/-- R135, R140: a partition without a rung work order uncompleted, run, collective or near-memory command. -/
def Dev.quiescent (d : Dev) (p : Nat) : Bool :=
  d.que.queues.all (fun kv => !kv.2.bound || kv.2.part != p || kv.2.prod == kv.2.ret) &&
  d.cat.runs.all (fun r => r.part != p) &&
  d.ldl.plans.all (fun kv => match kv.2 with | some pl => pl.part != p || pl.inst.isNone | none => true) &&
  d.mem.accs.all (fun a => a.part != p)

/-- R139, R374–R377: twin bookkeeping of a partition goes. -/
def Dev.dropTwin (d : Dev) (p : Nat) : Dev :=
  d.upTwin (fun t => { t with
    streams := t.streams.filter (fun kv => match kv.2 with | some s => s.part != p | none => false),
    own := t.own.filter (fun r => r.part != p), theirs := t.theirs.filter (fun r => r.part != p) })

/-- R127, R140, R297, R339: everything that the structure of partition `p` bound is released; its stacks and shelf pages in `keep`
keep their contents, the others and its carrels are zeroised. After a reset (`kill`) its queues keep their counts (R151). The ledger, the generation and the recovery record stay. -/
def Dev.release (d : Dev) (p : Nat) (kill : Bool) (keepS : BitVec 16) (keepP : List Nat) : Dev :=
  let x := d.part p
  let slots := x.slots
  let cl := x.clusters.toNat
  let mine := fun (n : Nat) => bit cl (n / 16)
  let d := d.accAbortPart p
  let d := d.clearSrcs (fun n _ => d.isSourceOf p n)
  let d := d.upEvc (fun e => { e with
    srcs := tmap Src.init (fun _ s => if s.bound && s.part == p then Src.init else s) e.srcs,
    qPart := tmap none (fun _ o => if o == some p then none else o) e.qPart })
  let d := d.upQue (fun m => { m with
    queues := tmap Queue.init (fun _ q => if q.bound && q.part == p then (if kill then { q with state := 4, head := none } else { Queue.init with uj := q.uj }) else q) m.queues })
  let d := d.upSyn (fun y => { y with counters := tmap Counter.init (fun _ c => if c.bound && c.part == p then Counter.init else c) y.counters })
  let d := d.upLdl (fun l => { l with plans := tmap none (fun _ o => match o with
    | some pl => if pl.part = p then none else o | none => none) l.plans })
  let d := d.upCat (fun c => { c with
    groups := tclear c.groups (p * 1024) (p * 1024 + 1024), chans := tclear c.chans (p * 4096) (p * 4096 + 4096),
    patLen := tdrop c.patLen mine, used := ofBits ((bitsOf 1024 c.used).filter (fun n => !mine n)),
    swapBad := ofBits ((bitsOf 1024 c.swapBad).filter (fun n => !mine n)),
    faults := tdrop c.faults mine })
  let d := d.upRte (fun r => { r with
    runners := tmap none (fun _ o => o.map (fun (y : Runner) => if y.loc && y.part == p then { y with remove := true } else y)) r.runners })
  let d := d.dropTwin p
  let d := d.each slots (fun d k => d.upSlot k Slot.wipe)
  let d := d.each ((bitsOf 16 x.stackSet.toNat).filter (fun s => !bit keepS.toNat s)) (fun d s => d.zeroStack s)
  let d := d.each (x.shelf.filter (fun g => !keepP.contains g)) (fun d g => d.zeroShelf g)
  let d := d.upPart p (fun y => { Part.init with
    state := y.state, gen := y.gen, sat := y.sat, nan := y.nan, inv := y.inv, satOvf := y.satOvf, nanOvf := y.nanOvf,
    invOvf := y.invOvf, residue := y.residue, resOvf := y.resOvf, trips := y.trips, rcStep := y.rcStep, rcCause := y.rcCause,
    rcEsc := y.rcEsc, rcCount := y.rcCount, hgCells := y.hgCells, hgTrunc := y.hgTrunc, hgScrub := y.hgScrub, hgExp := y.hgExp,
    hgKilled := y.hgKilled, rcCell := y.rcCell, rcQueue := y.rcQueue, fencedAt := y.fencedAt, hgBytes := y.hgBytes })
  d.each (bitsOf 64 cl) (fun d c => d.clusterFree c)

/-- R96, R339: a pour, an L2 or an L3 clears the ledger. -/
def Part.clearLedger (p : Part) : Part :=
  { p with sat := 0, nan := 0, inv := 0, satOvf := false, nanOvf := false, invOvf := false, residue := 0, resOvf := false, trips := 0 }

/-! ### Killing the queues (R151, R158, R365, R369) -/

/-- R158, R369 step 5: every queue of the partition is cancelled and killed; what its sent units come to is reported by R365. -/
def Dev.killQueues (d : Dev) (p : Nat) : Dev :=
  let qs := (d.que.queues.filter (fun kv => kv.2.bound && kv.2.part == p)).map (·.1)
  let d := d.each qs (fun d q => (d.cancelAll q).upQueue q (fun x => { x with state := 3 }))
  let fs := d.que.flights.filter (fun f => f.queue != ctlQ && f.part == p)
  let d := d.each fs (fun d f => doWorkOrderComplete d f.queue f.index { ce := [], ue := [] })
  let d := d.upQue (fun m => { m with
    flights := m.flights.filter (fun f => f.queue == ctlQ || f.part != p),
    doneAhead := m.doneAhead.filter (fun x => !qs.contains x.1) })
  let d := d.upSyn (fun y => { y with sent := updWhere (fun r => r.part == p) (fun r => { r with killed := true }) y.sent })
  d.upRte (fun y => { y with reqs := updWhere (fun r => r.part == p) (fun r => { r with killed := true }) y.reqs })

/-! ### The loader's operation -/

def Dev.upOp (d : Dev) (f : LoadOp → LoadOp) : Dev := d.upMld (fun m => { m with op := m.op.map f })

/-- The loader's operation is over. -/
def Dev.opEnd (d : Dev) (o : LoadOp) (st det : Nat) : Dev :=
  let d := d.upMld (fun m => { m with
    op := none, phase := 0, twinWait := false, targets := 0, lastStat := st, lastTime := (d.now - o.startAt) / 100 % 2 ^ 32,
    pours := if st = stOk then (m.pours + 1) % 2 ^ 64 else m.pours,
    fails := if st = stOk || o.mode = 2 then m.fails else satAdd 32 m.fails 1 })
  d.endWork o.queue o.index st det 0

/-- R133, R143: an error is recorded. -/
def Dev.mouldErr (d : Dev) (e : MErr) : Dev :=
  d.upMld (fun m => { m with errCode := e.code, errSect := e.sect, errValid := true, errIndex := e.idx })

/-- R132: the operation fails without effect: the targets are as before. -/
def Dev.opFail (d : Dev) (o : LoadOp) (e : MErr) : Dev :=
  let d := d.each ((bitsOf 16 o.targets.toNat).zip o.before) (fun d (p, st) =>
    if (d.part p).state = 1 then d.upPart p (fun x => { x with state := st }) else d)
  (d.mouldErr e).opEnd o (mStatus e.code) e.code

/-- R132, R139: the operation fails after it has written: its targets are left unpoured and zeroised. -/
def Dev.opAbandon (d : Dev) (o : LoadOp) (st det : Nat) : Dev :=
  let d := d.each ((bitsOf 16 o.targets.toNat).zip (o.kept.zip o.keptSh)) (fun d (p, ks, kp) =>
    if (d.part p).state = 1 then
      let d := d.release p false 0 []
      let d := d.each (bitsOf 16 ks.toNat) (fun d s => if (d.stackPart s).isNone then d.zeroStack s else d)
      let d := d.each kp (fun d g => d.zeroShelf g)
      d.upPart p (fun x => { x with state := 0 })
    else d)
  d.opEnd o st det

def Dev.opAbort (d : Dev) (o : LoadOp) (e : MErr) : Dev := (d.mouldErr e).opAbandon o (mStatus e.code) e.code

/-- R134, R135: POUR starts the loader, closes the targets and asks for the image. R418: the recovery ROM pours no mould. -/
def doPour (d : Dev) (i : Nat) : Dev :=
  match if d.upd.recovery then none else d.take ctlQ i 0x30, d.mld.op with
  | some f, none =>
    let mask := woOpd f.wo 16 2
    let ps := bitsOf 16 mask
    let quiet := ps.all (fun p => (d.part p).state == 0 || ((d.part p).state == 2 && d.quiescent p))
    let o : LoadOp := {
      queue := ctlQ, index := i, targets := BitVec.ofNat 16 mask, mode := 0, length := woOpd f.wo 12 4, image := [], digest := 0,
      cells := [], before := ps.map (fun p => (d.part p).state),
      clusters := ps.foldl (fun a p => a ||| (d.part p).clusters) 0, changed := false, quiet := quiet,
      kept := ps.map (fun p => (d.part p).stackSet), keptSh := ps.map (fun p => (d.part p).shelf), startAt := d.now }
    let d := d.startWork ctlQ i
    let d := d.upMld (fun m => { m with op := some o, phase := 2, targets := BitVec.ofNat 16 mask })
    let d := d.each ps (fun d p => if quiet then d.upPart p (fun x => { x with state := 1 }) else d)
    d.emit (.hostRead (woOpd f.wo 4 8) (woOpd f.wo 0 4) (woOpd f.wo 12 4))
  | _, _ => d

/-- R133, R135: the conditions of the pour itself. -/
def chkPour (o : LoadOp) : List MErr := errIf (!o.quiet) 0x0E01 0 0 ++ errIf o.changed 0x0E03 0 0

/-- R132: the first pass over the image; none: it could not be read. -/
def doPourFirstPass (d : Dev) (w : OwnerFuses) (image : Option Bytes) : Dev :=
  match d.mld.op with
  | none => d
  | some o =>
    if o.mode != 0 || d.mld.phase != 2 then d
    else
      match image with
      | none => d.opFail o ((mWorst (⟨0x0E02, 0, 0⟩ :: chkPour o)).getD ⟨0x0E02, 0, 0⟩)
      | some m =>
        let c : MCtx := { d := d, o := w, swap := false, part := 0, mask := o.targets.toNat, length := o.length }
        match mWorst (chkStructure c m ++ chkPour o) with
        | some e => d.opFail o e
        | none =>
          let cl := (mParts m).foldl (fun a x => a ||| BitVec.ofNat 64 x.clusters) o.clusters
          let d := d.upOp (fun o => { o with image := m, digest := mDigest m, clusters := cl })
          let d := d.each (bitsOf 64 cl.toNat) (fun d c => d.each (List.range 17) (fun d j => d.testAbandon (c * 32 + j)))
          d.upMld (fun x => { x with phase := 4 })

/-! ### Writing the structure -/

/-- R121: writes a pattern into the program store of logical cell `n`. -/
def Dev.writeStore (d : Dev) (n : Nat) (code : List Nat) : Dev :=
  let d := d.upCell n (fun s => { s with store := tputs 0 [] 0 (code.map (BitVec.ofNat 128)) })
  d.upCat (fun c => { c with patLen := tset 0 c.patLen n code.length })

/-- R400: the digest of the PATTERN section. -/
def mPatDigest (m : Bytes) : Nat := match mSect m 0x04 with | some s => sha256 s.raw | none => 0

/-- R52: the reduction signature of a plan. -/
def reduceSig (members : List Nat) (sizes : List Nat) (fmt major : Nat) : Nat :=
  sha256 (leBytes 4 members.length ++ members.flatMap (fun x => leBytes 4 (x % 2 ^ 20)) ++ leBytes 1 sizes.length ++
    sizes.flatMap (fun x => leBytes 4 x) ++ leBytes 1 fmt ++ leBytes 2 major) % 2 ^ 64

/-- R128: a plan as poured. -/
def Dev.makePlan (d : Dev) (m : Bytes) (l : LEnt) : Plan :=
  let ws := mMembers m l
  let sizes := l.sizes.take l.dims
  { part := l.part, accFmt := l.fmt, members := ws.map (fun w => (w % 2 ^ 20, fld w 23 20)), self := l.self, sizes := sizes,
    order := l.order.take l.dims, flags := BitVec.ofNat 8 l.flags, stall := l.stall, count := 0,
    sig := reduceSig ws sizes l.fmt d.cat.arithMaj, inst := none, note := none, notes := [], lastOp := 0 }

/-- R117, R122, R129, R130: one partition's own fields. -/
def Part.pour (y : Part) (m : Bytes) (x : PEnt) (conf : Bool) : Part :=
  let tw := match mTwin m with
    | some (sc, ps, db) => if sc = 2 || bit ps x.part then (sc, db) else (0, 0) | none => (0, 0)
  { y with
    conf := conf, clusters := BitVec.ofNat 64 x.clusters, stackSet := BitVec.ofNat 16 x.stk, seed := BitVec.ofNat 64 x.seed,
    peerLo := x.lo, peerHi := x.hi, peerPart := x.pp,
    pages := (mPages m).foldl (fun t v => if v.part = x.part then tset none t v.vpage (some { perm := BitVec.ofNat 8 v.perm, ppage := v.ppage }) else t) [],
    share := ((mPower m).find? (fun e => e.2.1 == x.part)).elim 0 (fun e => e.2.2.1), twScope := tw.1, twBytes := tw.2 }

/-- R132: the second pass writes tables and program stores. -/
def Dev.writeMould (d : Dev) (conf : Bool) (m : Bytes) : Dev :=
  let d := d.each (mParts m) (fun d x => d.upPart x.part (fun y => y.pour m x conf))
  let d := d.upCat (fun c => { c with
    groups := (mGroups m).foldl (fun t g => tset none t (g.part * 1024 + g.group) (some { part := g.part, cells := g.cells })) c.groups,
    used := (mGroups m).foldl (fun a g => Nat.lor a g.cells) c.used,
    chans := (mStreams m).foldl (fun t s =>
      let p := ((mGroups m).find? (fun g => bit g.cells s.cell)).elim 0 (·.part)
      tset none t (p * 4096 + s.chan) (some { part := p, srcCell := s.cell, srcPort := s.port, dst := s.dst, taken := [] })) c.chans })
  let d := d.each (mPats m) (fun d t => let code := mCode m t; d.each (cellsOf t.cells) (fun d n => d.writeStore n code))
  let d := d.each (mEvents m) (fun d e =>
    ((d.upSrc e.source (fun _ => { Src.init with bound := true, part := e.part, queue := e.queue, enabled := bit e.flags 0 })).upGroup
      (e.source / 256) (fun g => { g with holdoff := e.holdoff })).upEvc (fun v => { v with qPart := tset none v.qPart e.queue (some e.part) }))
  let d := d.upRte (fun r => { r with
    runners := (mRunners m).foldl (fun t x => tset none t (runKey r.devId x.runner)
      (some { state := 1, loc := true, src := r.devId, runner := x.runner, egress := runEgress r.devId x.dst, share := x.share,
              part := x.part, dst := x.dst, dstPart := x.dstPart, pred0 := x.pred0, pred1 := x.pred1, remove := false,
              sentUp := false })) r.runners })
  let d := d.upLdl (fun l => { l with plans := (mPlans m).foldl (fun t e => tset none t e.plan (some (d.makePlan m e))) l.plans })
  d

/-- R139: the partner's digest settles a paused pour. -/
def Dev.twinSettle (d : Dev) (o : LoadOp) (dig sc : Nat) (solo : Bool) : Dev :=
  let ps := (bitsOf 16 o.targets.toNat).filter (fun p => (d.part p).twScope != 0)
  let scope := (mTwin o.image).elim 0 (·.1)
  if solo then (d.each ps (fun d p => d.raise (0xD130 + p) d.partnerId)).opAbort o ⟨0x0E01, 0, 0⟩
  else if dig = o.digest && sc = scope then
    let d := d.each ps (fun d p => (d.upPart p (fun x => { x with twin := 1 })).raise (0xD100 + p) d.partnerId)
    (d.upMld (fun m => { m with twinWait := false, partner := none })).upTwin (fun t => { t with heardAt := d.now })
  else d.opAbort o ⟨0x0C02, 12, 0⟩

/-- R132, R139: the second pass: fetched, hashed and written; a TWIN mould then waits for the partner's digest. -/
def doPourSecondPass (d : Dev) (w : OwnerFuses) (image : Option Bytes) : Dev :=
  match d.mld.op with
  | none => d
  | some o =>
    if o.mode != 0 || d.mld.phase != 4 then d
    else if o.changed then d.opFail o ⟨0x0E03, 0, 0⟩
    else
      match image with
      | none => d.opAbort o ⟨0x0E02, 0, 0⟩
      | some m =>
        if mDigest m != o.digest then d.opAbort o ⟨0x0E04, 0, 0⟩
        else
          let conf := mConf o.image || w.conf == 1
          let d := d.each (bitsOf 16 o.targets.toNat) (fun d p =>
            let x := (mPart o.image p).getD { ix := 0, part := p, flags := 0, stk := 0, clusters := 0, seed := 0, lo := 0, hi := 0, pp := 0, raw := [] }
            let zero := conf || (d.part p).conf || bit x.flags 0
            let pg := (mPages o.image).filterMap (fun v => if v.part = p && shelfPage0 ≤ v.vpage then some (v.ppage - shelfPage0) else none)
            d.release p false (if zero then 0 else BitVec.ofNat 16 x.stk) (if zero then [] else pg))
          let d := d.writeMould conf o.image
          let d := d.upMld (fun m => { m with phase := 5 })
          match mTwin o.image with
          | none => d
          | some (sc, _, _) =>
            let d := d.upMld (fun m => { m with twinWait := true })
            let d := d.sendTwin 0 1 (leBytes 32 o.digest ++ leBytes 1 sc ++ [0])
            match d.mld.partner with
            | some (dig, psc, solo, t) => if d.now ≤ t + 100000000 then d.twinSettle (d.mld.op.getD o) dig psc solo else d
            | none => d

/-- R139: 1 s without the partner's digest. -/
def doPourTwinTimeout (d : Dev) : Dev :=
  match d.mld.op with
  | some o =>
    if d.mld.twinWait then
      let ps := (bitsOf 16 o.targets.toNat).filter (fun p => (d.part p).twScope != 0)
      let d := d.each ps (fun d p => (d.upPart p (fun x => { x with twin := 2 })).raise (0xD110 + p) d.partnerId)
      d.upMld (fun m => { m with twinWait := false })
    else d
  | none => d

/-- R136: memory that the targets did not hold before, or that is to be cleared, is zeroised; carrels too; the targets come into
service. -/
def doPourComplete (d : Dev) : Dev :=
  match d.mld.op with
  | none => d
  | some o =>
    if o.mode != 0 || d.mld.phase != 5 || d.mld.twinWait then d
    else
      let m := o.image
      let d := d.each ((bitsOf 16 o.targets.toNat).zip (o.kept.zip o.keptSh)) (fun d (p, ks, kp) =>
        let x := d.part p
        let zero := x.conf || ((mPart m p).elim false (fun e => bit e.flags 0))
        let d := d.each ((bitsOf 16 x.stackSet.toNat).filter (fun s => zero || !bit ks.toNat s)) (fun d s => d.zeroStack s)
        let d := d.each (x.shelf.filter (fun g => zero || !kp.contains g)) (fun d g => d.zeroShelf g)
        let d := d.each x.slots (fun d k => d.upSlot k Slot.wipe)
        let d := d.perfClearPart p
        d.upPart p (fun y => { y.clearLedger with
          state := 2, gen := (y.gen + 1) % 2 ^ 16, digest := o.digest, swapDig := 0, swapped := false, patDig := mPatDigest m }))
      let d := d.each (mCounters m) (fun d c => d.upCounter c.counter (fun _ =>
        { bound := true, part := c.part, peerIncr := bit c.flags 0, hostRead := bit c.flags 1, value := c.initial, ovf := false }))
      let d := d.each (mQueues m) (fun d q => d.upQueue q.queue (fun x =>
        { Queue.init with state := 1, part := q.part, prio := q.prio, log2 := q.log2, ring := q.ring, compl := q.compl, uj := x.uj }))
      d.opEnd o stOk 0

/-! ### UNPOUR (R140) -/

/-- R140, R372: an UNPOUR ends once each of its partitions is unpoured. -/
def Dev.unpourCheck (d : Dev) : Dev :=
  match d.mld.op with
  | some o => if o.mode = 2 && (bitsOf 16 o.targets.toNat).all (fun p => (d.part p).state == 0) then d.opEnd o stOk 0 else d
  | none => d

/-- R140: UNPOUR fences each named partition in service. -/
def doUnpour (d : Dev) (i : Nat) : Dev :=
  match d.take ctlQ i 0x31, d.mld.op with
  | some f, none =>
    let mask := woOpd f.wo 0 2
    let ps := bitsOf 16 mask
    let o : LoadOp := {
      queue := ctlQ, index := i, targets := BitVec.ofNat 16 mask, mode := 2, length := 0, image := [], digest := 0,
      cells := [], before := ps.map (fun p => (d.part p).state), clusters := 0, changed := false, quiet := true, kept := [], keptSh := [],
      startAt := d.now }
    let d := (d.startWork ctlQ i).upMld (fun m => { m with op := some o, phase := 6, targets := BitVec.ofNat 16 mask })
    let d := d.each ps (fun d p => d.fence p 6 0xFFFFFFFF 0xFFFFFFFF)
    d.unpourCheck
  | _, _ => d

/-! ### Pattern swap (R141, R142) -/

/-- R141: the first pass of a swap. -/
def doPatternSwap (d : Dev) (w : OwnerFuses) (q i : Nat) (image : Option Bytes) : Dev :=
  match d.take q i 0x30, d.mld.op with
  | some f, none =>
    if q = ctlQ then d
    else
      let o : LoadOp := {
        queue := q, index := i, targets := BitVec.ofNat 16 (2 ^ f.part), mode := 1, length := woOpd f.wo 12 4, image := [], digest := 0,
        cells := [], before := [], clusters := 0, changed := false, quiet := true, kept := [], keptSh := [], startAt := d.now }
      let d := d.startWork q i
      let d := d.emit (.hostRead (woOpd f.wo 4 8) (woOpd f.wo 0 4) (woOpd f.wo 12 4))
      match image with
      | none => d.opFail { o with targets := 0 } ⟨0x0E02, 0, 0⟩
      | some m =>
        let c : MCtx := { d := d, o := w, swap := true, part := f.part, mask := woOpd f.wo 16 2, length := o.length }
        match mWorst (chkSwap c m) with
        | some e => d.opFail { o with targets := 0 } e
        | none =>
          let cells := cellsOf ((mPats m).foldl (fun a t => Nat.lor a t.cells) 0)
          d.upMld (fun x => { x with
            op := some { o with image := m, digest := mDigest m, cells := cells }, phase := 7, targets := BitVec.ofNat 16 (2 ^ f.part) })
  | _, _ => d

/-- R142: once no covered cell is in a run, the second pass writes the stores. -/
def doPatternSwapWrite (d : Dev) (image : Option Bytes) : Dev :=
  match d.mld.op with
  | none => d
  | some o =>
    if o.mode != 1 || d.cat.runs.any (fun r => r.cells.any (fun n => o.cells.contains n)) then d
    else
      let bad := fun (d : Dev) (code : Nat) =>
        ((d.upCat (fun c => { c with swapBad := o.cells.foldl (fun a n => if bit a n then a else a + 2 ^ n) c.swapBad })).mouldErr
          ⟨code, 0, 0⟩).opEnd o (mStatus code) code
      match image with
      | none => bad d 0x0E02
      | some m =>
        if mDigest m != o.digest then bad d 0x0E04
        else
          let d := d.each (mPats m) (fun d t => let code := mCode m t; d.each (cellsOf t.cells) (fun d n => d.writeStore n code))
          let d := d.upCat (fun c => { c with swapBad := ofBits ((bitsOf 1024 c.swapBad).filter (fun n => !o.cells.contains n)) })
          let p := (bitsOf 16 o.targets.toNat).headD 0
          (d.upPart p (fun x => { x with swapped := true, swapDig := o.digest, patDig := mPatDigest m })).opEnd o stOk 0

end Sys2Proof.Machine
end

