-- ==== Sys2Proof/Machine/Ladle.lean ====
section
/-! DEFINITION. The arithmetic of collective plans (R248–R256): digits, groups and steps; which chunks a member sends and receives
in each step; the numbering of an instance's chunks (R375). Nothing here reads or changes the device. -/

namespace Sys2Proof.Machine

/-! ### Digits and groups (R248) -/

def Plan.size (pl : Plan) (j : Nat) : Nat := pl.sizes.getD j 1

/-- The product of the sizes before dimension `j`. -/
def Plan.stride (pl : Plan) (j : Nat) : Nat := (pl.sizes.take j).foldl (· * ·) 1

def Plan.digit (pl : Plan) (j m : Nat) : Nat := m / pl.stride j % pl.size j

def Plan.dims (pl : Plan) : Nat := pl.sizes.length

def Plan.count' (pl : Plan) : Nat := pl.members.length

/-- The member whose digit j is `v` and whose other digits are m's. -/
def Plan.withDigit (pl : Plan) (j m v : Nat) : Nat := m - pl.digit j m * pl.stride j + v * pl.stride j

/-- C and D make ring steps, A and B clique steps. -/
def Plan.ring (pl : Plan) (j : Nat) : Bool := decide (2 ≤ pl.order.getD j 0)

/-- Whether blocks, or members, agree in the digits before dimension `j`. -/
def Plan.agree (pl : Plan) (j a b : Nat) : Bool := a % pl.stride j == b % pl.stride j

/-- Whether two members are in one group of dimension `j`. -/
def Plan.grouped (pl : Plan) (j a b : Nat) : Bool := pl.withDigit j a 0 == pl.withDigit j b 0

/-- This member's group in dimension `j`, in ascending group index. -/
def Plan.group (pl : Plan) (j : Nat) : List Nat := (List.range (pl.size j)).map (pl.withDigit j pl.self)

def Plan.others (pl : Plan) (j : Nat) : List Nat := (pl.group j).filter (· != pl.self)

/-! ### Steps -/

/-- Steps of the chunk path: RS and AG one per dimension, XCHG one. -/
def Plan.steps (pl : Plan) (op : Nat) : Nat := if op = 2 then 1 else pl.dims

/-- R251, R253: the dimension of the step at position `pos`: ascending for RS, descending for AG; 0 for XCHG. -/
def Plan.stepAt (pl : Plan) (op pos : Nat) : Nat := if op = 1 then pl.dims - 1 - pos else if op = 2 then 0 else pos

/-- The position of step `j`. -/
def Plan.posOf (pl : Plan) (op j : Nat) : Nat := if op = 1 then pl.dims - 1 - j else if op = 2 then 0 else j

/-- R255: chunks of a block of `n` bytes. -/
def chunksIn (n : Nat) : Nat := ceilDiv n 4096

def chunkLen (n k : Nat) : Nat := min 4096 (n - 4096 * k)

/-- R251, R253, R254: the receivers to which this member sends chunk `k` of block `b` in step `j` of its own accord. -/
def Plan.starts (pl : Plan) (op j b k : Nat) : List Nat :=
  let m := pl.self
  let i := pl.digit j m
  let n := pl.size j
  match op with
  | 0 =>
    if !pl.agree j b m then []
    else if pl.ring j then (if i = 0 then [pl.withDigit j m 1] else [])
    else if pl.digit j b = i then [] else [pl.withDigit j m (pl.digit j b)]
  | 1 =>
    if !pl.agree (j + 1) b m then []
    else if pl.ring j then [pl.withDigit j m (if k % 2 = 0 then (i + 1) % n else (i + n - 1) % n)]
    else pl.others j
  | _ => if b = m then [] else [b]

/-- R251, R253: the receivers to which this member sends chunk `k` of block `b` on in step `j`, once it has received it. -/
def Plan.relays (pl : Plan) (op j b k : Nat) : List Nat :=
  let m := pl.self
  let i := pl.digit j m
  let n := pl.size j
  if !pl.ring j || !pl.agree j b m then []
  else match op with
  | 0 =>
    if i = 0 then []
    else if i + 1 < n then [pl.withDigit j m (i + 1)]
    else if pl.digit j b = i then [] else [pl.withDigit j m (pl.digit j b)]
  | 1 =>
    let o := pl.digit j b
    if o = i then []
    else if k % 2 = 0 then (if (i + n - o) % n < n - 1 then [pl.withDigit j m ((i + 1) % n)] else [])
    else (if (o + n - i) % n < n - 1 then [pl.withDigit j m ((i + n - 1) % n)] else [])
  | _ => []

def Plan.sends (pl : Plan) (op j b k : Nat) : List Nat := pl.starts op j b k ++ pl.relays op j b k

/-- R251, R253, R254: the senders from which this member receives chunk `k` of block `b` in step `j`. -/
def Plan.froms (pl : Plan) (op j b k : Nat) : List Nat :=
  let m := pl.self
  let i := pl.digit j m
  let n := pl.size j
  match op with
  | 0 =>
    if !pl.agree j b m then []
    else if pl.ring j then
      (if i = 0 then [] else [pl.withDigit j m (i - 1)]) ++
      (if pl.digit j b = i && i + 1 != n then [pl.withDigit j m (n - 1)] else [])
    else if pl.digit j b = i then pl.others j else []
  | 1 =>
    let o := pl.digit j b
    if !pl.agree j b m || o == i then []
    else if pl.ring j then [pl.withDigit j m (if k % 2 = 0 then (i + n - 1) % n else (i + 1) % n)]
    else [pl.withDigit j m o]
  | _ => if b = m then [] else [b]

/-! ### Counting: chunks of even and of odd index of a block share their lists -/

/-- Σ over the blocks `bs` of the lengths of `f`'s lists, a block having `c` chunks. -/
def sumChunks (f : Nat → Nat → List Nat) (c : Nat) (bs : List Nat) : Nat :=
  bs.foldl (fun a b => a + (c + 1) / 2 * (f b 0).length + c / 2 * (f b 1).length) 0

def Plan.blocks (pl : Plan) : List Nat := List.range pl.count'

/-- Chunks this member starts in step `j`. -/
def Plan.startsIn (pl : Plan) (op bytes j : Nat) : Nat := sumChunks (pl.starts op j) (chunksIn bytes) pl.blocks

/-- Chunks this member receives in step `j`. -/
def Plan.fromsIn (pl : Plan) (op bytes j : Nat) : Nat := sumChunks (pl.froms op j) (chunksIn bytes) pl.blocks

/-- Chunks this member receives from member `s` in step `j`. -/
def Plan.fromsOf (pl : Plan) (op bytes j s : Nat) : Nat :=
  sumChunks (fun b k => (pl.froms op j b k).filter (· == s)) (chunksIn bytes) pl.blocks

/-- Chunks this member sends to member `r` in step `j`. -/
def Plan.sendsTo (pl : Plan) (op bytes j r : Nat) : Nat :=
  sumChunks (fun b k => (pl.sends op j b k).filter (· == r)) (chunksIn bytes) pl.blocks

/-- Chunks of one block's list that the member sends, chunk after chunk: the `x`-th (chunk, receiver). -/
def nthOf (f : Nat → List Nat) : Nat → Nat → Nat → Option (Nat × Nat)
  | 0, _, _ => none
  | c + 1, k, x => if x < (f k).length then some (k, (f k).getD x 0) else nthOf f c (k + 1) (x - (f k).length)

/-- R375: the `x`-th chunk that the member starts in a step, by target block, then chunk offset, then receiver. -/
def nthStart (f : Nat → Nat → List Nat) (c : Nat) : List Nat → Nat → Option (Nat × Nat × Nat)
  | [], _ => none
  | b :: bs, x =>
    let n := sumChunks f c [b]
    if x < n then (nthOf (f b) c 0 x).map (fun y => (b, y.1, y.2)) else nthStart f c bs (x - n)

/-- R375: the number, within an instance, of the chunk that this member sends in the step at `pos`, of block `b` and chunk `k`, to
member `r`. -/
def Plan.chunkNo (pl : Plan) (op bytes pos b k r : Nat) : Nat :=
  let c := chunksIn bytes
  let before := (List.range pos).foldl (fun a p => a + sumChunks (pl.sends op (pl.stepAt op p)) c pl.blocks) 0
  let f := pl.sends op (pl.stepAt op pos)
  before + sumChunks f c (List.range b) + (List.range k).foldl (fun a i => a + (f b i).length) 0 + (f b k).findIdx (· == r)

/-- R375: the chunks of a whole instance. -/
def Plan.chunkTotal (pl : Plan) (op bytes : Nat) : Nat :=
  (List.range (pl.steps op)).foldl (fun a p => a + sumChunks (pl.sends op (pl.stepAt op p)) (chunksIn bytes) pl.blocks) 0

/-! ### Where a chunk lies -/

/-- R251: a ring partial, which goes to the receiver's chain buffer. -/
def Plan.chains (pl : Plan) (op j r : Nat) : Bool :=
  op == 0 && pl.ring j && pl.digit j pl.self + 1 == pl.digit j r

/-- R251, R256: the target bit: 1 the destination buffer. -/
def Plan.targetDst (pl : Plan) (op j : Nat) (chain : Bool) : Bool := if op = 0 then !chain && j + 1 == pl.dims else true

/-- R251, R253, R254, R256: the byte offset of chunk `k` of block `b` in the receiver's target buffer. -/
def Plan.targetOff (pl : Plan) (op j b k bytes : Nat) (chain : Bool) : Nat :=
  match op with
  | 0 => if pl.targetDst op j chain then 4096 * k else b * bytes + 4096 * k
  | 1 => b * bytes + 4096 * k
  | _ => pl.self * bytes + 4096 * k

/-- R256: arg0 bits 15:0 of a chunk. -/
def colArg (n j op : Nat) (dst chain : Bool) : Nat := n % 1024 + j % 4 * 1024 + op % 4 * 4096 + b2n dst * 16384 + b2n chain * 32768

/-- R259. -/
def digTerm (u k : Nat) : Nat := mix64 (Nat.xor (mix64 (u % 2 ^ 64)) (k % 2 ^ 64))

end Sys2Proof.Machine
end

