-- ==== Sys2Proof/Machine/Collectives.lean ====
section
/-! DEFINITION. Collectives (R246–R270): instances, chunks and their outcomes, ring and clique steps, the verdict round, the sprue
path, NOTICEs; the contribution rows of ordered accumulation (R185, R186); UNREACH (R225, R268). -/

namespace Sys2Proof.Machine

/-! ### Instances -/

def Dev.upInst (d : Dev) (n : Nat) (f : Inst → Inst) : Dev := d.upPlan n (fun pl => { pl with inst := pl.inst.map f })

def Dev.instOf (d : Dev) (n : Nat) : Option (Plan × Inst) :=
  match d.plan n with
  | some pl => pl.inst.map (fun x => (pl, x))
  | none => none

/-- R35: the quadrant that owns a fabric port. -/
def portQuad (p : Nat) : Nat :=
  if p < 4 then 0 else if p < 7 then 1 else if p < 11 then 2 else if p < 14 then 3 else if p < 16 then 1 else 3

/-- R246: the Ladle that reads and sends towards a device. -/
def Dev.ladleTo (d : Dev) (dev : Nat) : Nat := match d.route dev 4 false with | some h => portQuad h.port | none => 0

def memberDev (pl : Plan) (m : Nat) : Nat := (pl.members.getD m (0, 0)).1

def memberPart (pl : Plan) (m : Nat) : Nat := (pl.members.getD m (0, 0)).2

/-- The logical index of the member at (device, partition). -/
def Plan.memberAt (pl : Plan) (dev part : Nat) : Option Nat :=
  let i := pl.members.findIdx (· == (dev, part))
  if i < pl.members.length then some i else none

/-- R351: the Ladles of the quadrants that the plan's traffic leaves or enters by. -/
def Dev.ladleShort (d : Dev) (pl : Plan) (op : Nat) : Bool :=
  let ms := if op = 2 then (List.range pl.members.length).filter (· != pl.self) else (List.range pl.dims).flatMap pl.others
  ms.any (fun m => bit d.cat.ladleFail.toNat (d.ladleTo (memberDev pl m)))

/-- R267. -/
def Dev.colEvent (d : Dev) (n reason member : Nat) : Dev := d.raise (0xC000 + n) (reason + member % 2 ^ 20 * 256)

/-- Whether a verdict round runs on the instance (R260). -/
def Plan.wantsVerdict (pl : Plan) (x : Inst) : Bool :=
  !x.sprue && ((x.op == 1 && bit pl.flags.toNat 0) || (x.op == 0 && bit pl.flags.toNat 1))

/-- Chunks accepted in step `j`. -/
def Inst.arrivals (x : Inst) (j : Nat) : Nat := (x.seen.filter (fun s => s.1 == 0x10 && fld s.2.2.1 11 10 == j)).length

def Inst.arrivalsOf (x : Inst) (j m : Nat) : Nat :=
  (x.seen.filter (fun s => s.1 == 0x10 && s.2.1 == m && fld s.2.2.1 11 10 == j)).length

/-! ### Sending -/

/-- R375: the next number of the plan's stream. -/
def Dev.nextCol (d : Dev) (pl : Plan) (n : Nat) : Nat × Dev :=
  let s := (d.stream pl.part (0x8000 + n)).next
  (s, d.upStream pl.part (0x8000 + n) (fun s => { s with next := (s.next + 1) % 2 ^ 32 }))

/-- R225, R268: a packet goes out unless its destination is declared lost; then it waits for a resend after RESUME. -/
def Dev.injectCol (d : Dev) (k : Packet) : Dev := if d.isLost k.dst then d else d.inject k

/-- R256: a packet of plan `n`'s instance to member `r`, kept until it has an outcome. -/
def Dev.sendCol (d : Dev) (n : Nat) (pl : Plan) (x : Inst) (r kind low addr tseq : Nat) (src : Option Nat) (bs : Bytes) : Dev :=
  let k := d.packet kind (memberDev pl r) (memberPart pl r) pl.part x.inst addr (low + pl.sig % 2 ^ 16 * 2 ^ 16) (crc32c bs) bs
  let l := d.copies (0x8000 + n) tseq k
  let d := d.noteTwin (0x8000 + n) tseq (l.headD k)
  d.each l.zipIdx (fun d (k, j) =>
    (d.upInst n (fun x => { x with
      sent := x.sent ++ [{ pkt := k, member := r, src := src, copy := decide (0 < j), crcRow := 0, nrUs := 0 }] })).injectCol k)

/-- As `sendCol`, numbered next in the stream: packets other than chunks. -/
def Dev.sendColNext (d : Dev) (n : Nat) (pl : Plan) (x : Inst) (r kind low addr : Nat) (bs : Bytes) : Dev :=
  let (t, d) := d.nextCol pl n
  d.sendCol n pl x r kind low addr t none bs

/-- R265: a NOTICE to every other member that is not declared lost. -/
def Dev.sendNotices (d : Dev) (n : Nat) (pl : Plan) (x : Inst) (st : Nat) : Dev :=
  let ms := (List.range pl.members.length).filter (fun m => m != pl.self && !d.isLost (memberDev pl m))
  let d := d.upLdl (fun l => { l with ntPlan := n, ntStatus := st, ntSent := true, ntValid := true, ntMember := pl.self })
  let d := d.colEvent n 4 pl.self
  d.each ms (fun d m =>
    let (t, d) := d.nextCol pl n
    let k := d.packet 0x14 (memberDev pl m) (memberPart pl m) pl.part x.inst 0 (colArg n 0 x.op false false + pl.sig % 2 ^ 16 * 2 ^ 16) st []
    d.each (d.copies (0x8000 + n) t k).zipIdx (fun d (k, j) =>
      (d.upPlan n (fun pl => { pl with
        notes := pl.notes ++ [{ pkt := k, member := m, src := none, copy := decide (0 < j), crcRow := 0, nrUs := 0 }] })).inject k))

/-! ### Ending -/

/-- Free bytes over a range of the partition's memory. -/
def Dev.undefVa (d : Dev) (p va n : Nat) : Dev :=
  match (d.part p).pieces 0 true (pieceFuel n) va n with
  | .error _ => d
  | .ok l => d.each l (fun d (pa, n) =>
    match locOf pa with
    | .carrel c => (match d.slotOf c with | some k => d.undefCarrel k (pa - carrelBase) n | none => d)
    | .unmapped => d
    | _ => d.undefMem [(pa, n)])

/-- R265: the instance ends early with status `st` (told to the others as `nst` when `tell`): sequences aborted, held partials
counted as absorbed, no resends; destinations, and an RS's source, undefined. -/
def Dev.endInst (d : Dev) (n st nst : Nat) (tell : Bool) : Dev :=
  match d.instOf n with
  | none => d
  | some (pl, x) =>
    let d := d.closeRange pl.part (0x8000 + n) (some st)
    let d := d.upMem (fun m => { m with waiting := m.waiting.filter (fun a => a.plan != n) })
    let d := d.each (d.mem.accs.filter (fun a => a.plan == n)) (fun d a => d.accAbort a)
    let d := d.upLdl (fun l => { l with absorbed := satAdd 64 l.absorbed x.hold.length })
    let d := d.undefVa pl.part x.dst (if x.op = 0 then x.bytes else pl.members.length * x.bytes)
    let d := if x.op = 0 && !x.sprue then d.undefVa pl.part x.src (pl.members.length * x.bytes) else d
    let d := d.upPlan n (fun pl => { pl with inst := none })
    let d := d.endWork x.queue x.index st 0 pl.sig
    if tell then d.sendNotices n pl x nst else d

/-- R264, R260: a whole instance completes with `st`. -/
def Dev.colDone (d : Dev) (n st : Nat) : Dev :=
  match d.instOf n with
  | none => d
  | some (pl, x) =>
    let d := d.closeRange pl.part (0x8000 + n) (some st)
    let d := d.upPlan n (fun pl => { pl with inst := none })
    let d := if x.sprue then d.upLdl (fun l => { l with sprueNs := min (2 ^ 32 - 1) ((d.now - x.at0) * 10) }) else d
    let d := if st = stVerdict then
        (d.upLdl (fun l => { l with verFail := satAdd 32 l.verFail 1 })).colEvent n 2 pl.self
      else d
    d.endWork x.queue x.index st 0 pl.sig

/-- R260: the folded record: a mismatch. -/
def verdictBad (r : Bytes) : Bool := le r 0 8 != le r 8 8 || le r 16 8 != 0

/-- R264: completes the instance when every packet has its outcome, everything destined for it is in, and the verdict is back. -/
def Dev.colFinish (d : Dev) (n : Nat) : Dev :=
  match d.instOf n with
  | none => d
  | some (pl, x) =>
    if !x.started || !x.sent.isEmpty || !x.fwd.isEmpty || (!x.sprue && x.pos != pl.steps x.op) then d
    else if x.sprue then (if x.final.isSome then d.colDone n stOk else d)
    else if pl.wantsVerdict x then
      match x.final with
      | some r => d.colDone n (if verdictBad r then stVerdict else stOk)
      | none => d
    else d.colDone n stOk

/-! ### Applying chunks -/

/-- What a received chunk came to. -/
inductive ColRes where
  | ok | notReady | denied (addr : Nat) | ue
deriving DecidableEq, Repr

/-- R250, R251: where chunk `k` of block `b` lands in this member's memory in step `j`. -/
def Inst.target (x : Inst) (pl : Plan) (j b k : Nat) : Nat :=
  if x.op != 0 then x.dst + b * x.bytes + 4096 * k
  else if j + 1 = pl.dims then x.dst + 4096 * k
  else x.src + b * x.bytes + 4096 * k

/-- R251, R257: one interleave piece of a clique contribution: the first to come opens the sequence and supplies this member's own
contribution. `va`: this member's own source of the piece. -/
def Dev.accPiece (d : Dev) (n : Nat) (pl : Plan) (x : Inst) (j s pa va : Nat) (bs : Bytes) (e : Ecc) : Dev × ColRes :=
  let give := fun (d : Dev) (a : AccSeq) (pos : Nat) (bs : Bytes) =>
    match d.accOne a.stack a.tag pos bs (crc32c bs) e with
    | (d, .full) => (d, ColRes.notReady)
    | (d, .ue) => (d, ColRes.ue)
    | (d, _) => (d, ColRes.ok)
  match d.mem.accs.find? (fun a => a.plan == n && a.addr == pa) with
  | some a => give d a (pl.digit j s) bs
  | none =>
    let st := pa / stackSize
    let a : AccSeq := {
      stack := st, tag := (d.mem.accs ++ d.mem.waiting).foldl (fun t y => if y.stack = st then max t (y.tag + 1) else t) 0, addr := pa,
      length := bs.length, n := pl.size j, fmt := x.fmt, part := pl.part, plan := n, next := 0, held := [] }
    if !d.mem.canOpen a then (d, .notReady)
    else
      match d.vaRead pl.part va bs.length 1 3 true e with
      | (d, .ok own) =>
        let d := d.upMem (fun m => { m with accs := m.accs ++ [a] })
        match give d a (pl.digit j pl.self) own with
        | (d, .ok) => give d a (pl.digit j s) bs
        | r => r
      | (d, .denied) => (d, .denied va)
      | (d, .ue) => (d, .ue)

def Dev.accPieces (n : Nat) (pl : Plan) (x : Inst) (j s : Nat) (e : Ecc) : List (Nat × Nat) → Nat → Bytes → Dev → Dev × ColRes
  | [], _, _, d => (d, .ok)
  | (pa, m) :: l, va, bs, d =>
    match d.accPiece n pl x j s pa va (bs.take m) e with
    | (d, .ok) => Dev.accPieces n pl x j s e l (va + m) (bs.drop m) d
    | r => r

/-- R251: a clique contribution of member `s`; nothing is kept of one that finds no room. -/
def Dev.accIn (d : Dev) (n : Nat) (pl : Plan) (x : Inst) (j b k s : Nat) (bs : Bytes) (e : Ecc) : Dev × ColRes :=
  match (d.part pl.part).pieces 0x10 false (pieceFuel bs.length) (x.target pl j b k) bs.length with
  | .error a => (d, .denied a)
  | .ok l =>
    match Dev.accPieces n pl x j s e l (x.src + b * x.bytes + 4096 * k) bs d with
    | (_, .notReady) => (d, .notReady)
    | r => r

/-- R250, R253: a plain write of a received chunk. -/
def Dev.colWrite (d : Dev) (p va : Nat) (need : Nat) (own : Bool) (bs : Bytes) : Dev × ColRes :=
  match d.vaWrite p va need 3 own bs with
  | (d, .ok _) => (d, .ok)
  | (d, .denied) => (d, .denied va)
  | (d, .ue) => (d, .ue)

/-- R251: a ring partial: added to this member's own block, written, and to be sent on. -/
def Dev.ringAdd (d : Dev) (n : Nat) (pl : Plan) (x : Inst) (j b k : Nat) (bs : Bytes) (e : Ecc) : Dev × ColRes :=
  let va := x.src + b * x.bytes + 4096 * k
  match d.vaRead pl.part va bs.length 1 3 true e with
  | (d, .denied) => (d, .denied va)
  | (d, .ue) => (d, .ue)
  | (d, .ok own) =>
    let (sum, c) := accMerge x.fmt 1 bs own
    let d := d.ledger pl.part x.queue x.index ⟨c, 0, 0⟩
    let out := pl.relays 0 j b k
    let tva := if out = [] then x.target pl j b k else va
    match d.colWrite pl.part tva 2 true sum with
    | (d, .ok) => (d.upInst n (fun x => { x with
        fwd := x.fwd ++ out.map (fun r => { step := j, block := b, chunk := k, member := r }) }), .ok)
    | r => r

/-- R257: bytes of ring partials in a Ladle's chain buffer, and of early contributions. -/
def Dev.chainUsed (d : Dev) (chain : Bool) (q : Nat) : Nat :=
  d.ldl.plans.foldl (fun a kv => match kv.2 with
    | some pl => (match pl.inst with
      | some x => x.hold.foldl (fun a h => if h.chain == chain && (!chain || h.ladle == q) then a + h.data.length else a) a
      | none => a)
    | none => a) 0

/-- R251, R257: a contribution or partial for a step this member has not come to is held, while there is room. -/
def Dev.colHold (d : Dev) (n : Nat) (h : ColHeld) : Dev × ColRes :=
  if d.chainUsed h.chain h.ladle + h.data.length ≤ (if h.chain then 4194304 else 8388608) then
    (d.upInst n (fun x => { x with hold := x.hold ++ [h] }), .ok)
  else (d, .notReady)

/-- R251, R253, R254: a checked chunk of member `s` for step `j`. -/
def Dev.colApply (d : Dev) (n : Nat) (pl : Plan) (x : Inst) (q j s : Nat) (chain : Bool) (addr : Nat) (bs : Bytes) (e : Ecc) : Dev × ColRes :=
  let b := if x.op = 0 && !chain && j + 1 = pl.dims then pl.self else addr / x.bytes
  let k := (if x.op = 0 && !chain && j + 1 = pl.dims then addr else addr % x.bytes) / 4096
  if x.op = 0 && (chain || !pl.ring j) then
    if !x.started || x.pos < pl.posOf 0 j then
      if !chain && (match (d.part pl.part).pieces 0x10 false (pieceFuel bs.length) (x.target pl j b k) bs.length with | .error _ => true | .ok _ => false)
      then (d, .denied (x.target pl j b k))
      else d.colHold n { ladle := q, step := j, chain := chain, member := s, block := b, chunk := k, data := bs }
    else if chain then d.ringAdd n pl x j b k bs e
    else d.accIn n pl x j b k s bs e
  else
    match d.colWrite pl.part ((if x.op = 0 && j + 1 != pl.dims then x.src else x.dst) + addr) 8 false bs with
    | (d, .ok) =>
      (d.upInst n (fun y => { y with
        resDig := if x.op = 1 then Nat.xor y.resDig (digTerm addr (crc32c bs)) else y.resDig,
        fwd := y.fwd ++ (pl.relays x.op j b k).map (fun r => { step := j, block := b, chunk := k, member := r }) }), .ok)
    | r => r

/-- Takes up the held contributions and partials of the current step. -/
def Dev.colTakeUp (n : Nat) : List ColHeld → Dev → Dev × ColRes
  | [], d => (d, .ok)
  | h :: l, d =>
    match d.instOf n with
    | none => (d, .ok)
    | some (pl, x) =>
      let r := if h.chain then d.ringAdd n pl x h.step h.block h.chunk h.data { ce := [], ue := [] }
               else d.accIn n pl x h.step h.block h.chunk h.member h.data { ce := [], ue := [] }
      match r with
      | (d, .ok) => Dev.colTakeUp n l (d.upInst n (fun x => { x with hold := dropFirst (· == h) x.hold }))
      | (d, .notReady) => Dev.colTakeUp n l d
      | (d, r) => (d, r)

/-- Takes up held work, and goes to the next step once this one is done. `fuel`: the steps. -/
def Dev.colAdvance (n : Nat) : Nat → Dev → Dev
  | 0, d => d
  | fuel + 1, d =>
    match d.instOf n with
    | none => d
    | some (pl, x) =>
      if !x.started || x.sprue || x.pos = pl.steps x.op then d
      else
        let j := pl.stepAt x.op x.pos
        match Dev.colTakeUp n (x.hold.filter (fun h => h.step == j)) d with
        | (d, .denied _) => d.endInst n stDenied stDenied true
        | (d, .ue) => d.endInst n stUe stUe true
        | (d, _) =>
          match d.instOf n with
          | none => d
          | some (pl, x) =>
            if x.out = pl.startsIn x.op x.bytes j && !x.fwd.any (fun f => f.step == j) && !x.hold.any (fun h => h.step == j) &&
               x.arrivals j = pl.fromsIn x.op x.bytes j
            then Dev.colAdvance n fuel (d.upInst n (fun x => { x with pos := x.pos + 1, out := 0 }))
            else d

/-- After any progress of plan n's instance. -/
def Dev.colNext (d : Dev) (n : Nat) : Dev :=
  ((Dev.colAdvance n 6 d).upInst n (fun x => { x with stalled := false })).colFinish n

/-! ### The sprue path (R261, R262) -/

/-- R262: the root of this member's group in clique step `j`. -/
def Dev.sprueRoot (d : Dev) (pl : Plan) (j : Nat) : Nat :=
  let me := d.rte.devId
  let first := pl.withDigit j pl.self 0
  if pl.order.getD j 0 = 0 && !d.rte.noMaster then
    ((pl.group j).find? (fun m => memberDev pl m == devId d.rte.master (devB me) (devC me) (devD me))).getD first
  else first

/-- R261: the parts of a value: one up to 128 bytes, two above. -/
def sprueParts (v : Bytes) : List (Nat × Bytes) := if v.length ≤ 128 then [(0, v)] else [(0, v.take 128), (1, v.drop 128)]

/-- Length of the instance's value: the verdict record's 24 bytes off the sprue path. -/
def Inst.spLen (x : Inst) : Nat := if x.sprue then x.bytes else 24

def spKey (j g part : Nat) : Nat := (j * 2 ^ 20 + g) * 2 + part

/-- A value of which all parts are in. -/
def joinParts (len : Nat) (p0 p1 : Option Bytes) : Option Bytes :=
  match p0, p1 with
  | some a, some b => some (a ++ b)
  | some a, none => if len ≤ 128 then some a else none
  | _, _ => none

/-- R261: one value folded to another. -/
def spMerge (x : Inst) (a b : Bytes) : Bytes × Nat :=
  if !x.sprue then
    (leBytes 8 (min (le a 0 8) (le b 0 8)) ++ leBytes 8 (max (le a 8 8) (le b 8 8)) ++ leBytes 8 (Nat.lor (le a 16 8) (le b 16 8)), 0)
  else if x.max then
    if x.fmt = 0x32 then
      (((chunksOf 4 (a.length / 4) a).zip (chunksOf 4 (a.length / 4) b)).flatMap (fun (u, v) => leBytes 4 (f32Max (ofLe u) (ofLe v))), 0)
    else
      (((chunksOf 2 (a.length / 2) a).zip (chunksOf 2 (a.length / 2) b)).flatMap
        (fun (u, v) => leBytes 2 (f32Max (ofLe u * 2 ^ 16) (ofLe v * 2 ^ 16) / 2 ^ 16)), 0)
  else accMerge x.fmt 1 a b

/-- R262: the fold of a group's values in ascending group index. -/
def spFold (x : Inst) : List Bytes → Bytes × Nat
  | [] => ([], 0)
  | v :: vs => vs.foldl (fun (a : Bytes × Nat) w => let r := spMerge x a.1 w; (r.1, a.2 + r.2)) (v, 0)

/-- R256: arg0 bits 15:0 of a SPRUE. -/
def spArg (n j : Nat) (down : Bool) (part : Nat) (verdict : Bool) : Nat :=
  n % 1024 + j % 4 * 1024 + b2n down * 4096 + part * 8192 + b2n verdict * 16384

/-- R261: a value to member `r`, by one packet a part. -/
def Dev.sendSprue (d : Dev) (n : Nat) (pl : Plan) (x : Inst) (r j : Nat) (down : Bool) (origin : Nat) (v : Bytes) : Dev :=
  d.each (sprueParts v) (fun d (part, bs) => d.sendColNext n pl x r 0x12 (spArg n j down part (!x.sprue)) origin bs)

/-- R262: this member enters sprue step `j` with its value. -/
def Dev.sprueEnter (d : Dev) (n : Nat) (pl : Plan) (x : Inst) (j : Nat) (v : Bytes) : Dev :=
  let m := pl.self
  let g := pl.digit j m
  let s := pl.size j
  let own := fun (d : Dev) => d.each (sprueParts v) (fun d (part, bs) =>
    d.upInst n (fun x => { x with spVals := tset none x.spVals (spKey j g part) (some bs) }))
  if pl.ring j then
    let d := own d
    let d := if 0 < s / 2 then d.sendSprue n pl x (pl.withDigit j m ((g + 1) % s)) j false m v else d
    if 0 < s - 1 - s / 2 then d.sendSprue n pl x (pl.withDigit j m ((g + s - 1) % s)) j true m v else d
  else
    let r := d.sprueRoot pl j
    if r = m then own d else d.sendSprue n pl x r j false m v

/-- R262: the result goes to the groups of the clique steps below `top`, in reverse plan order. -/
def Dev.sprueReturn (d : Dev) (n : Nat) (pl : Plan) (x : Inst) (top : Nat) (v : Bytes) : Dev :=
  d.each ((List.range top).reverse.filter (fun j => !pl.ring j && d.sprueRoot pl j == pl.self)) (fun d j =>
    d.each (pl.others j) (fun d r => d.sendSprue n pl x r j true pl.self v))

/-- The result is known: an all-reduce writes it. -/
def Dev.sprueFinal (d : Dev) (n : Nat) (top : Nat) (v : Bytes) : Dev :=
  match d.instOf n with
  | none => d
  | some (pl, x) =>
    let d := (d.upInst n (fun x => { x with final := some v })).sprueReturn n pl x top v
    if x.sprue && v != [] then
      match d.colWrite pl.part x.dst 2 true v with
      | (d, .ok) => d
      | (d, .ue) => d.endInst n stUe stUe true
      | (d, _) => d.endInst n stDenied stDenied true
    else d

/-- R262: folds every step whose values are in. `fuel`: the dimensions. -/
def Dev.sprueGo (n : Nat) : Nat → Dev → Dev
  | 0, d => d
  | fuel + 1, d =>
    match d.instOf n with
    | none => d
    | some (pl, x) =>
      if x.mine.isNone || x.final.isSome then d
      else
        let j := x.spPos
        if j = pl.dims then d.sprueFinal n j (x.mine.getD [])
        else if !pl.ring j && d.sprueRoot pl j != pl.self then d
        else
          let vs := (List.range (pl.size j)).map (fun g =>
            joinParts x.spLen (tget none x.spVals (spKey j g 0)) (tget none x.spVals (spKey j g 1)))
          if vs.any (·.isNone) then d
          else
            let (v, c) := spFold x (vs.filterMap id)
            let d := d.ledger pl.part x.queue x.index ⟨c, 0, 0⟩
            let d := d.upInst n (fun x => { x with mine := some v, spPos := j + 1 })
            let d := if j + 1 < pl.dims then d.sprueEnter n pl x (j + 1) v else d
            Dev.sprueGo n fuel d

/-- A value enters the sprue path. -/
def Dev.sprueStart (d : Dev) (n : Nat) (v : Bytes) : Dev :=
  match d.instOf n with
  | none => d
  | some (pl, x) =>
    let d := (d.upInst n (fun x => { x with mine := some v })).sprueEnter n pl x 0 v
    (Dev.sprueGo n 6 d).colFinish n

/-! ### The work orders -/

/-- R247: the collective (q, i) whose Ladle may take it. -/
def Dev.takeCol (d : Dev) (q i op : Nat) (sprue : Bool) : Option (Flight × Nat × Plan × Inst) :=
  match d.take q i (0x10 + op) with
  | none => none
  | some f =>
    let n := woOpd f.wo 0 2
    match d.instOf n with
    | some (pl, x) => if x.queue == q && x.index == i && x.sprue == sprue then some (f, n, pl, x) else none
    | none => none

/-- R253, R254: the local block of an AG or XCHG is copied; `none` when it was. -/
def Dev.colLocal (d : Dev) (pl : Plan) (x : Inst) (e : Ecc) : Dev × Option Nat × Bytes :=
  let va := if x.op = 1 then x.src else x.src + pl.self * x.bytes
  match d.vaRead pl.part va x.bytes 1 3 true e with
  | (d, .ok bs) =>
    match d.vaWrite pl.part (x.dst + pl.self * x.bytes) 2 3 true bs with
    | (d, .ok _) => (d, none, bs)
    | (d, a) => (d, some a.status, [])
  | (d, a) => (d, some a.status, [])

/-- R249–R254: the chunk path begins. -/
def Dev.ladle (d : Dev) (q i op : Nat) (e : Ecc) : Dev :=
  match d.takeCol q i op false with
  | none => d
  | some (_, n, pl, x) =>
    let d := d.startWork q i
    if d.ladleShort pl op then d.endInst n stShort stShort true
    else
      let (d, bad, own) := if op = 0 then (d, none, []) else d.colLocal pl x e
      match bad with
      | some st => d.endInst n st st true
      | none =>
        let t := pl.chunkTotal op x.bytes
        let base := (d.stream pl.part (0x8000 + n)).next
        let d := d.upStream pl.part (0x8000 + n) (fun s => { s with next := (s.next + t) % 2 ^ 32 })
        let dig := if op = 1 then (chunksOf 4096 (chunksIn x.bytes) own).zipIdx.foldl
          (fun a (c, k) => Nat.xor a (digTerm (pl.self * x.bytes + 4096 * k) (crc32c c))) 0 else 0
        (d.upInst n (fun x => { x with started := true, twBase := base, resDig := Nat.xor x.resDig dig })).colNext n

def doLadleRs (d : Dev) (q i : Nat) (e : Ecc) : Dev := d.ladle q i 0 e
def doLadleAg (d : Dev) (q i : Nat) (e : Ecc) : Dev := d.ladle q i 1 e
def doLadleXchg (d : Dev) (q i : Nat) (e : Ecc) : Dev := d.ladle q i 2 e

/-- R261: an all-reduce, maximum or barrier on the sprue path. -/
def doLadleAllReduce (d : Dev) (q i : Nat) (e : Ecc) : Dev :=
  match d.takeCol q i 0 true with
  | none => d
  | some (_, n, pl, x) =>
    let d := d.startWork q i
    if d.ladleShort pl 0 then d.endInst n stShort stShort true
    else
      match (if x.bytes = 0 then (d, Acc.ok []) else d.vaRead pl.part x.src x.bytes 1 3 true e) with
      | (d, .ok bs) => (d.upInst n (fun x => { x with started := true })).sprueStart n bs
      | (d, a) => d.endInst n a.status a.status true

/-- R246, R255: a Ladle reads, checksums and sends the next chunk of plan n's instance: those to be sent on first. -/
def doChunkSend (d : Dev) (n : Nat) (e : Ecc) : Dev :=
  match d.instOf n with
  | none => d
  | some (pl, x) =>
    if !x.started || x.sprue || (d.twinned pl.part && 2048 ≤ x.sent.length) then d
    else
      let j := pl.stepAt x.op x.pos
      let pick : Option (Nat × Nat × Nat × Nat × Bool) :=
        match x.fwd with
        | f :: _ => some (f.step, f.block, f.chunk, f.member, true)
        | [] => if x.pos = pl.steps x.op then none
                else (nthStart (pl.starts x.op j) (chunksIn x.bytes) pl.blocks x.out).map (fun y => (j, y.1, y.2.1, y.2.2, false))
      match pick with
      | none => d
      | some (j, b, k, r, on) =>
        let va := (if x.op = 1 then x.dst else x.src) + b * x.bytes + 4096 * k
        let d := d.upLdl (fun l => { l with lastPlan := tset 0 l.lastPlan (d.ladleTo (memberDev pl r)) n })
        match d.vaRead pl.part va (chunkLen x.bytes k) 1 3 true e with
        | (d, .ok bs) =>
          let chain := pl.chains x.op j r
          let off := pl.targetOff x.op j b k x.bytes chain
          let key := j * 2 ^ 20 + r
          let d := d.upInst n (fun x => { x with
            out := if on then x.out else x.out + 1, fwd := if on then x.fwd.drop 1 else x.fwd,
            txDig := tup 0 x.txDig key (fun a => Nat.xor a (digTerm off (crc32c bs))) })
          let t := (x.twBase + pl.chunkNo x.op x.bytes (pl.posOf x.op j) b k r) % 2 ^ 32
          let low := colArg n j x.op (pl.targetDst x.op j chain) chain
          Dev.colAdvance n 6 (d.sendCol n pl x r 0x10 low off t (some va) bs)
        | (d, a) => d.endInst n a.status a.status true

/-! ### Receiving (R257) -/

def oAccepted : Nat := 0x00
def oResend : Nat := 0x80
def oNotReady : Nat := 0x81

/-- R257: the CHUNK_ACK. -/
def Dev.colAck (d : Dev) (k : Packet) (o : Nat) : Dev :=
  let d := if o = oNotReady then d.upLdl (fun l => { l with notReady := satAdd 32 l.notReady 1 }) else d
  d.inject { d.packet 0x11 k.src k.srcPart k.dstPart k.seq k.addr k.arg0 o [] with echo := k.cong }

/-- Answers a packet; the outcomes after which the sender tries again are not recorded as settled (R376). -/
def Dev.colAns (d : Dev) (k : Packet) (o : Nat) : Dev × Option Nat :=
  (d.colAck k o, if o = oResend || o = oNotReady then none else some o)

/-- R34, R257: the checks that stand before a collective packet's own: service, plan and signature. -/
def Dev.colGate (d : Dev) (k : Packet) : Dev × Option (Nat × Plan) × Nat :=
  if !(d.part k.dstPart).ready then (d.upLdl (fun l => { l with absorbed := satAdd 64 l.absorbed 1 }), none, stFenced)
  else
    let n := k.arg0 % 1024
    match d.plan n with
    | some pl => if pl.part = k.dstPart && k.arg0 / 2 ^ 16 % 2 ^ 16 = pl.sig % 2 ^ 16 then (d, some (n, pl), 0) else (d, none, stMould)
    | none => (d, none, stMould)

/-- R257: where the packet's instance stands: current, yet to be dispatched, or past. -/
def Plan.instState (pl : Plan) (seq : Nat) : Option Inst × Bool :=
  match pl.inst with
  | some x => if x.inst = seq then (some x, false) else (none, seqNewer seq x.inst)
  | none => (none, seq == pl.count || seqNewer seq pl.count)

def Dev.countDup (d : Dev) : Dev := d.upLdl (fun l => { l with dup := satAdd 64 l.dup 1 })

/-- R250, R257: the range of a chunk lies in the receiver's buffer of its step, and its sender has a place there. -/
def Inst.inRange (x : Inst) (pl : Plan) (k : Packet) (s : Nat) : Bool :=
  let j := fld k.arg0 11 10
  let chain := bit k.arg0 15
  let toDst := bit k.arg0 14
  let size := if x.op = 0 && toDst then x.bytes else pl.members.length * x.bytes
  !x.sprue && decide (0 < k.length) && decide (k.length ≤ 4096) && decide (k.addr + k.length ≤ size) && fld k.arg0 13 12 == x.op &&
  (match x.op with
   | 0 => decide (j < pl.dims) && pl.grouped j s pl.self && toDst == pl.targetDst 0 j chain && (!chain || pl.ring j)
   | 1 => toDst && !chain && decide (j < pl.dims)
   | _ => toDst && !chain && j == 0)

/-- What a packet is accepted by, once. -/
def colIdent (k : Packet) (s : Nat) : Nat × Nat × Nat × Nat := (k.kind, s, k.arg0 % 2 ^ 16, k.addr)

/-- R257: the shared order of checks: service, signature, instance, then `range`, then the CRC-32C, then copies; `h` applies a first
copy. -/
def Dev.colRecv (d : Dev) (k : Packet) (range : Plan → Inst → Nat → Bool) (h : Dev → Nat → Plan → Inst → Nat → Dev × Nat) : Dev × Option Nat :=
  match d.colGate k with
  | (d, none, o) => d.colAns k o
  | (d, some (n, pl), _) =>
    match pl.instState k.seq with
    | (none, true) => d.colAns k oNotReady
    | (none, false) => (d.countDup).colAns k oAccepted
    | (some x, _) =>
      match pl.memberAt k.src k.srcPart with
      | none => d.colAns k stDenied
      | some s =>
        if !d.granted pl.part k.src k.srcPart || !range pl x s then d.colAns k stDenied
        else if crc32c k.payload != k.arg1 then d.colAns k oResend
        else if x.seen.contains (colIdent k s) then (d.countDup).colAns k oAccepted
        else
          match h d n pl x s with
          | (d, o) => d.colAns k o

/-- R255–R258: a chunk reaches this device; `q` is the Ladle of the quadrant whose router delivered it. -/
def doChunk (d : Dev) (q : Nat) (k : Packet) (e : Ecc) : Dev :=
  let d := (d.takePkt k).upLdl (fun l => { l with lastPlan := tset 0 l.lastPlan q (k.arg0 % 1024) })
  d.twinned1 k
    (fun d => d.colRecv k (fun pl x s => x.inRange pl k s) (fun d n pl x s =>
      let j := fld k.arg0 11 10
      match d.colApply n pl x q j s (bit k.arg0 15) k.addr k.payload e with
      | (d, .notReady) => (d, oNotReady)
      | (d, .denied a) => (d.denyPage a, stDenied)
      | (d, .ue) => (d.endInst n stUe stUe true, oAccepted)
      | (d, .ok) =>
        let d := d.upInst n (fun x => { x with
          seen := x.seen ++ [colIdent k s],
          rxDig := tup 0 x.rxDig (j * 2 ^ 20 + s) (fun a => Nat.xor a (digTerm k.addr k.arg1)) })
        (d.colNext n, oAccepted)))
    (fun d o => d.colAck k o)

/-- R260: a transfer digest is compared with this member's own. -/
def doDigestPacket (d : Dev) (k : Packet) : Dev :=
  let d := d.takePkt k
  d.twinned1 k
    (fun d => d.colRecv k (fun _ _ _ => true) (fun d n _ x s =>
      let j := fld k.arg0 11 10
      let bad := tget 0 x.rxDig (j * 2 ^ 20 + s) != le k.payload 0 8
      (d.upInst n (fun x => { x with
        seen := x.seen ++ [colIdent k s], digIn := x.digIn ++ [(j, s)], badDig := x.badDig || bad, stalled := false }), oAccepted)))
    (fun d o => d.colAck k o)

/-- R262: a value arrives: stored, passed on along a ring, or the result. -/
def Dev.sprueIn (d : Dev) (n : Nat) (pl : Plan) (x : Inst) (k : Packet) : Dev :=
  let j := fld k.arg0 11 10
  let down := bit k.arg0 12
  let part := fld k.arg0 13 13
  let o := k.addr % 2 ^ 20
  let m := pl.self
  let s := pl.size j
  let i := pl.digit j m
  let g := pl.digit j o
  let store := fun (d : Dev) => d.upInst n (fun x => { x with spVals := tset none x.spVals (spKey j g part) (some k.payload) })
  if pl.ring j then
    let d := store d
    let on := if down then decide ((g + s - i) % s < s - 1 - s / 2) else decide ((i + s - g) % s < s / 2)
    let d := if on then
        d.sendColNext n pl x (pl.withDigit j m (if down then (i + s - 1) % s else (i + 1) % s)) 0x12 (k.arg0 % 2 ^ 16) o k.payload
      else d
    Dev.sprueGo n 6 d
  else if down then
    let d := d.upInst n (fun x => { x with finParts := tset none x.finParts part (some k.payload) })
    match d.instOf n with
    | none => d
    | some (_, y) =>
      match (if y.final.isSome then none else joinParts y.spLen (tget none y.finParts 0) (tget none y.finParts 1)) with
      | some v => d.sprueFinal n j v
      | none => d
  else Dev.sprueGo n 6 (store d)

def doSprue (d : Dev) (k : Packet) : Dev :=
  let d := d.takePkt k
  d.twinned1 k
    (fun d => d.colRecv k
      (fun pl x _ => decide (fld k.arg0 11 10 < pl.dims) && (bit k.arg0 14 != x.sprue) && decide (k.length ≤ 128))
      (fun d n pl x s =>
        let d := (d.upInst n (fun x => { x with seen := x.seen ++ [colIdent k s], stalled := false })).sprueIn n pl x k
        (d.colFinish n, oAccepted)))
    (fun d o => d.colAck k o)

/-- R265: a NOTICE. -/
def doNotice (d : Dev) (k : Packet) : Dev :=
  let d := d.takePkt k
  d.twinned1 k
    (fun d =>
      match d.colGate k with
      | (d, none, o) => d.colAns k o
      | (d, some (n, pl), _) =>
        match pl.memberAt k.src k.srcPart with
        | none => d.colAns k stDenied
        | some s =>
          let st := k.arg1 % 256
          let heard := fun (d : Dev) =>
            (d.upLdl (fun l => { l with ntPlan := n, ntStatus := st, ntSent := false, ntValid := true, ntMember := s })).colEvent n 3 s
          match pl.instState k.seq with
          | (some _, _) => ((heard d).endInst n (noticeStatus st) st false).colAns k oAccepted
          | (none, true) =>
            let d := (heard d).upPlan n (fun pl => { pl with note := some (pl.note.getD (k.seq, st, s)) })
            d.colAns k oAccepted
          | (none, false) => (d.countDup).colAns k oAccepted)
    (fun d o => d.colAck k o)

/-! ### Outcomes at the sender (R257, R258) -/

/-- R260: with a transfer digest, once every chunk to member `r` in step `j` is ACCEPTED. -/
def Dev.sendDigest (d : Dev) (n j r : Nat) : Dev :=
  match d.instOf n with
  | none => d
  | some (pl, x) =>
    if x.op = 0 && bit pl.flags.toNat 1 && tget 0 x.acked (j * 2 ^ 20 + r) = pl.sendsTo 0 x.bytes j r then
      d.sendColNext n pl x r 0x13 (colArg n j 0 (pl.targetDst 0 j false) false) 0 (leBytes 8 (tget 0 x.txDig (j * 2 ^ 20 + r)))
    else d

/-- R267: two packets of one multicast: the same chunk, or the same result. -/
def sameCast (a b : Packet) : Bool := a.kind == b.kind && a.arg0 == b.arg0 && a.addr == b.addr && a.arg1 == b.arg1

/-- The packet that a CHUNK_ACK answers. -/
def ColSent.answers (c : ColSent) (k : Packet) : Bool :=
  c.pkt.dst == k.src && c.pkt.dstPart == k.srcPart && c.pkt.seq == k.seq && c.pkt.arg0 == k.arg0 && c.pkt.addr == k.addr

/-- R267: MEMBER_FENCED comes due once every other copy of the multicast has its outcome. -/
def Dev.colFenceDue (d : Dev) (n : Nat) : Dev :=
  match d.instOf n with
  | none => d
  | some (_, x) =>
    match x.endSt with
    | some (st, k) => if x.sent.any (fun c => sameCast c.pkt k) then d else d.endInst n st st true
    | none => d

/-- R257: the outcome `o` of a packet of the current instance. -/
def Dev.colOutcome (d : Dev) (n : Nat) (c : ColSent) (k : Packet) (o : Nat) : Dev :=
  let release := fun (d : Dev) => d.upInst n (fun x => { x with sent := dropFirst (fun y => y.answers k) x.sent, stalled := false })
  let note := fun (d : Dev) (f : ColSent → ColSent) => d.upInst n (fun x => { x with sent := updWhere (fun y => y.answers k) f x.sent })
  if o = oResend then
    if 8 ≤ c.crcRow + 1 && !c.copy then d.endInst n stChecksum stChecksum true
    else ((note d (fun c => { c with crcRow := c.crcRow + 1 })).upLdl (fun l => { l with rsCrc := satAdd 32 l.rsCrc 1 })).injectCol c.pkt
  else if o = oNotReady then
    note d (fun c => { c with crcRow := 0, nrUs := if c.nrUs = 0 then 10 else min 1000 (2 * c.nrUs) })
  else if c.copy then (release d).colNext n
  else if o = oAccepted then
    let d := release d
    let d := if c.pkt.kind = 0x10 then
        let j := fld c.pkt.arg0 11 10
        (d.upInst n (fun x => { x with acked := tup 0 x.acked (j * 2 ^ 20 + c.member) (· + 1) })).sendDigest n j c.member
      else d
    (d.colFenceDue n).colNext n
  else if o = stFenced then
    ((release d).upInst n (fun x => { x with endSt := some (x.endSt.getD (stMemberFenced, c.pkt)) })).colFenceDue n
  else if o = stDenied || o = stMould then d.endInst n o o true
  else d

/-- R257: a CHUNK_ACK gives a collective packet its outcome. -/
def doChunkAck (d : Dev) (k : Packet) : Dev :=
  let d := (d.takePkt k).noteEcho k
  let n := k.arg0 % 1024
  match d.plan n with
  | none => d
  | some pl =>
    match pl.inst.bind (fun x => x.sent.find? (fun c => c.answers k)) with
    | some c => d.colOutcome n c k (k.arg1 % 256)
    | none => d.upPlan n (fun pl => { pl with notes := dropFirst (fun c => c.answers k) pl.notes })

/-- R257, R258, R268: the timer of the `ix`-th packet without an outcome expires: it is sent again from the sender's own buffers,
unless its destination is declared lost. `note`: of the plan's NOTICEs. -/
def doChunkResend (d : Dev) (n : Nat) (note : Bool) (ix : Nat) (e : Ecc) : Dev :=
  let count := fun (d : Dev) => d.upLdl (fun l => { l with rsTimer := satAdd 32 l.rsTimer 1 })
  match d.plan n with
  | none => d
  | some pl =>
    let c := if note then pl.notes[ix]? else (match pl.inst with | some x => x.sent[ix]? | none => none)
    match c with
    | none => d
    | some c =>
      if d.isLost c.pkt.dst then d
      else
        match c.src with
        | none => (count d).inject c.pkt
        | some va =>
          match d.vaRead pl.part va c.pkt.length 1 3 true e with
          | (d, .ok bs) => (count d).inject { c.pkt with payload := bs, arg1 := crc32c bs }
          | (d, a) => d.endInst n a.status a.status true

/-! ### Verdict round, stalls, aborts -/

/-- R260: the DIGESTs of every step are in. -/
def Plan.digestsIn (pl : Plan) (x : Inst) : Bool :=
  x.op != 0 || (List.range pl.dims).all (fun j => (pl.others j).all (fun s =>
    pl.fromsOf 0 x.bytes j s == 0 || x.digIn.contains (j, s)))

/-- R260: once everything has settled, this member contributes its verdict record. -/
def doVerdictRound (d : Dev) (n : Nat) : Dev :=
  match d.instOf n with
  | none => d
  | some (pl, x) =>
    if x.started && pl.wantsVerdict x && x.pos = pl.steps x.op && x.sent.isEmpty && x.fwd.isEmpty && !x.verdict && pl.digestsIn x then
      let r := if x.op = 1 then x.resDig else 0
      (d.upInst n (fun x => { x with verdict := true })).sprueStart n (leBytes 8 r ++ leBytes 8 r ++ leBytes 8 (b2n x.badDig))
    else d

/-- R266, R270: the members whose packets the instance awaits. -/
def Dev.awaited (d : Dev) (pl : Plan) (x : Inst) : List Nat :=
  let j := pl.stepAt x.op x.pos
  let chunks := if x.sprue || x.pos = pl.steps x.op then []
    else (List.range pl.members.length).filter (fun s => decide (x.arrivalsOf j s < pl.fromsOf x.op x.bytes j s))
  let sp := if x.mine.isNone || x.final.isSome || x.spPos = pl.dims then []
    else if !pl.ring x.spPos && d.sprueRoot pl x.spPos != pl.self then [d.sprueRoot pl x.spPos]
    else (pl.group x.spPos).filter (fun m => (joinParts x.spLen (tget none x.spVals (spKey x.spPos (pl.digit x.spPos m) 0))
      (tget none x.spVals (spKey x.spPos (pl.digit x.spPos m) 1))).isNone)
  x.sent.map (·.member) ++ chunks ++ sp

/-- The lowest of a list. -/
def lowest (l : List Nat) : Option Nat := l.foldl (fun a m => match a with | some b => some (min b m) | none => some m) none

/-- R266: a whole stall interval. -/
def doCollectiveStall (d : Dev) (n : Nat) : Dev :=
  match d.instOf n with
  | none => d
  | some (pl, x) =>
    let d := (d.upLdl (fun l => { l with stalls := satAdd 32 l.stalls 1 })).upInst n (fun x => { x with stalled := true })
    d.colEvent n 1 ((lowest (d.awaited pl x)).getD 0)

/-- R268: a member of the plan is declared lost. -/
def Dev.planLost (d : Dev) (pl : Plan) : Bool := pl.members.any (fun m => d.isLost m.1)

/-- R268, R270: LDL_ABORT, bound host only. -/
def doLdlAbort (d : Dev) (r : Requester) (n : Nat) : Dev :=
  if !hostOnly r then d.accessErr
  else
    match d.instOf n with
    | none => d
    | some (pl, _) =>
      let st := if d.planLost pl then stUnreachable else stCancelled
      d.endInst n st st true

/-- R225, R268: an UNREACH: its device is declared lost, and every collective with that member says so. -/
def doUnreach (d : Dev) (k : Packet) : Dev :=
  let dev := k.arg0 % 2 ^ 20
  let d := (d.takePkt k).declareLost dev
  d.each d.ldl.plans (fun d kv => match kv.2 with
    | some pl => if pl.inst.isSome then
        d.each ((List.range pl.members.length).filter (fun m => memberDev pl m == dev)) (fun d m => d.colEvent kv.1 5 m) else d
    | none => d)

/-- R364, R268: the instances of a partition are abandoned. -/
def Dev.abandonCols (d : Dev) (p st : Nat) : Dev :=
  d.each d.ldl.plans (fun d kv => match kv.2 with
    | some pl => if pl.part = p then d.endInst kv.1 st stFenced true else d
    | none => d)

/-! ### Contributions (R185, R186) -/

/-- R185–R187: one contribution at a die; one that fails its CRC-32C is reported; an uncorrectable destination ends the collective. -/
def doAccApply (d : Dev) (s tag pos : Nat) (data : Bytes) (crc : Nat) (e : Ecc) : Dev :=
  let plan := (d.accSeq s tag).map (·.plan)
  match d.accOne s tag pos data crc e with
  | (d, .crcBad) => d.emit (.accBad s tag pos)
  | (d, .ue) => (match plan with | some n => d.endInst n stUe stUe true | none => d)
  | (d, _) => d

end Sys2Proof.Machine
end

