-- ==== Sys2Proof/Machine/Events.lean ====
section
/-! DEFINITION. The event concentrator's commands (R289–R295): the event doorbell, batches and records; the device's own requests to
the host (R284, R285). -/

namespace Sys2Proof.Machine

/-! ### Requests to the host (R284) -/

/-- R284: the device sends a request on QP `n`, kept until acknowledged; a QP that is not in RTS sends nothing. -/
def Dev.hostReq (d : Dev) (n : Nat) (o : Out) : Dev :=
  if (d.qp n).state = 1 then
    (d.upQp n (fun q => { q with unack := q.unack ++ [q.sendPsn], sendPsn := (q.sendPsn + 1) % 2 ^ 24 })).emit o
  else d

/-- R285: ring slots of host event queue `k`. -/
def Evq.size (q : Evq) : Nat := 2 ^ q.log2

def EvRec.bytes (r : EvRec) : Bytes :=
  leBytes 2 r.source ++ leBytes 1 r.count ++ leBytes 1 r.flags ++ leBytes 6 r.ts ++ leBytes 6 r.info

/-- R285: the record at index `i` goes to its slot of the host ring. -/
def Dev.writeEvRec (d : Dev) (k i : Nat) (r : EvRec) : Dev :=
  let q := d.evq k
  d.hostReq q.qp (.hostWrite q.qp (q.va + 16 * (i % q.size)) q.rkey (EvRec.bytes r))

/-- R285: one notification. -/
def Dev.notifyEvq (d : Dev) (k : Nat) : Dev :=
  let q := d.evq k
  d.hostReq q.qp (.hostImm q.qp (k % 256 + q.prod % 2 ^ 24 * 256))

/-- R285: records kept and not yet passed are written again, from the consumer count. -/
def Dev.rewriteEvq (d : Dev) (k : Nat) : Dev :=
  let q := d.evq k
  d.each q.recs.zipIdx (fun d (r, i) => d.writeEvRec k (q.cons + i) r)

/-! ### The event doorbell (R289, R290) -/

/-- R40, R289: the doorbell's address. -/
def eventBell : Nat := 0xF1001000000

/-- R289: the value is one the bound host may write: no reserved bit; a raise only of a bound software source. -/
def Dev.eventOk (d : Dev) (v : Nat) : Bool :=
  let n := v % 2 ^ 16
  v / 2 ^ 17 % 2 ^ 15 == 0 && (bit v 16 || (decide (0xD800 ≤ n) && (d.src n).bound))

def Dev.eventBellWrite (d : Dev) (v : Nat) : Dev :=
  if !d.eventOk v then (d.upEvc (fun e => { e with refBell := satAdd 16 e.refBell 1 })).refuse eventBell
  else if bit v 16 then d.complete (v % 2 ^ 16)
  else d.raise (v % 2 ^ 16) 0

/-- R289: the bound host writes `v`, op 0, to the event doorbell. -/
def doEventRaise (d : Dev) (v : Nat) : Dev := if bit v 16 then d else d.eventBellWrite v

/-- R289, R290: the bound host writes `v`, op 1, to the event doorbell. -/
def doEventComplete (d : Dev) (v : Nat) : Dev := if bit v 16 then d.eventBellWrite v else d

/-! ### Batches (R291–R295, R430) -/

/-- R288, R290: shell sources are enabled unless written off. -/
def Dev.srcEnabled (d : Dev) (n : Nat) : Bool := if shellSrc n then !d.evc.srcOff.contains n else (d.src n).enabled

/-- R294: the event queue of a source. -/
def Dev.srcQueue (d : Dev) (n : Nat) : Nat := if shellSrc n then (d.group (n / 256)).queue else (d.src n).queue

/-- R294: unconsumed records of an event queue. -/
def Dev.evFill (d : Dev) (k : Nat) : Nat :=
  if k < 4 then (tget 0 d.evc.arcProd k + 65536 - tget 0 d.evc.arcCons k) % 65536
  else ((d.evq k).prod + 2 ^ 32 - (d.evq k).cons) % 2 ^ 32

def Dev.evFull (d : Dev) (k : Nat) : Bool := decide ((if k < 4 then 256 else (d.evq k).size) ≤ d.evFill k)

/-- R294: the queue takes records. -/
def Dev.evRoom (d : Dev) (k : Nat) : Bool := (k < 4 || (d.evq k).enable) && !d.evFull k

/-- R291. -/
def Dev.eligible (d : Dev) (n : Nat) : Bool :=
  (d.src n).pending != 0 && d.srcEnabled n && !(d.src n).outst && d.evRoom (d.srcQueue n)

/-- R430: a copy of a shell record for the controller's EVENTS. -/
def Dev.copyRecord (d : Dev) (r : EvRec) : Dev :=
  if shellSrc r.source && bit d.mgmt.subs.toNat (r.source / 256 - 0xC4) then
    if 256 ≤ d.mgmt.copied.length + d.mgmt.unans then d.upMgmt (fun m => { m with skipped := satAdd 16 m.skipped 1 })
    else d.upMgmt (fun m => { m with copied := m.copied ++ [r] })
  else d

/-- R290, R293–R295: the record of source `n` is written. `spilt`: flag bit 2. -/
def Dev.writeRecordOf (d : Dev) (n : Nat) (spilt : Bool) : Dev :=
  let s := d.src n
  let k := d.srcQueue n
  let r : EvRec := { source := n, count := s.pending, flags := b2n s.onOsc + 2 * b2n (s.pending == 255) + 4 * b2n spilt, ts := s.first,
                     info := s.info }
  let d := d.upSrc n (fun s => { s with pending := 0, outst := !tget false d.evc.auto k })
  let d := d.copyRecord r
  if k < 4 then
    let first := d.evFill k == 0
    d.upEvc (fun e => { e with
      arcRecs := tup [] e.arcRecs k (· ++ [r]), arcProd := tup 0 e.arcProd k (fun p => (p + 1) % 65536),
      wakePend := if first then e.wakePend ||| BitVec.ofNat 4 (2 ^ k) else e.wakePend, awake := true })
  else
    let i := (d.evq k).prod
    (d.writeEvRec k i r).upEvq k (fun q => { q with prod := (q.prod + 1) % 2 ^ 32, recs := q.recs ++ [r] })

/-- R285, R291, R293: the batch of group `g`: a record for each source eligible when it starts, in ascending source number, then a
notification to each host queue whose ring was empty before. -/
def doEventBatch (d : Dev) (g : Nat) : Dev :=
  let x := d.group g
  let ns := ((d.evc.srcs.filter (fun kv => kv.1 / 256 == g)).map (·.1)).filter d.eligible
  if ns = [] then d
  else
    let empty := (List.range 64).filter (fun k => decide (4 ≤ k) && d.evFill k == 0)
    let spilt := x.spill != x.spillAt
    let d := d.upGroup g (fun x => { x with spillAt := x.spill, lastAt := d.now })
    let d := d.each ns (fun d n => if d.evRoom (d.srcQueue n) then d.writeRecordOf n spilt else d)
    d.each (empty.filter (fun k => d.evFill k != 0)) (fun d k => d.notifyEvq k)

end Sys2Proof.Machine
end

