-- ==== Sys2Proof/Machine/HostPort.lean ====
section
/-! DEFINITION. Host attachment over Ethernet (R271–R287): ports, the RoCEv2 responder for memory and doorbell regions, SEND, the
device as requester, congestion, queue pairs, regions and event queues. -/

namespace Sys2Proof.Machine

/-! ### Ports (R271, R272, R282, R286) -/

/-- R271: line rate in MB/s of a speed code. -/
def lineRate (speed : Nat) : Nat := if speed = 0 then 100000 else if speed = 1 then 50000 else 25000

/-- R271, R286: a port comes up; event 0xC4C4 + i when it had been up before. -/
def doHostLinkUp (d : Dev) (p : Nat) : Dev :=
  let x := d.hport p
  if !x.enable || x.state = 2 then d
  else
    let d := d.upHPort p (fun x => { x with state := 2, inUse := x.speed, was := true })
    if x.was then d.raiseAny (0xC4C4 + p) else d

/-- R286: the link goes down: event 0xC4C0 + i; the QPs stay as they are. -/
def Dev.linkDown (d : Dev) (p st : Nat) : Dev :=
  let up := (d.hport p).state == 2
  let d := d.upHPort p (fun x => { x with state := st, paused := 0 })
  if up then d.raiseAny (0xC4C0 + p) else d

def doHostLinkDown (d : Dev) (p : Nat) : Dev := if (d.hport p).state = 2 then d.linkDown p 3 else d

/-- R271, R287: HST_PORT_CTL retrain. -/
def doHostPortRetrain (d : Dev) (p : Nat) : Dev := if (d.hport p).enable then d.linkDown p 1 else d

def Dev.countForeign (d : Dev) : Dev := d.upHst (fun h => { h with foreign := satAdd 32 h.foreign 1 })

/-- R272: an ARP request for an address. -/
def doArpRequest (d : Dev) (p addr : Nat) : Dev := if (d.hport p).addr = addr then d.emit (.arp p) else d.countForeign

/-- R272: a Neighbor Solicitation for an address. -/
def doNeighborSolicitation (d : Dev) (p addr : Nat) : Dev := if (d.hport p).addr = addr then d.emit (.neighbor p) else d.countForeign

def setBit3 (b : BitVec 3) (i : Nat) (v : Bool) : BitVec 3 :=
  if v then b ||| BitVec.ofNat 3 (2 ^ i) else b &&& ~~~(BitVec.ofNat 3 (2 ^ i))

/-- R282: a received pause, or resume, of a class (0 control, 1 event, 2 bulk). -/
def doPfcFrame (d : Dev) (p cls : Nat) (pause : Bool) : Dev := d.upHPort p (fun x => { x with paused := setBit3 x.paused cls pause })

/-- R282: the pause time runs out. -/
def doPfcPauseExpiry (d : Dev) (p cls : Nat) : Dev := d.upHPort p (fun x => { x with paused := setBit3 x.paused cls false })

/-- R272, R273: any other frame, or an unbound packet. -/
def doForeignFrame (d : Dev) : Dev := d.countForeign

/-! ### The responder (R273–R281, R283) -/

/-- R283: a CNP to the source QP, at most one per QP per 50 µs. -/
def Dev.sendCnp (d : Dev) (n : Nat) : Dev :=
  if (d.qp n).cnpAt = 0 || (d.qp n).cnpAt + 5000 ≤ d.now then
    ((d.upQp n (fun q => { q with cnpAt := max 1 d.now })).upHst (fun h => { h with cnpOut := satAdd 32 h.cnpOut 1 })).emit (.cnp n)
  else d

/-- R279: a NAK. -/
def Dev.nak (d : Dev) (h : Roce) (syn : Nat) : Dev :=
  (d.upHst (fun x => { x with
    nakAcc := if syn = 0x62 then satAdd 16 x.nakAcc 1 else x.nakAcc,
    nakOth := if syn = 0x62 then x.nakOth else satAdd 16 x.nakOth 1 })).emit (.roceNak h.qp h.psn syn)

def Dev.ack (d : Dev) (h : Roce) : Dev := d.emit (.roceAck h.qp h.psn)

/-- R280: what a duplicate comes to. -/
inductive Again where
  | count | ack | run
deriving DecidableEq, Repr

/-- R273, R279, R280: a request of `n` packets: source, QP and PSN first; `run` executes it and answers 0 or a syndrome; `done`
answers it. -/
def Dev.roce (d : Dev) (h : Roce) (n : Nat) (again : Again) (run : Dev → Dev × Nat) (done : Dev → Dev) : Dev :=
  match d.bind with
  | none => d.countForeign
  | some b =>
    let q := d.qp h.qp
    if 8192 ≤ h.qp then d
    else if !b.addrs.contains h.srcAddr || b.addrs.getD q.addrIx 0 != h.srcAddr then d.countForeign
    else if q.state != 1 then d
    else
      let d := if h.ce then d.sendCnp h.qp else d
      let x := (h.psn + 2 ^ 24 - q.recvPsn) % 2 ^ 24
      if x = 0 then
        if h.badOp then d.nak h 0x61
        else
          match run d with
          | (d, 0) => done (d.upQp h.qp (fun q => { q with recvPsn := (q.recvPsn + n) % 2 ^ 24 }))
          | (d, s) => d.nak h s
      else if x < 2 ^ 23 then d.nak h 0x60
      else
        match again with
        | .count => (d.upHst (fun x => { x with dup := satAdd 32 x.dup 1 })).ack h
        | .ack => d.ack h
        | .run => match run d with | (d, 0) => done d | (d, s) => d.nak h s

/-- R276: the region an R_Key names, if the request lies in it and it grants the right. -/
def Dev.regionFor (d : Dev) (h : Roce) (len : Nat) (write : Bool) : Option HRegion :=
  let r := tget HRegion.init d.hst.regions (h.rkey % 1024)
  if r.valid && h.rkey / 1024 % 64 == 0 && h.rkey / 65536 % 65536 == r.gen && decide (r.base ≤ h.addr) &&
     decide (h.addr + len ≤ r.base + r.length) && (if write then r.wr else r.rd)
  then some r else none

/-- R276, R279: a request by a region: without one, a remote access error; a request of another kind of region is another
command's. -/
def Dev.viaRegion (d : Dev) (h : Roce) (len : Nat) (write : Bool) (f : Dev → HRegion → Dev × Nat) : Dev × Nat :=
  match d.regionFor h len write with
  | none => (d.refuse h.addr, 0x62)
  | some r => f d r

/-- Whether the request is the command of a region of this kind, or of none. -/
def Dev.kindIs (d : Dev) (h : Roce) (len kind : Nat) (write : Bool) : Bool :=
  match d.regionFor h len write with | some r => r.kind == kind | none => true

/-- R274: packets of a message at path MTU 4,096. -/
def packets (len : Nat) : Nat := max 1 (ceilDiv len 4096)

/-- R276, R279: RDMA WRITE to a memory region. -/
def doRdmaWriteMemory (d : Dev) (h : Roce) (bs : Bytes) : Dev :=
  if !d.kindIs h bs.length 0 true then d
  else d.roce h (packets bs.length) .count (fun d => d.viaRegion h bs.length true (fun d r =>
    if !(d.part r.part).ready then (d, 0x63)
    else
      match d.vaWrite r.part h.addr 0x80 6 false bs with
      | (d, .denied) => (d, 0x62)
      | (d, _) => (d, 0))) (fun d => d.ack h)

/-- R276, R279, R280: RDMA READ of a memory region. -/
def doRdmaReadMemory (d : Dev) (h : Roce) (len : Nat) (e : Ecc) : Dev :=
  if !d.kindIs h len 0 false then d
  else
    let read := fun (d : Dev) => d.viaRegion h len false (fun d r =>
      if !(d.part r.part).ready then (d, 0x63)
      else
        match d.vaRead r.part h.addr len 0x40 6 false e with
        | (d, .ok bs) => (d.emit (.roceData h.qp h.psn bs), 0)
        | (d, .denied) => (d, 0x62)
        | (d, .ue) => (d, 0x63))
    d.roce h (packets len) .run read id

/-- R40, R278, R279: one doorbell write of `n` bytes at a local physical address. -/
def Dev.bellWrite (d : Dev) (a n v : Nat) (e : Ecc) : Dev × Nat :=
  if 0xF1000000000 ≤ a && a < 0xF1000200000 then
    let q := (a - 0xF1000000000) / 64
    let off := a % 64
    let x := d.queue q
    if n != 4 || a % 4 != 0 then (d, 0x61)
    else (doQueueDoorbell d q off v e, if x.state = 0 || off != 0 || (x.bound && (d.part x.part).state == 1) then 0x62 else 0)
  else if a = eventBell then
    if n != 4 then (d, 0x61) else (d.eventBellWrite v, if d.eventOk v then 0 else 0x62)
  else if 0xF1002000000 ≤ a && a < 0xF1002020000 then
    if n != 8 || a % 8 != 0 then (d, 0x61)
    else
      let c := (a - 0xF1002000000) / 8
      let x := d.counter c
      (doSyncCounterDoorbell d c v, if !x.bound then 0x62 else if (d.part x.part).ready then 0 else 0x63)
  else (d.refuse a, 0x62)

/-- R278: RDMA WRITE to a doorbell region. `e`: what the queue's read of its head finds (R147). -/
def doRdmaWriteDoorbell (d : Dev) (h : Roce) (bs : Bytes) (e : Ecc) : Dev :=
  if !d.kindIs h bs.length 1 true then d
  else d.roce h (packets bs.length) .count (fun d => d.viaRegion h bs.length true (fun d _ =>
    d.bellWrite h.addr bs.length (ofLe bs) e)) (fun d => d.ack h)

/-- R274, R279, R281: a SEND delivers a Novvan message to the Archivist, if the QP is of the control class and has a receive entry
(else an RNR NAK with timer field 0x0E). -/
def doRoceSend (d : Dev) (h : Roce) (len : Nat) : Dev :=
  d.roce h (packets len) .ack (fun d =>
    if (d.qp h.qp).cls != 0 || 65600 < len then (d, 0x61)
    else if 16 ≤ (d.qp h.qp).recvBuf then (d, 0x2E)
    else (d.upQp h.qp (fun q => { q with recvBuf := q.recvBuf + 1 }), 0)) (fun d => d.ack h)

/-- R281: the Archivist has taken in a message of QP `n`. -/
def Dev.freeEntry (d : Dev) (n : Nat) : Dev := d.upQp n (fun q => { q with recvBuf := q.recvBuf - 1 })

/-! ### The requester (R274, R284) -/

/-- PSN `a` is at or before `b`. -/
def psnUpTo (a b : Nat) : Bool := decide ((b + 2 ^ 24 - a) % 2 ^ 24 < 2 ^ 23)

/-- R284: everything up to PSN `psn` is acknowledged. -/
def Dev.acked (d : Dev) (n psn : Nat) : Dev := d.upQp n (fun q => { q with unack := q.unack.filter (fun a => !psnUpTo a psn), tries := 0 })

/-- R284: the QP enters ERROR: event 0xC4C8. -/
def Dev.qpError (d : Dev) (n : Nat) : Dev :=
  if (d.qp n).state = 1 then (d.upQp n (fun q => { q with state := 2, unack := [], tries := 0 })).raise 0xC4C8 n else d

/-- R284: retransmission of what is not acknowledged, while retries remain. -/
def Dev.qpRetry (d : Dev) (n : Nat) : Dev :=
  let q := d.qp n
  if q.state != 1 || q.unack = [] then d
  else if q.retry ≤ q.tries then d.qpError n
  else d.each q.unack (fun d p => d.emit (.resend n p)) |>.upQp n (fun q => { q with tries := q.tries + 1 })

/-- R274: a response to a device READ arrives: its PSN and those before it are acknowledged. -/
def doRdmaReadResponse (d : Dev) (n psn : Nat) : Dev := if (d.qp n).state = 1 then d.acked n psn else d

/-- R284: an ACK (syndrome 0x00–0x1F), a PSN sequence error or an RNR NAK, which ask for a retransmission, or a fatal NAK. -/
def doRoceAck (d : Dev) (n psn syn : Nat) : Dev :=
  if (d.qp n).state != 1 then d
  else if syn < 0x20 then d.acked n psn
  else if syn = 0x60 || (0x20 ≤ syn && syn < 0x40) then (d.acked n ((psn + 2 ^ 24 - 1) % 2 ^ 24)).qpRetry n
  else d.qpError n

/-- R284: the local ACK timeout. -/
def doRoceAckTimeout (d : Dev) (n : Nat) : Dev := d.qpRetry n

/-! ### Congestion (R283) -/

def doCnp (d : Dev) (n : Nat) : Dev :=
  let d := d.upHst (fun h => { h with cnpIn := satAdd 32 h.cnpIn 1 })
  d.upQp n (fun q => { q with
    rate := if q.cutAt = 0 || q.cutAt + 1000 ≤ d.now then max 1000 (q.rate - q.rate / 8) else q.rate,
    cutAt := if q.cutAt = 0 || q.cutAt + 1000 ≤ d.now then max 1 d.now else q.cutAt, cnpIn := d.now })

def doCnpRateRaise (d : Dev) (n : Nat) : Dev :=
  d.upQp n (fun q => { q with rate := min (lineRate (d.hport q.port).inUse) (q.rate + 2000) })

/-! ### Queue pairs, regions, event queues (R275, R276, R285) -/

/-- R275, R287: a write of HST_QP_CFG's state field. -/
def Dev.qpState (d : Dev) (n v : Nat) : Dev :=
  let q := d.qp n
  if v = 0 then d.upQp n (fun q => { q with state := 0, unack := [], tries := 0 })
  else if v = 1 && q.state = 0 then
    let d := d.upQp n (fun q => { q with state := 1 })
    d.each ((List.range 64).filter (fun k => (d.evq k).enable && (d.evq k).qp == n)) (fun d k => d.rewriteEvq k)
  else d

def doQpStateWrite (d : Dev) (r : Requester) (n v : Nat) : Dev := if hostOnly r then d.qpState n v else d.accessErr

/-- R276: setting valid increments the generation. -/
def Dev.regionValid (d : Dev) (n : Nat) : Dev :=
  d.upHst (fun h => { h with regions := tup HRegion.init h.regions n (fun r =>
    if r.valid then r else { r with valid := true, gen := (r.gen + 1) % 65536 }) })

def doRegionValidSet (d : Dev) (r : Requester) (n : Nat) : Dev := if hostOnly r then d.regionValid n else d.accessErr

/-- R285: the consumer count passes records; a count that leaves the ring non-empty is answered by one notification. -/
def Dev.evqConsume (d : Dev) (k v : Nat) : Dev :=
  let q := d.evq k
  let n := (v + 2 ^ 32 - q.cons) % 2 ^ 32
  let d := d.upEvq k (fun q => { q with cons := v % 2 ^ 32, recs := q.recs.drop n })
  if (d.evq k).prod != v % 2 ^ 32 then d.notifyEvq k else d

def doEvqConsumerWrite (d : Dev) (r : Requester) (k v : Nat) : Dev := if hostOnly r then d.evqConsume k v else d.accessErr

/-- R273: regions 0 and 1, and QP 0, as the Archivist sets them when it writes or restores a binding. -/
def Dev.applyBinding (d : Dev) (b : Binding) : Dev :=
  let put := fun (d : Dev) (n base len kind : Nat) =>
    d.upHst (fun h => { h with regions := tup HRegion.init h.regions n (fun r =>
      { base := base, length := len, part := 0, kind := kind, rd := true, wr := true, valid := true, gen := (r.gen + 1) % 65536 }) })
  let d := { d with bind := some { b with gen := (b.gen + 1) % 65536 } }
  let d := d.upQp 0 (fun q => { q with state := 1, port := b.port, remote := b.qpn, cls := 0 })
  put (put d 0 0xF0000000000 0x1000000 2) 1 0xF1000000000 0x2020000 1

end Sys2Proof.Machine
end

