-- ==== Sys2Proof/Machine/Power.lean ====
section
/-! DEFINITION. The gang and its master (R242, R243), and power: measurement and estimate (R300–R302), the effective cap (R303–R305),
enforcement (R306–R312), the riser (R313, R314), power groups (R316–R318), CAP_EMERG_N (R432). What a sensor or an activity
counter gives is an operand. -/

namespace Sys2Proof.Machine

/-! ### The gang (R242, R243) -/

/-- R242: GANG_MASTER_EN asserted (strap bit 8) and the coordinate valid. -/
def Dev.eligibleMaster (d : Dev) : Bool := d.rte.eligible && d.rte.valid

/-- The gang member at coordinate `a`. -/
def Dev.gangId (d : Dev) (a : Nat) : Nat := devId a (devB d.rte.devId) (devC d.rte.devId) (devD d.rte.devId)

def Dev.myA (d : Dev) : Nat := devA d.rte.devId

def Dev.gangOthers (d : Dev) : List Nat := (List.range 8).filter (· != d.myA)

/-- R242: the members that replied within 3 ms. -/
def Dev.liveNow (d : Dev) : BitVec 8 :=
  BitVec.ofNat 8 (ofBits (d.gangOthers.filter (fun a => match tget 0 d.rte.replyAt a with | 0 => false | t => decide (d.now ≤ t + 300000))))

/-- R242: a beacon, or the reply to one. -/
def Dev.sendBeacon (d : Dev) (a : Nat) (reply : Bool) : Dev :=
  d.inject (d.packet 0x1B (d.gangId a) 0 0 0 0 d.rte.live.toNat (b2n reply) [])

/-- R242: the device follows master `a` (8: none); a change is counted and raises 0xC4A6. -/
def Dev.follow (d : Dev) (a : Nat) : Dev :=
  let old := if d.rte.noMaster then 8 else d.rte.master
  let d := d.upRte (fun r => { r with
    master := if a = 8 then 0 else a, noMaster := a == 8, isMaster := a == d.myA,
    live := if a = d.myA then r.live else 0, replyAt := if a = d.myA then r.replyAt else [],
    changes := if a = old then r.changes else satAdd 16 r.changes 1 })
  if a = old then d
  else (d.upPwr (fun p => { p with alloc := 0, held := false, lastRound := none, members := [] })).raiseAny 0xC4A6

/-- R242: the master beacons to each member every 1 ms. -/
def doGangBeaconSend (d : Dev) : Dev :=
  if d.rte.isMaster then
    let d := d.upRte (fun r => { r with live := d.liveNow })
    d.each d.gangOthers (fun d a => d.sendBeacon a false)
  else d

/-- R242: a beacon or a reply arrives. -/
def doGangBeacon (d : Dev) (k : Packet) : Dev :=
  let d := d.takePkt k
  let a := devA k.src
  if k.src != d.gangId a || a = d.myA then d
  else if k.arg1 % 2 = 1 then
    if d.rte.isMaster then
      let d := d.upRte (fun r => { r with replyAt := tset 0 r.replyAt a (max 1 d.now) })
      d.upRte (fun r => { r with live := d.liveNow })
    else d
  else
    let cur := if d.rte.noMaster then 8 else d.rte.master
    let d := if a ≤ cur then d.follow a else d
    d.sendBeacon a true

/-- R242: an eligible device has heard no beacon of a lower one for 3 ms: it becomes master. -/
def doGangMasterTimeout (d : Dev) : Dev := if d.eligibleMaster && !d.rte.isMaster then d.follow d.myA else d

/-- R243: a device has heard its master for 3 ms no more. -/
def doGangFollowTimeout (d : Dev) : Dev := if !d.rte.isMaster && !d.rte.noMaster then d.follow 8 else d

/-! ### Rate limits (R306, R312) -/

/-- R312: the highest rate limit: the governed rate in governed mode; else what 850 mV gives, which no rule bounds below 2,300
M steps/s. -/
def Pwr.rateTop (p : Pwr) : Nat := if p.governed then 10 * p.rate else 2300

/-- R306: what the power limiters allow cluster `c`. -/
def Pwr.powLimit (p : Pwr) (c : Nat) : Nat := min p.rateTop (tget 2300 p.limits c)

/-- R306, R332: the cluster's rate limit. -/
def Pwr.limit (p : Pwr) (c : Nat) : Nat := min (p.powLimit c) (tget 65535 p.thermal c)

/-- R306: the limiters set every cluster's rate limit; by how much is a free value (notes/assumptions/1), never above the old one when
`down`, never below it otherwise. -/
def Dev.setLimits (d : Dev) (down : Bool) : Dev :=
  d.each (List.range 64) (fun d c =>
    let cur := d.pwr.powLimit c
    if !down && cur = d.pwr.rateTop then d
    else
      let (v, d) := d.draw 12
      d.upPwr (fun p => { p with limits := tset 2300 p.limits c (if down then min cur v.toNat else min p.rateTop (max cur v.toNat)) }))

/-- R312: events 0xCC09 and 0xCC0A. -/
def Dev.governedCheck (d : Dev) : Dev :=
  let low := (List.range 64).foldl (fun m c => min m (d.pwr.limit c)) d.pwr.rateTop
  if d.pwr.governed && decide (low < 10 * d.pwr.rate) then
    if d.pwr.lostGov then d else (d.upPwr (fun p => { p with lostGov := true })).raise 0xCC09 low
  else if d.pwr.lostGov then (d.upPwr (fun p => { p with lostGov := false })).raise 0xCC0A low
  else d

/-! ### The effective cap (R303–R305) -/

/-- R243, R303: the gang component. -/
def Dev.gangCap (d : Dev) : Nat := if d.rte.noMaster || d.pwr.alloc = 0 then d.pwr.tray / 8 else d.pwr.alloc

/-- R303: the components present, in the table's order: (source, W). -/
def Dev.capParts (d : Dev) : List (Nat × Nat) :=
  [(0, d.pwr.capHost), (1, d.pwr.capMgmt), (2, d.gangCap), (3, d.thm.allow)] ++
  (if d.mgmt.orphan then [(4, d.rst.optUsed.orphan)] else []) ++ (if d.pwr.emerg then [(5, d.pwr.emergCap)] else [])

/-- R303: the least component, the first of equals. -/
def Dev.leastCap (d : Dev) : Nat × Nat :=
  d.capParts.foldl (fun (b : Nat × Nat) x => if x.2 < b.2 then x else b) (0, d.pwr.capHost)

/-- R309: each partition's allowance. -/
def Dev.allowances (d : Dev) : Dev :=
  let ps := parts16.filter (fun p => (d.part p).poured)
  let none0 := ps.filter (fun p => (d.part p).share == 0)
  let named := ps.foldl (fun a p => a + (d.part p).share) 0
  let avail := d.pwr.eff - d.pwr.shellW
  d.each parts16 (fun d p => d.upPart p (fun x => { x with
    allow := if !ps.contains p then 0
             else if x.share = 0 then avail * (1024 - named) / (1024 * max 1 none0.length) % 65536
             else avail * x.share / 1024 % 65536 }))

/-- R302, R303, R305: recomputed every 10 µs, and applied by the estimate limiter. -/
def doEffectiveCapRecompute (d : Dev) : Dev :=
  let (src, least0) := d.leastCap
  let least := if d.pwr.mFault then least0 * 9 / 10 else least0
  let old := d.pwr.eff
  let new := max 1100 least
  let was := d.pwr.unatt
  let now := decide (least < 1100)
  let s := if least = 4500 then 6 else src
  let d := d.upPwr (fun p => { p with eff := new, effSrc := s, unatt := now, cutW := if new = old then p.cutW else 0 })
  let d := if now && !was then d.raise 0xCC01 least else if was && !now then d.raise 0xCC02 least else d
  let d := if old ≤ 100 * (max new old - min new old) then d.raise 0xCC00 (new % 65536 + s * 65536) else d
  let d := d.allowances
  let d := if now then d.each (List.range 4) (fun d q => d.upPQuad q (fun x => { x with pulse := true, duty := 0 })) else d
  if new < old && new < d.pwr.est then
    (d.upPwr (fun p => { p with limEst := satAdd 16 p.limEst 1 })).setLimits true |>.governedCheck
  else d

/-- R304: the value a cap command stores, and its status. -/
def capStore (v : Nat) : Nat := max 1000 (min 4500 v)

def capStatus (v : Nat) : Nat := if capStore v < 1100 then stCap else stOk

def Dev.capCommand (d : Dev) (mgmt : Bool) (v : Nat) : Dev :=
  d.upPwr (fun p => { p with
    capHost := if mgmt then p.capHost else capStore v, capMgmt := if mgmt then capStore v else p.capMgmt, lastStat := capStatus v })

def doCapHostWrite (d : Dev) (r : Requester) (v : Nat) : Dev := if hostOnly r then d.capCommand false (v % 65536) else d.accessErr

def doCapMgmtWrite (d : Dev) (r : Requester) (v : Nat) : Dev := if mgmtOnly r then d.capCommand true (v % 65536) else d.accessErr

/-! ### Measurement and estimate (R300–R302, R307, R313) -/

/-- g in 1/4,096. -/
def Pwr.gain (p : Pwr) : Nat := p.gainX / 2 ^ 20

def gainInRange (g : Nat) : Bool := decide (80 * 4096 ≤ 100 * g) && decide (100 * g ≤ 125 * 4096)

/-- R302: a measurement fault begins: g frozen at 1.0. -/
def Dev.measureFault (d : Dev) : Dev :=
  if d.pwr.mFault then d
  else
    let g := d.pwr.gain
    (d.upPwr (fun p => { p with mFault := true, gainX := 4294967296 })).raise 0xCC11 (d.pwr.power % 65536 + g % 65536 * 65536)

/-- The mean of the newest `n` samples, in W. -/
def meanOf (l : List Nat) (n : Nat) : Nat := (l.take n).foldl (· + ·) 0 / max 1 (min n l.length)

/-- R300: mean power of the last second. -/
def Pwr.lastSecond (p : Pwr) : Nat := meanOf p.samples 10000

/-- R313: the riser's floor. -/
def Pwr.nextFloor (p : Pwr) : Nat :=
  let hold := 85 * (p.samples.take 100).foldl (· + ·) 0 / (100 * max 1 (min 100 p.samples.length))
  let slow := p.samples.getD 10000 0 - p.slow
  min (max hold (max (p.floor - 40) slow)) p.eff

/-- R313, R314: floor and filler; `avail`: what the free cells' filler can draw, W. -/
def Dev.riser (d : Dev) (w avail : Nat) : Dev :=
  if !d.pwr.riserOn then d.upPwr (fun p => { p with floor := 0, filler := 0, short := false })
  else
    let f := d.pwr.nextFloor
    let need := d.pwr.filler + f - w
    let fill := if d.thm.hold then 0 else min need avail
    let short := decide (avail < need) && !d.thm.hold
    let was := d.pwr.short
    let d := d.upPwr (fun p => { p with floor := f, filler := fill % 65536, short := short })
    if short && !was then d.raise 0xCC0B (f % 65536 + fill % 65536 * 65536) else d

/-- R300, R302, R307, R313: a VMAIN sample of `w` W at `v` (10 mV); `avail`: R314's available filler. -/
def doPowerSample (d : Dev) (w v avail : Nat) : Dev :=
  let d := d.upPwr (fun p => { p with
    samples := (w :: p.samples).take 10001, power := w % 65536, vmain := min 2047 v, valid := true, eMeas := satAdd 64 p.eMeas (100 * w) })
  let d := if 8000 < w then d.measureFault else d
  let m := meanOf d.pwr.samples 10
  let d := if !d.pwr.mFault && 10 ≤ d.pwr.samples.length && 101 * d.pwr.eff < 100 * m then
      (d.upPwr (fun p => { p with cutW := p.cutW + (m - p.eff), limMeas := satAdd 16 p.limMeas 1 })).raise 0xCC08 (m - d.pwr.eff)
    else if m ≤ d.pwr.eff then d.upPwr (fun p => { p with cutW := 0 })
    else d
  d.riser w avail

/-- R302: after 1 s in range the fault clears; `g`: the freshly converged gain, 1/4,096. -/
def doMeasurementFaultClear (d : Dev) (g : Nat) : Dev :=
  if d.pwr.mFault && gainInRange g && decide (d.pwr.power ≤ 8000) then
    (d.upPwr (fun p => { p with mFault := false, gainX := g * 2 ^ 20 })).raise 0xCC12 (d.pwr.power % 65536 + g % 65536 * 65536)
  else d

/-- R48, R168: `uj` µJ, before the gain, go to a consumer. -/
def Dev.attribute (d : Dev) (x : Consumer × Nat) : Dev :=
  let uj := x.2 * d.pwr.gain / 4096
  match x.1 with
  | .queue q p i =>
    let d := (d.upQueue q (fun y => { y with uj := satAdd 64 y.uj uj })).upFlight q i (fun f => { f with uj := f.uj + uj })
    d.upPwr (fun y => { y with ePart := tup 0 y.ePart p (fun n => satAdd 64 n uj) })
  | .part p => d.upPwr (fun y => { y with ePart := tup 0 y.ePart p (fun n => satAdd 64 n uj) })
  | .riser => d.upPwr (fun y => { y with eRiser := satAdd 64 y.eRiser uj })
  | .shell => d.upPwr (fun y => { y with eShell := satAdd 64 y.eShell uj })

/-- R309: the W of the shell and the riser in an interval's attributions (1 µJ in 10 µs is 0.1 W). -/
def shellWatts (g : Nat) (l : List (Consumer × Nat)) : Nat :=
  (l.foldl (fun a x => match x.1 with | .riser => a + x.2 | .shell => a + x.2 | _ => a) 0) * g / 4096 / 10

/-- R301, R302, R307, R309, R312: the 10 µs estimate: the four quadrants' and everything else's estimates before the gain, in mW, and
the interval's attributions (R168). -/
def doPowerEstimate (d : Dev) (quads : List Nat) (other : Nat) (att : List (Consumer × Nat)) : Dev :=
  let raw := quads.foldl (· + ·) 0 + other
  let g := d.pwr.gain
  let est := raw * g / 4096 / 1000
  let d := d.each (quads.take 4).zipIdx (fun d (m, q) => d.upPQuad q (fun x => { x with est := m * g / 4096 }))
  let d := d.upPwr (fun p => { p with est := est % 65536, shellW := shellWatts g att })
  let d := d.each att (fun d x => d.attribute x)
  let d :=
    if d.pwr.mFault || !d.pwr.valid || raw = 0 then d
    else
      let r := d.pwr.power * 1000 * 4294967296 / raw
      let x := d.pwr.gainX
      let d := d.upPwr (fun p => { p with gainX := if x ≤ r then x + (r - x) / 5000 else x - (x - r) / 5000 })
      if gainInRange d.pwr.gain then d else d.measureFault
  let target := d.pwr.eff - d.pwr.cutW
  let d := if target < est then (d.upPwr (fun p => { p with limEst := satAdd 16 p.limEst 1 })).setLimits true
           else if est < target then d.setLimits false else d
  d.governedCheck

/-! ### Rails (R306, R308, R310, R311) -/

/-- Some rail is in a droop. -/
def Dev.drooping (d : Dev) : Bool := (List.range 4).any (fun q => (d.pquad q).droop)

/-- R306: the rate limit of quadrant q's slowest running cluster. -/
def Dev.slowest (d : Dev) (q : Nat) : Option Nat :=
  lowest (((List.range 16).map (fun k => 16 * q + k)).filter (fun c => d.cat.runs.any (fun r => r.cells.any (fun n => n / 16 == c))) |>.map d.pwr.limit)

/-- R306, R310, R311: a setpoint moves by 5 mV: down while the achieved rate `rate` (M steps/s) is at or above the limit, up when
it is below; not during a droop. -/
def doSetpointStep (d : Dev) (q rate : Nat) : Dev :=
  let d := d.upCat (fun c => { c with quadRate := tset 0 c.quadRate q (rate % 65536) })
  if d.drooping then d
  else
    match d.slowest q with
    | none => d
    | some l => d.upPQuad q (fun x => { x with setpoint :=
        if x.setpoint = 0 then 550 else if l ≤ rate then max 550 (x.setpoint - 5) else min 850 (x.setpoint + 5) })

/-- R305, R308: a 10 µs period admits `n`/64 of its steps; 64/64 at 550 mV ends pulse mode; an unattainable cap allows 1/64. -/
def doPulsePeriod (d : Dev) (q n : Nat) : Dev :=
  if d.pwr.unatt then d.upPQuad q (fun x => { x with setpoint := 550, pulse := true, duty := 0 })
  else if 64 ≤ n then d.upPQuad q (fun x => { x with pulse := false, duty := 0 })
  else d.upPQuad q (fun x => { x with setpoint := 550, pulse := true, duty := n - 1 })

/-- R311: a droop begins. -/
def doDroopStart (d : Dev) (q : Nat) : Dev :=
  if (d.pquad q).droop then d
  else d.upPQuad q (fun x => { x with droop := true, droopAt := d.now, droops := satAdd 16 x.droops 1 })

/-- R311: a droop of `us` µs ends. -/
def doDroopEnd (d : Dev) (q us : Nat) : Dev :=
  if (d.pquad q).droop then
    let d := d.upPQuad q (fun x => { x with droop := false, longest := max x.longest (min 65535 us) })
    if 100 ≤ us then d.raise (0xCC04 + q) us else d
  else d

/-! ### Power groups (R316–R318) -/

def Dev.gpower (d : Dev) (dst sub round arg1 : Nat) : Packet := d.packet 0x1D dst 0 0 0 0 (sub + round % 65536 * 65536) arg1 []

/-- R316: every 5 ms a member reports the slack that the last 5 ms showed, in 1/1,024. -/
def doSlackReport (d : Dev) (s : Nat) : Dev :=
  let d := d.upPwr (fun p => { p with slack := min 1023 s })
  if d.rte.isMaster || d.rte.noMaster then d
  else d.inject (d.gpower (d.gangId d.rte.master) 1 (d.pwr.lastRound.getD 0) (min 1023 s + b2n d.pwr.governed * 2 ^ 30))

/-- A member as the master's round sees it: coordinate, slack (none: no fresh report), governed. -/
structure Share where
  a    : Nat
  s    : Option Nat
  gov  : Bool
deriving DecidableEq, Repr

/-- R316: numerators of x_i over the common denominator 1,024 · n, before the sides are balanced. -/
def shareX (l : List Share) : Nat × List (Nat × Int) :=
  let rep := l.filter (fun m => !m.gov && m.s.isSome)
  let n := max 1 rep.length
  let sum : Nat := rep.foldl (fun (a : Nat) m => a + m.s.getD 0) 0
  (n, l.map (fun m =>
    if m.gov then (m.a, 0)
    else match m.s with
      | none => (m.a, 0)
      | some s => (m.a, max (-256 * (n : Int)) (min (256 * (n : Int)) ((sum : Int) - (n : Int) * (s : Int))))))

/-- R316: the allocations: (coordinate, W). -/
def shares (tray : Nat) (l : List Share) : List (Nat × Nat) :=
  let (n, xs) := shareX l
  let up : Int := xs.foldl (fun a x => if 0 < x.2 then a + x.2 else a) 0
  let dn : Int := xs.foldl (fun a x => if x.2 < 0 then a - x.2 else a) 0
  let lo := min up dn
  xs.map (fun (a, x) =>
    -- x scaled by lo / (its side's sum); a_i = floor(T/8 · (1 + x / (1,024 n)))
    let side := if 0 < x then up else dn
    let num : Int := if x = 0 then 0 else x * lo
    let den : Int := 1024 * (n : Int) * (if x = 0 then 1 else side)
    (a, ((tray : Int) * (den + num) / (8 * den)).toNat))

/-- R316: every decrease of the round is acknowledged: the increases go out. -/
def Dev.sendIncreases (d : Dev) : Dev :=
  if d.pwr.members.all (fun kv => kv.2.acked) then
    let d := d.upPwr (fun p => { p with held := false })
    d.each d.pwr.members (fun d kv =>
      match kv.2.inc with
      | none => d
      | some w =>
        let d := d.upPwr (fun p => { p with members := tup GMember.init p.members kv.1 (fun m => { m with alloc := w, inc := none }) })
        if kv.1 = d.myA then (d.upPwr (fun p => { p with alloc := w })).raise 0xCC10 w
        else d.inject (d.gpower (d.gangId kv.1) 2 d.pwr.round w))
  else d.upPwr (fun p => { p with held := true })

/-- R317: a member that left the live mask is counted for 5 ms more (8 ms after its last reply), then at zero. -/
def Dev.departing (d : Dev) (a : Nat) : Bool :=
  a != d.myA && !bit d.rte.live.toNat a && (tget GMember.init d.pwr.members a).alloc != 0 && decide (d.now < tget 0 d.rte.replyAt a + 800000)

/-- R316, R317: the master's round. -/
def doGangPowerRound (d : Dev) : Dev :=
  if !d.rte.isMaster then d
  else
    let d := d.upRte (fun r => { r with live := d.liveNow })
    let mem := fun (a : Nat) => tget GMember.init d.pwr.members a
    let live := (List.range 8).filter (fun a => a == d.myA || bit d.rte.live.toNat a)
    let l := live.map (fun a =>
      if a = d.myA then Share.mk a (some d.pwr.slack) d.pwr.governed
      else
        let m := mem a
        let fresh := m.at0 != 0 && decide (d.now ≤ m.at0 + 1000000)
        Share.mk a (if fresh then some m.slack else none) (fresh && m.governed))
    let al := shares d.pwr.tray l
    let gone := (List.range 8).any d.departing
    let base := d.pwr.tray / 8
    let d := d.upPwr (fun p => { p with
      round := (p.round + 1) % 65536,
      members := p.members.filter (fun kv => live.contains kv.1 || d.departing kv.1) })
    let d := d.each al (fun d (a, w) =>
      let old := (tget GMember.init d.pwr.members a).alloc
      let old := if old = 0 then base else old
      let put := fun (d : Dev) (f : GMember → GMember) => d.upPwr (fun p => { p with members := tup GMember.init p.members a f })
      if w < old then
        if a = d.myA then ((put d (fun m => { m with alloc := w, acked := true, inc := none })).upPwr (fun p => { p with alloc := w })).raise 0xCC10 w
        else (put d (fun m => { m with alloc := w, acked := false, inc := none })).inject (d.gpower (d.gangId a) 2 d.pwr.round (w + 65536))
      else put d (fun m => { m with alloc := old, acked := true, inc := if gone then none else some w }))
    if gone then d.upPwr (fun p => { p with held := true }) else d.sendIncreases

/-- R318: a SLACK reaches the master. -/
def doSlack (d : Dev) (k : Packet) : Dev :=
  let d := d.takePkt k
  let a := devA k.src
  if d.rte.isMaster && k.src = d.gangId a && a != d.myA then
    d.upPwr (fun p => { p with members := tup GMember.init p.members a (fun m =>
      { m with slack := k.arg1 % 1024, governed := bit k.arg1 30, at0 := max 1 d.now }) })
  else d

/-- R318: an ALLOC reaches a member. -/
def doAlloc (d : Dev) (k : Packet) : Dev :=
  let d := d.takePkt k
  let r := fld k.arg0 31 16
  let newer := match d.pwr.lastRound with
    | none => true
    | some l => let x := (r + 65536 - l) % 65536; decide (0 < x) && decide (x < 32768)
  if !d.rte.noMaster && !d.rte.isMaster && k.src = d.gangId d.rte.master && newer then
    let w := k.arg1 % 65536
    let d := (d.upPwr (fun p => { p with alloc := w, lastRound := some r })).raise 0xCC10 w
    d.inject (d.gpower k.src 3 r w)
  else d

/-- R318: an ALLOC_ACK reaches the master. -/
def doAllocAck (d : Dev) (k : Packet) : Dev :=
  let d := d.takePkt k
  let a := devA k.src
  if d.rte.isMaster && k.src = d.gangId a && fld k.arg0 31 16 = d.pwr.round && !(tget GMember.init d.pwr.members a).acked then
    (d.upPwr (fun p => { p with members := tup GMember.init p.members a (fun m => { m with acked := true }) })).sendIncreases
  else d

/-- R316: a decrease unacknowledged for 1 ms: the round's increases are withheld. -/
def doAllocAckTimeout (d : Dev) : Dev :=
  if d.rte.isMaster && d.pwr.members.any (fun kv => !kv.2.acked) then
    d.upPwr (fun p => { p with held := true, members := tmap GMember.init (fun _ m => { m with inc := none }) p.members })
  else d

/-! ### CAP_EMERG_N (R432) -/

def doCapEmergAssert (d : Dev) : Dev :=
  if d.pwr.emerg then d else (d.upPwr (fun p => { p with emerg := true })).raise 0xCC0C d.pwr.emergCap

def doCapEmergRelease (d : Dev) : Dev :=
  if d.pwr.emerg then (d.upPwr (fun p => { p with emerg := false })).raise 0xCC0D d.pwr.emergCap else d

end Sys2Proof.Machine
end

