-- ==== Sys2Proof/Machine/Notify.lean ====
section
/-! DEFINITION. What the device tells the tray controller on its own: notifications (R427), PART_STATE and ALERT (R426), the
causes of ERR_FATAL_N and ERR_WARN_N (R434), the request to remove VMAIN (R431). -/

namespace Sys2Proof.Machine

/-! ### ARC_ERR_CAUSE (R434) -/

/-- R434: the fatal causes, in bit order from bit 0. -/
def Dev.fatalCauses (d : Dev) : List Bool := [d.mgmt.vmHold.isSome, d.upd.recovery, d.mgmt.slowBring]

/-- R326, R330: some sensor failed, implausible or disagreeing. -/
def Dev.sensorBad (d : Dev) : Bool := d.thm.sensors.any (fun kv => kv.2.failed || kv.2.implaus || kv.2.disag)

/-- R434: the warning causes, in bit order from bit 16. -/
def Dev.warnCauses (d : Dev) : List Bool :=
  [d.sec.sealUnack, d.cat.ladleFail != 0 || d.cat.nmuFail != 0, (List.range 64).any d.short, d.pwr.mFault,
   d.mgmt.wOption || !d.rte.valid, d.sensorBad, d.mgmt.orphan, d.flash.staged.any (fun kv => match kv.2 with | some s => s.state == 3 | none => false)]

def Dev.errFatal (d : Dev) : Bool := d.fatalCauses.any id
def Dev.errWarn (d : Dev) : Bool := d.warnCauses.any id

/-- The register's value. -/
def Dev.errCause (d : Dev) : Nat :=
  (d.fatalCauses.zipIdx.foldl (fun a (b, i) => a + b2n b * 2 ^ i) 0) +
  (d.warnCauses.zipIdx.foldl (fun a (b, i) => a + b2n b * 2 ^ (16 + i)) 0)

/-! ### Notifications (R427) -/

/-- R427: a newer PART_STATE of the same partition, or a newer ALERT, replaces an unanswered older one. -/
def Note.replacedBy (n : Note) (cmd : Nat) (body : Bytes) : Bool :=
  n.cmd == cmd && (cmd == 0x0103 || (cmd == 0x0101 && n.body.head? == body.head?))

/-- R427: sends a notification to the EID that last sent KEEPALIVE; with none yet it waits for one. -/
def Dev.notify (d : Dev) (cmd : Nat) (body : Bytes) : Dev :=
  let tag := d.mgmt.nextTag
  let n : Note := { cmd := cmd, tag := tag, body := body, eid := d.mgmt.keepEid.getD 0, at0 := d.now, read := false }
  let d := d.upMgmt (fun m => { m with
    notes := m.notes.filter (fun x => !x.replacedBy cmd body) ++ [n], nextTag := (tag + 1) % 65536 })
  match d.mgmt.keepEid with
  | some e => d.emit (.note cmd tag e body)
  | none => d

/-- R426: the state of a partition as PART_STATE and reports give it: 0 READY, 1 FENCED, 2 RESETTING, 3 UNPOURED (R399, R401). -/
def Dev.partCode (d : Dev) (p : Nat) : Nat :=
  match (d.part p).state with
  | 1 =>
    match d.mld.op with
    | some o =>
      let was := ((bitsOf 16 o.targets.toNat).zip o.before).find? (fun x => x.1 == p)
      if (was.map (fun x => x.2 != 0)).getD false then 1 else 3
    | none => 3
  | 2 => 0
  | 3 => 1
  | 4 => 2
  | 5 => 1
  | _ => 3

/-- R426: PART_STATE of partition `p`. -/
def Dev.notifyPart (d : Dev) (p : Nat) : Dev :=
  d.notify 0x0101 [BitVec.ofNat 8 p, BitVec.ofNat 8 (d.partCode p), BitVec.ofNat 8 (d.part p).rcCause]

/-- R426: after a command, PART_STATE for each partition whose state changed, and ALERT when a pin changed. -/
def Dev.report (old d : Dev) : Dev :=
  let d := d.each (parts16.filter (fun p => old.partCode p != d.partCode p)) (fun d p => d.notifyPart p)
  if old.errFatal == d.errFatal && old.errWarn == d.errWarn then d else d.notify 0x0103 (leBytes 4 d.errCause)

/-- A command whose effect may change a partition's state or an error pin. -/
def onDevN (s : State) (f : Dev → Dev) : Ans := .next { s with dev := Dev.report s.dev (f s.dev) }

/-- R336: runs, Ladle instances and near-memory commands pause in the hold state: such a command takes place once the hold ends. -/
def onWork (s : State) (f : Dev → Dev) : Ans := onDev s (fun d => if d.thm.hold then d else f d)

/-- R431: requests the removal of VMAIN: 0 trip, 1 flow loss. -/
def Dev.vmainRemove (d : Dev) (cause : Nat) : Dev :=
  (d.upMgmt (fun m => { m with vmHold := some cause })).notify 0x0102 [BitVec.ofNat 8 cause]

end Sys2Proof.Machine
end

