-- ==== Sys2Proof/Machine/Cooling.lean ====
section
/-! DEFINITION. Cooling and thermal protection (R172, R323–R336). Readings are operands, in 0.25 °C; flows in 0.01 L/min. -/

namespace Sys2Proof.Machine

/-! ### Sensors and governing values (R325, R326, R330) -/

/-- R338: THM_SENSOR state. -/
def Sensor.code (x : Sensor) : Nat :=
  if x.failed then 3 else if x.implaus && x.disag then 4 else if x.implaus then 1 else if x.disag then 2 else 0

def Sensor.usable (x : Sensor) : Bool := !x.failed && !x.implaus

/-- R337, R338: changes a sensor; a change of state raises 0xCE40, and an entry into states 1–4 is counted. -/
def Dev.setSensor (d : Dev) (n : Nat) (f : Sensor → Sensor) : Dev :=
  let old := (d.sensor n).code
  let d := d.upSensor n f
  let new := (d.sensor n).code
  if old = new then d
  else (if new = 0 then d else d.upSensor n (fun x => { x with entries := min 4095 (x.entries + 1) })).raise 0xCE40 (n + new * 256)

/-- R325: a reading; outside −40 °C to 150 °C, or with the self-check failed, the sensor fails until L4. -/
def Dev.reading (d : Dev) (n : Nat) (t : Int) (bad : Bool) : Dev :=
  d.setSensor n (fun x => { x with reading := t, failed := x.failed || bad || decide (t < -160) || decide (600 < t) })

/-- R326: the governing value of a pair. -/
def Dev.pairValue (d : Dev) (a b : Nat) : Option Int :=
  let x := d.sensor a
  let y := d.sensor b
  if x.usable && y.usable then some (max x.reading y.reading + (if x.disag || y.disag then 12 else 0))
  else if x.usable then some (x.reading + 12)
  else if y.usable then some (y.reading + 12)
  else none

/-- R325: junction hot spot h, 0–31: sensors 2h and 2h + 1. -/
def Dev.junction (d : Dev) (h : Nat) : Int := (d.pairValue (2 * h) (2 * h + 1)).getD (tget 0 d.thm.model (h / 8) + 40)

/-- R334: the sensor named for a pair's value: the hotter usable one. -/
def Dev.hotter (d : Dev) (a b : Nat) : Nat :=
  if (d.sensor b).usable && (!(d.sensor a).usable || decide ((d.sensor a).reading < (d.sensor b).reading)) then b else a

/-- The hottest hot spot of quadrant q and its value; the first of equals. -/
def Dev.hottest (d : Dev) (q : Nat) : Nat × Int :=
  (List.range 8).foldl (fun (b : Nat × Int) h => if b.2 < d.junction (8 * q + h) then (h, d.junction (8 * q + h)) else b) (0, d.junction (8 * q))

/-- R326: stack s has the one sensor 64 + s; none once it has failed. -/
def Dev.stackValue (d : Dev) (s : Nat) : Option Int := if (d.sensor (64 + s)).failed then none else some (d.sensor (64 + s)).reading

/-- R334: every governing value reads below its throttle threshold. -/
def Dev.allCool (d : Dev) : Bool :=
  (List.range 32).all (fun h => decide (d.junction h < 400)) &&
  (List.range 16).all (fun s => match d.stackValue s with | some t => decide (t < 340) | none => true)

/-! ### The hold state (R334–R336) -/

def Dev.enterHold (d : Dev) : Dev :=
  ((d.upThm (fun t => { t with hold := true })).upMem (fun m => { m with
    hbm := tmap Stack.init (fun _ s => if s.state = 1 then { s with state := 2 } else s) m.hbm })).upPwr (fun p => { p with filler := 0 })

def Dev.leaveHold (d : Dev) : Dev :=
  (d.upThm (fun t => { t with hold := false })).upMem (fun m => { m with
    hbm := tmap Stack.init (fun _ s => if s.state = 2 then { s with state := 1 } else s) m.hbm })

/-- R334: a trip at sensor `n` with governing value `v`. -/
def Dev.trip (d : Dev) (n : Nat) (v : Int) : Dev :=
  if d.thm.tripped then d
  else
    let d := (d.upThm (fun t => { t with
      tripped := true, cycled := false, logSens := n, logFlow := false, logVal := v, trips := satAdd 16 t.trips 1, vmReq := true,
      flowLoss := false, noLeave := false, okFrom := none })).enterHold
    (d.raise 0xCE30 (n % 256 + twos 16 v * 65536)).vmainRemove 0

/-- R334: two consecutive readings of hot spot `id` at or above `thr`. -/
def Dev.tripCheck (d : Dev) (id n : Nat) (v thr : Int) : Dev :=
  if v < thr then d.upThm (fun t => { t with overTrip := t.overTrip.filter (· != id) })
  else if d.thm.overTrip.contains id then d.trip n v
  else d.upThm (fun t => { t with overTrip := t.overTrip ++ [id] })

/-- R334: THERM_TRIP_N is released after VMAIN was removed and restored, or after an L4, once everything is cool. -/
def Dev.tripRelease (d : Dev) : Dev :=
  if d.thm.tripped && d.thm.cycled && d.allCool then
    let d := d.upThm (fun t => { t with tripped := false, cycled := false, vmReq := false })
    if d.thm.flowLoss then d else d.leaveHold
  else d

/-! ### Sampling (R172, R173, R325, R331, R333) -/

/-- R173, R172, R333, R334: stack s reads `t`; `bad`: its self-check failed. -/
def doStackTempSample (d : Dev) (s : Nat) (t : Int) (bad : Bool) : Dev :=
  let d := (d.reading (64 + s) t bad).upStack s (fun x => { x with temp := t, hot := hotRefresh t })
  match d.stackValue s with
  | none => d
  | some v =>
    let l := (d.stack s).limit
    let d := if 340 < v && l = 0 then (d.upStack s (fun x => { x with limit := 7 })).raise (0xCE10 + s) (twos 16 v)
             else if v < 328 && l != 0 then (d.upStack s (fun x => { x with limit := 0 })).raise (0xCE20 + s) (twos 16 v) else d
    (d.tripCheck (32 + s) (64 + s) v 380).tripRelease

/-- R325, R326, R334: the junction sensors read; `bad`: those whose self-check failed. -/
def doJunctionSample (d : Dev) (readings : List Int) (bad : List Nat) : Dev :=
  let d := d.each (readings.take 64).zipIdx (fun d (t, n) => d.reading n t (bad.contains n))
  let d := d.each (List.range 32) (fun d h => d.tripCheck h (d.hotter (2 * h) (2 * h + 1)) (d.junction h) 440)
  let d := d.each (List.range 4) (fun d q =>
    let (h, v) := d.hottest q
    d.upThm (fun t => { t with hot := tset 0 t.hot q h, hotVal := tset 0 t.hotVal q v }))
  d.tripRelease

/-- R330. -/
def doSensorImplausible (d : Dev) (n : Nat) : Dev := if (d.sensor n).failed then d else d.setSensor n (fun x => { x with implaus := true })

def doSensorPlausible (d : Dev) (n : Nat) : Dev := d.setSensor n (fun x => { x with implaus := false })

/-- R325, R326: the sensors of pair `k`: junction hot spots 0–31, package inlet 32, package outlet 33. -/
def pairSensors (k : Nat) : Nat × Nat := if k < 32 then (2 * k, 2 * k + 1) else (80 + 2 * (k - 32), 81 + 2 * (k - 32))

/-- R326: a pair has differed by more than 6 K for 5 s, or agreed within it for 5 s. -/
def doSensorDisagreeing (d : Dev) (k : Nat) : Dev :=
  let (a, b) := pairSensors k
  let far := decide (24 < (d.sensor a).reading - (d.sensor b).reading) || decide (24 < (d.sensor b).reading - (d.sensor a).reading)
  if (d.sensor a).failed || (d.sensor b).failed then d
  else (d.setSensor a (fun x => { x with disag := far })).setSensor b (fun x => { x with disag := far })

/-- R329: the model estimate of each quadrant; `pq`: the four corrected estimates averaged over 1 ms, mW. With no flow the estimate
has no value: a free one (notes/assumptions/1). -/
def doThermalModelUpdate (d : Dev) (pq : List Nat) : Dev :=
  d.each (List.range 4) (fun d q =>
    let f := d.thm.flow
    let num := d.pwr.lastSecond * 40000000 + pq.getD q 0 * 18 * 132 * f
    if f = 0 then
      let (v, d) := d.draw 16
      d.upThm (fun t => { t with model := tset 0 t.model q v.toInt })
    else d.upThm (fun t => { t with model := tset 0 t.model q (t.inlet + num / (132 * f * 100000)) }))

/-! ### Coolant: source selection, allowed power, flow loss (R323, R324, R327, R328, R335) -/

/-- R328: the tray readings cannot be used. -/
def Dev.trayGone (d : Dev) : Bool := d.thm.stale || d.mgmt.orphan || d.thm.trAt.isNone

/-- R327, R328: the source in use: 0 STACK, 1 TRAY, 2 BOTH. -/
def Dev.coolSource (d : Dev) : Nat := if d.thm.option = 0 || d.trayGone then 0 else if d.thm.option = 1 then 1 else 2

/-- R323. -/
def allowedPower (f : Nat) (tin : Int) : Nat := if 240 ≤ tin then 0 else min 65535 (66 * f * (240 - max tin 60).toNat / 400)

/-- R324: the allowance under a new allowed power. -/
def Thm.allowTo (t : Thm) (a : Nat) : Thm :=
  let fell := t.fell || decide (a < t.allowed)
  let n := if fell then min t.allow a else a
  { t with allowed := a, allow := n, fell := fell && decide (n < a) }

/-- R335: flow loss, judged on a new f. -/
def Thm.lossAt (t : Thm) (now f : Nat) : Bool :=
  decide (f < 100) || (t.flows.filter (fun x => decide (now < x.1 + 100000000))).any (fun x => decide (2 * f < x.2))

/-- R335: since when f has stayed at or above 1.5 L/min and not fallen. -/
def Thm.okSince (t : Thm) (now f : Nat) : Option Nat :=
  if f < 150 then none else if f < t.flow || t.okFrom.isNone then some now else t.okFrom

/-- R335: applies a new f. -/
def Dev.newFlow (d : Dev) (f : Nat) : Dev :=
  let loss := d.thm.lossAt d.now f
  let d := d.upThm (fun t => { t with
    flow := f, okFrom := if t.flowLoss then t.okSince d.now f else none,
    flows := (d.now, f) :: t.flows.filter (fun x => decide (d.now < x.1 + 100000000)) })
  if loss && !d.thm.flowLoss && !d.thm.tripped then
    ((d.upThm (fun t => { t with flowLoss := true, noLeave := false, okFrom := none, losses := satAdd 16 t.losses 1 })).enterHold).raise
      0xCE31 f
  else d

/-- R337: 0xCE43 and 0xCE44 when a value leaves its range. -/
def Dev.coolEvents (d : Dev) (oldIn oldOut : Int) : Dev :=
  let out := fun (t : Int) => decide (t < 60) || decide (180 < t)
  let d := if 240 < d.thm.outlet && oldOut ≤ 240 then d.raise 0xCE43 (twos 16 d.thm.outlet) else d
  if out d.thm.inlet && !out oldIn then d.raise 0xCE44 (twos 16 d.thm.inlet) else d

/-- R323, R327, R328: selects the values in use and recomputes the allowed power. -/
def Dev.recool (d : Dev) : Dev :=
  let src := d.coolSource
  let pin := d.pairValue 80 81
  let pout := d.pairValue 82 83
  let t := d.thm
  let fixed := decide (src = 0) && pin.isNone && pout.isNone
  let (free, d) := if src = 0 && pin.isNone && pout.isSome then (let (v, d) := d.draw 16; (v.toInt, d)) else ((0 : Int), d)
  let tin : Int := if fixed then 180 else if src = 1 then t.trIn else if src = 0 then pin.getD free else max t.trIn (pin.getD t.trIn)
  let tout : Int := if src = 1 then t.trOut else if src = 0 then pout.getD t.outlet else max t.trOut (pout.getD t.trOut)
  let f := if fixed then 350 else if src = 0 then t.flowPkg else if src = 1 then t.trFlow else min t.trFlow t.flowPkg
  let d := d.upThm (fun x => { x with inUse := src, fixed := fixed, inlet := tin, outlet := tout })
  let d := (d.newFlow f).coolEvents t.inlet t.outlet
  d.upThm (fun x => x.allowTo (allowedPower f tin))

/-- R327: f_pkg, while P_1s ≥ 1,000 W and the package pairs differ by at least 2 K. -/
def Dev.flowOfPackage (d : Dev) : Nat :=
  match d.pairValue 80 81, d.pairValue 82 83 with
  | some i, some o => if 1000 ≤ d.pwr.lastSecond && 8 ≤ o - i then d.pwr.lastSecond * 400 / (66 * (o - i).toNat) % 65536 else d.thm.flowPkg
  | _, _ => d.thm.flowPkg

/-- R325, R327: the package sensors 80–83 read. -/
def doPackageSensorSample (d : Dev) (readings : List Int) (bad : List Nat) : Dev :=
  let d := d.each (readings.take 4).zipIdx (fun d (t, i) => d.reading (80 + i) t (bad.contains (80 + i)))
  let f := d.flowOfPackage
  (d.upThm (fun t => { t with flowPkg := f })).recool

/-- R328: ms since the last tray reading. -/
def Dev.trayAge (d : Dev) : Nat := match d.thm.trAt with | some a => min 65535 ((d.now - a) / 100000) | none => 65535

/-- R328: no tray reading for 1 s. -/
def doTrayStale (d : Dev) : Dev :=
  if d.thm.stale then d else ((d.upThm (fun t => { t with stale := true })).raise 0xCE41 d.trayAge).recool

/-- R328, R336, R426: tray readings arrive; a flow value that arrives while they are stale is ignored. -/
def Dev.traySensors (d : Dev) (i o : Int) (f : Nat) : Dev :=
  let was := d.thm.stale
  let age := d.trayAge
  let d := d.upThm (fun t => { t with trIn := i, trOut := o, trFlow := if was then t.trFlow else f, trAt := some d.now, stale := false })
  (if was then d.raise 0xCE42 age else d).recool

/-- R335: f has stayed at or above 1.5 L/min for 500 ms: the hold ends. -/
def doFlowRecover (d : Dev) : Dev :=
  if d.thm.flowLoss && !d.thm.noLeave && d.thm.okFrom.isSome then
    ((d.upThm (fun t => { t with flowLoss := false, okFrom := none })).leaveHold).raise 0xCE32 d.thm.flow
  else d

/-- R335: 2 s without recovery. -/
def doFlowLossTimeout (d : Dev) : Dev :=
  if d.thm.flowLoss && !d.thm.noLeave then
    ((d.upThm (fun t => { t with noLeave := true, vmReq := true, logSens := 0xFF, logFlow := true })).raise 0xCE33 d.thm.flow).vmainRemove 1
  else d

/-- R324: 1 W of the rise after a fall (1,000 W/s). -/
def doAllowanceRise (d : Dev) : Dev :=
  d.upThm (fun t => if t.fell then { t with allow := min t.allowed (t.allow + 1), fell := decide (t.allow + 1 < t.allowed) } else t)

/-! ### Throttles (R332, R333) -/

/-- R332: the limit of a hot cluster, and of a cooling one. -/
def limitDown (l : Nat) : Nat := max (l * 95 / 100) (min l (Config.rate550 / 64))
def limitUp (l : Nat) : Nat := ceilDiv (l * 101) 100

/-- R332: one 1 ms of quadrant q. -/
def doJunctionThrottleTick (d : Dev) (q : Nat) : Dev :=
  let (h, v) := d.hottest q
  let on := bit d.thm.throttle.toNat q
  let info := h + twos 16 v * 65536
  let setOn := fun (d : Dev) (b : Bool) => d.upThm (fun t => { t with throttle := BitVec.ofNat 4 (setFld t.throttle.toNat q q (b2n b)) })
  let each := fun (d : Dev) (f : Pwr → Nat → Nat) => d.each ((List.range 16).map (· + 16 * q)) (fun d c =>
    d.upPwr (fun p => { p with thermal := tset 65535 p.thermal c (f p c) }))
  if 400 < v then
    let d := if on then d else (setOn d true).raise (0xCE00 + q) info
    (each d (fun p c => limitDown (p.limit c))).governedCheck
  else if v < 388 then
    let d := if on then (setOn d false).raise (0xCE04 + q) info else d
    (each d (fun p c =>
      let l := limitUp (tget 65535 p.thermal c)
      if p.powLimit c ≤ l then 65535 else l)).governedCheck
  else d

/-- R333: a further 10 ms above 85 °C. -/
def doHbmThrottleTick (d : Dev) (s : Nat) : Dev :=
  match d.stackValue s with
  | some v => if 340 < v && (d.stack s).limit != 0 then d.upStack s (fun x => { x with limit := max 3 (x.limit - 1) }) else d
  | none => d

end Sys2Proof.Machine
end

