-- ==== Sys2Proof/Machine/Reset.lean ====
section
/-! DEFINITION. Reset levels, sources and reach (R339–R345, R350), what each level clears, the FENCE actions of R159 that reset,
TEST_BAR and the background tests (R160, R352, R353), CAT_SUSPECT and CAT_SLOT_CLEAR (R355, R356). -/

namespace Sys2Proof.Machine

/-! ### Sources and reach (R342, R343, R348) -/

/-- R343: a code of the table as it acts: 0x6–0xF read as IGNORE. -/
def fuseCode (w : OwnerFuses) (i : Nat) : Nat :=
  let c := fld w.reach.toNat (4 * i + 3) (4 * i)
  if 6 ≤ c then 0 else c

/-- R342, R343: the effective code of source i: the fuse code, lowered by the option block's override, with the limits of the source. -/
def Dev.reach (w : OwnerFuses) (d : Dev) (i : Nat) : Nat :=
  let o := fld d.rst.override (4 * i + 3) (4 * i)
  let c := if 6 ≤ o then fuseCode w i else min (fuseCode w i) o
  if i = 2 || i = 3 || i = 5 || i = 9 then 5
  else if i = 11 then 4
  else if i = 1 || i = 10 then min 4 c
  else if 12 ≤ i then 0
  else c

/-- R348: an assertion of source i is counted, whatever comes of it, while VBKP holds the counters. -/
def Dev.countSource (d : Dev) (i : Nat) : Dev :=
  if d.rst.vbkp then
    d.upRst (fun r => { r with
      audit := tup 0 r.audit i (fun n => satAdd 16 n 1), auditSat := tset false r.auditSat i (decide (65535 ≤ satAdd 16 (tget 0 r.audit i) 1)) })
  else d

/-! ### What a partition, the shell and the package lose -/

/-- R364, R339: the partition's outstanding work ends with `st`: runs stop, collectives are abandoned, sequences abort. -/
def Dev.stopWork (d : Dev) (p st : Nat) : Dev :=
  let d := d.each (d.cat.runs.filter (fun r => r.part == p)) (fun d r => d.stopRun r st)
  let d := d.upCat (fun c => { c with runs := c.runs.filter (fun r => r.part != p) })
  let d := d.abandonCols p st
  let d := d.each (d.que.flights.filter (fun f => f.queue != ctlQ && f.part == p)) (fun d f => d.endWork f.queue f.index st 0 f.result)
  d.accAbortPart p

/-- R345: a reset ends the loader's operation: FENCED, its targets left UNPOURED and zeroised. -/
def Dev.resetOp (d : Dev) (o : LoadOp) : Dev :=
  let d := if o.mode = 0 then d.opAbandon o stFenced 0 else d.opEnd o stFenced 0
  if o.mode = 1 then d
  else d.each (bitsOf 16 o.targets.toNat) (fun d p =>
    if (d.part p).state = 0 then d else ((d.stopWork p stFenced).release p false 0 []).upPart p (fun x => { x with state := 0 }))

/-- R339, R350: L2: the partition's work ends, its queues are killed, its cells, stacks and shelf pages are cleared, its slots go under
test, its HBM is retrained when asked. -/
def Dev.resetPart (d : Dev) (p : Nat) (retrain : Bool) : Dev :=
  let d := match d.mld.op with | some o => if o.mode = 1 && bit o.targets.toNat p then d.opEnd o stFenced 0 else d | none => d
  let d := ((d.stopWork p stFenced).killQueues p).perfClearPart p
  let x := d.part p
  let d := d.each x.slots (fun d k => (d.upSlot k Slot.wipe).testStart k)
  let d := d.each (bitsOf 16 x.stackSet.toNat) (fun d s =>
    let d := d.zeroStack s
    if retrain then d.upStack s (fun t => { t with state := 3 }) else d)
  let d := d.each x.shelf (fun d g => d.zeroShelf g)
  d.upPart p (fun x => { x with state := 4 })

/-- R341: the partition is left UNPOURED and its resources belong to no partition. -/
def Dev.resetPartDone (d : Dev) (p : Nat) : Dev :=
  (d.release p true 0 []).upPart p (fun x => { x.clearLedger with state := 0 })

/-- R339, R214: a port after L3: its counters stay; what it held is released and counted. -/
def Port.l3 (p : Port) (on valid : Bool) : Port :=
  { Port.init with
    enable := on, state := if on && valid then 1 else 0, replays := p.replays, fecCe := p.fecCe, fecUe := p.fecUe, crcErr := p.crcErr,
    lostFl := satAdd 32 p.lostFl (p.retry.length + p.txq.length), partialRx := satAdd 32 p.partialRx (p.partIn.filter (fun kv => kv.2 != [])).length,
    losses := p.losses, degrades := p.degrades, peak := p.peak }

/-- R347: the option block's routing and host settings. -/
def OptBlock.prot (o : OptBlock) : Prot := { Prot.init with mask := BitVec.ofNat 18 o.fabEn }

def OptBlock.hports (o : OptBlock) : Tab HPort :=
  (List.range 4).foldl (fun t i =>
    let on := bit o.hostEn i
    tset HPort.init t i { HPort.init with enable := on, state := if on then 1 else 0, speed := fld o.hostSp (2 * i + 1) (2 * i), medium := bit o.hostMed i }) []

/-- R339: a partition after L3: its generation and its recovery record stay. -/
def Part.l3 (y : Part) : Part :=
  { Part.init with
    gen := y.gen, rcStep := y.rcStep, rcCause := y.rcCause, rcEsc := y.rcEsc, rcCount := y.rcCount, hgCells := y.hgCells,
    hgTrunc := y.hgTrunc, hgScrub := y.hgScrub, hgExp := y.hgExp, hgKilled := y.hgKilled, fencedAt := y.fencedAt }

/-- R339, R341, R151, R297: what L3 clears and what it leaves. -/
def Dev.resetShell (d : Dev) : Dev :=
  let o := d.rst.optUsed
  let lost := d.syn.sent.length
  let d := d.clearSrcs (fun _ _ => true)
  { d with
    cat := { Cat.init with
      slots := tmap Slot.init (fun _ s => s.wipe) d.cat.slots, map := d.cat.map, spareFor := d.cat.spareFor, pendingC := d.cat.pendingC,
      carrelCe := d.cat.carrelCe, carrelUe := d.cat.carrelUe, arithMaj := d.cat.arithMaj, arithMin := d.cat.arithMin,
      trEnable := d.cat.trEnable, trStop := d.cat.trStop, trSample := d.cat.trSample, trParts := d.cat.trParts, trBuf := d.cat.trBuf,
      trWrite := d.cat.trWrite, trRead := d.cat.trRead, trWrapped := d.cat.trWrapped, trLost := d.cat.trLost, trMissed := d.cat.trMissed,
      trPackets := d.cat.trPackets, testMin := d.cat.testMin, rounds := d.cat.rounds, cleared := d.cat.cleared, ladleFail := d.cat.ladleFail, nmuFail := d.cat.nmuFail }
    mld := { Mld.init with parts := tmap Part.init (fun _ p => p.l3) d.mld.parts, pours := d.mld.pours, fails := d.mld.fails }
    que := { Que.init with queues := tmap Queue.init (fun _ q =>
      if q.state = 0 then { Queue.init with uj := q.uj } else { q with state := 4, head := none }) d.que.queues }
    syn := { Syn.init with undeliv := satAdd 64 d.syn.undeliv lost, dup := d.syn.dup, withdrawn := d.syn.withdrawn, refused := d.syn.refused }
    evc := { Evc.init with
      groups := tmap EvGroup.init (fun _ g => { EvGroup.init with spill := g.spill, spillOvf := g.spillOvf, spillAt := g.spillAt }) d.evc.groups,
      arcRecs := d.evc.arcRecs, arcProd := d.evc.arcProd, arcCons := d.evc.arcCons, wakeMask := d.evc.wakeMask, wakePend := d.evc.wakePend,
      awake := d.evc.awake, refBell := d.evc.refBell, refUnb := d.evc.refUnb, stray := d.evc.stray, cleared := d.evc.cleared }
    mem := { Mem.init with
      hbm := (List.range 16).foldl (fun t s =>
        let x := d.stack s
        tset Stack.init t s { Stack.init with hot := x.hot, temp := x.temp, ce := x.ce, ue := x.ue, limit := x.limit }) [],
      shelfCe := d.mem.shelfCe, shelfUe := d.mem.shelfUe, accDup := d.mem.accDup, refused := d.mem.refused }
    ports := (List.range 18).foldl (fun t p => tset Port.init t p ((d.port p).l3 (bit o.fabEn p) d.rte.valid)) []
    rte := { Rte.init with devId := d.rte.devId, eligible := d.rte.eligible, valid := d.rte.valid, prot := o.prot, pend := o.prot }
    ldl := { Ldl.init with
      rsCrc := d.ldl.rsCrc, rsTimer := d.ldl.rsTimer, absorbed := d.ldl.absorbed, dup := d.ldl.dup, notReady := d.ldl.notReady,
      verFail := d.ldl.verFail, stalls := d.ldl.stalls }
    hst := { Hst.init with ports := o.hports }
    twin := Twin.init
    pwr := { d.pwr with filler := 0, alloc := 0, held := false, lastRound := none, members := [] } }

/-- R349 steps 3 and 4: regulators and PLLs are up and the shell network runs; the stacks train unless a trip holds them (R345). -/
def Dev.stepThree (d : Dev) : Dev :=
  let d := d.upRst (fun r => { r with step := 3, bringup := tset 0 (tset 0 r.bringup 2 ((d.now - r.vmainAt) / 100 % 2 ^ 32)) 4 0xFFFFFFFF })
  if d.thm.hold then d
  else d.upMem (fun m => { m with hbm := (List.range 16).foldl (fun t s => tset Stack.init t s { tget Stack.init t s with state := 3 }) m.hbm })

/-- R339, R350, R273: L3 is performed: the shell is reset, and steps 3, 4, 6 and 7 of R349 follow. -/
def Dev.performL3 (d : Dev) : Dev :=
  let d := match d.mld.op with | some o => d.resetOp o | none => d
  let d := (d.resetShell).upRst (fun r => { r with state := 2 })
  let d := d.stepThree
  match d.bind with | some b => d.applyBinding b | none => d

/-- R346, R347: the option block in use: copy 0 flash A, 1 flash B, 2 defaults. -/
def Flash.option (f : Flash) : OptBlock × Nat :=
  match f.optA, f.optB with
  | some o, _ => (o, 0)
  | none, some o => (o, 1)
  | none, none => (OptBlock.default, 2)

/-- R347: orphan_cap outside 1,000–4,500 reads as the default. -/
def OptBlock.clean (o : OptBlock) : OptBlock := if 1000 ≤ o.orphan && o.orphan ≤ 4500 then o else { o with orphan := 2700 }

def isPerm (l : List Nat) : Bool := (List.range l.length).all (fun i => l.contains i)

/-- R347: ports whose lane map is no permutation: p, or 18 + i. -/
def OptBlock.badMaps (o : OptBlock) : List Nat :=
  ((List.range 18).filter (fun p => !isPerm ((o.fabLanes.drop (8 * p)).take 8))) ++
  (((List.range 4).filter (fun i => !isPerm ((o.hostLanes.drop (4 * i)).take 4))).map (· + 18))

/-- R394: whether a policy (with its slot mask) is at least as strict as another. -/
def policyGe (p : Nat) (m : BitVec 4) (q : Nat) (n : BitVec 4) : Bool :=
  decide (q < p) || (p == q && (p != 2 || m &&& ~~~ n == 0))

/-- R347, R348: the option block in use gives the device a valid coordinate. -/
def Flash.coordOk (f : Flash) : Bool := f.option.2 != 2 && decide (f.option.1.clean.c < 128) && decide (f.option.1.clean.d < 128)

/-- R339, R346–R348: the state that an L4 by source `src` leaves: everything is as at reset but what VSTBY, VBKP, the flashes and the pins
hold; the option block and the straps are read. -/
def Dev.l4State (w : OwnerFuses) (d : Dev) (src : Nat) : Dev :=
  let o := d.flash.option.1.clean
  let copy := d.flash.option.2
  let valid := d.flash.coordOk
  let trip := d.thm.tripped && d.rst.vstby
  { Dev.init with
    free := d.free, out := d.out, bind := d.bind, flash := d.flash
    rte := { Rte.init with
      devId := devId (d.mgmt.straps % 8) (fld d.mgmt.straps 5 3) (o.c % 128) (o.d % 128), eligible := bit d.mgmt.straps 8, valid := valid,
      prot := o.prot, pend := o.prot }
    ports := (List.range 18).foldl (fun t p => tset Port.init t p { Port.init with enable := bit o.fabEn p }) []
    hst := { Hst.init with ports := tmap HPort.init (fun _ h => { h with state := 0 }) o.hports }
    thm := { Thm.init with
      option := o.thermal, tripped := trip, cycled := trip, hold := trip, logSens := d.thm.logSens, logFlow := d.thm.logFlow,
      logVal := d.thm.logVal, trips := d.thm.trips, losses := d.thm.losses }
    rst := { Rst.init with
      causeLv := 4, causeSrc := src, override := o.override, optCopy := copy, optVer := o.version, optUsed := o, backup := d.rst.backup,
      retained := d.rst.retained, audit := d.rst.audit, auditSat := d.rst.auditSat, l4Source := src, vstby := d.rst.vstby,
      vmain := d.rst.vmain, vbkp := d.rst.vbkp, refclk := d.rst.refclk, pinHeld := d.rst.pinHeld,
      wantRec := d.rst.wantRec && decide (src = 6) }
    upd := { Upd.init with mode := d.upd.mode, bootsel := fld d.mgmt.straps 7 6, lastFail := d.upd.lastFail }
    sec := { Sec.init with
      sealOpen := d.sec.sealOpen, sealBad := d.sec.sealBad, sealUnack := d.sec.sealUnack, sealN := d.sec.sealN,
      policy := w.policy.toNat, slots := w.slots }
    mgmt := { Mgmt.init with
      straps := d.mgmt.straps, wOption := copy != 0 || !valid, lossP := d.mgmt.lossP, lossCap := d.mgmt.lossCap, lossExp := d.mgmt.lossExp,
      lossWhy := d.mgmt.lossWhy, lossN := d.mgmt.lossN } }

/-- R346–R348: L4 by source `src`, and the events that tell which option block is in use and which of its lane maps are none. -/
def Dev.l4 (w : OwnerFuses) (d : Dev) (src : Nat) : Dev :=
  let copy := d.flash.option.2
  let n := d.l4State w src
  let n := if copy = 1 then n.raise 0xD020 0 else if copy = 2 then n.raise 0xD021 0 else n
  let n := if d.flash.coordOk then n else n.raiseAny 0xC4A7
  n.each d.flash.option.1.clean.badMaps (fun n p => n.raise 0xD022 p)

/-! ### Requests (R344, R345) -/

/-- R9: the cluster of a logical cell; R32: the partition of a cluster. -/
def ResetOp.unit (o : ResetOp) : Nat := if o.level = 2 then o.part else if o.level < 2 then o.target else 0

/-- R345: the scope of (level, unit) contains that of (level, unit). -/
def Dev.scopeIn (d : Dev) (l u m v : Nat) : Bool :=
  if 3 ≤ m then decide (l ≤ m)
  else if m = 2 then (l == 2 && u == v) || (l == 1 && d.clusterPart u == some v) || (l == 0 && d.cellPart u == some v)
  else if m = 1 then (l == 1 && u == v) || (l == 0 && u / 16 == v)
  else l == 0 && u == v

/-- R344, R345: a reset is requested: absorbed by one in progress that contains it, or recorded in place of those it contains. -/
def Dev.askReset (d : Dev) (o : ResetOp) : Dev :=
  let inside := fun (x : ResetOp) => d.scopeIn o.level o.unit x.level x.unit
  let covers := fun (x : ResetOp) => d.scopeIn x.level x.unit o.level o.unit
  if d.rst.ops.any inside then
    d.upRst (fun r => { r with ops := (updWhere inside (fun x => { x with fences := x.fences ++ o.fences }) r.ops) })
  else
    let old := d.rst.ops.filter covers
    let o := { o with fences := o.fences ++ old.flatMap (fun (x : ResetOp) => x.fences) }
    let d := match d.mld.op with
      | some y => if (o.level = 2 && y.mode != 1 && bit y.targets.toNat o.part) || o.level = 3 then d.resetOp y else d
      | none => d
    let d := d.upRst (fun r => { r with ops := r.ops.filter (fun x => !covers x) ++ [o] })
    if o.level = 2 then d.upPart o.part (fun x => { x with state := 4 })
    else if o.level = 3 then d.upRst (fun r => { r with state := 2 })
    else d

def mkReset (level source part target : Nat) (retrain : Bool) (fences : List Nat) (now : Nat) : ResetOp :=
  { level := level, source := source, part := part, target := target, retrain := retrain, idle := false, fences := fences, at0 := now }

/-- R344: the blocks in scope are idle, or are taken as they are: the reset is performed. -/
def Dev.performReset (w : OwnerFuses) (d : Dev) (o : ResetOp) : Dev :=
  let d := d.upRst (fun r => { r with
    causeLv := o.level, causeSrc := o.source, causeP := if o.level = 2 then o.part else 0, causeT := if o.level < 2 then o.target else 0,
    ops := updWhere (· == o) (fun x => { x with idle := true }) r.ops })
  match o.level with
  | 0 =>
    let d := d.upCat (fun c => { c with perf := tdrop c.perf (fun x => x / 8 == o.target) })
    match d.slotOf o.target with | some k => d.upSlot k Slot.wipe | none => d
  | 1 =>
    let d := d.upCat (fun c => { c with perf := tdrop c.perf (fun x => x / 128 == o.target) })
    d.each (List.range 17) (fun d j => d.upSlot (o.target * 32 + j) Slot.wipe)
  | 2 => d.resetPart o.part o.retrain
  | 3 => d.performL3
  | _ => d.l4 w o.source

/-- The reset in progress of a level and unit that still waits for idle. -/
def Dev.waitingReset (d : Dev) (level unit : Nat) : Option ResetOp :=
  d.rst.ops.find? (fun o => o.level == level && o.unit == unit && !o.idle)

/-- R344: every block in scope reports idle. -/
def doIdleReached (w : OwnerFuses) (d : Dev) (level unit : Nat) : Dev :=
  match d.waitingReset level unit with
  | some o => d.performReset w o
  | none => d

/-- R344: the idle timeout expires. -/
def doIdleTimeout (w : OwnerFuses) (d : Dev) (level unit : Nat) : Dev :=
  match d.waitingReset level unit with
  | some o => ((d.upRst (fun r => { r with forced := satAdd 16 r.forced 1 })).raise 0xD010 (level + (if level = 2 then o.part else 0) * 16)).performReset w o
  | none => d

/-! ### Sources (R342) -/

/-- R343: a source that performs the level of its code. A level below L3 names no unit and resets nothing. -/
def Dev.sourceActs (w : OwnerFuses) (d : Dev) (i : Nat) : Dev :=
  let d := d.countSource i
  match d.reach w i with
  | 5 => if i = 6 then d.askReset (mkReset 4 i 0 0 false [] d.now) else d.l4 w i
  | 4 => d.askReset (mkReset 3 i 0 0 false [] d.now)
  | _ => d

/-- R342, R437: VSTBY rises; the straps are read. -/
def doPor (w : OwnerFuses) (d : Dev) (straps : Nat) : Dev :=
  (((d.upRst (fun r => { r with vstby := true })).upMgmt (fun m => { m with straps := straps % 512 })).countSource 2).l4 w 2

/-- R342, R348, R437: VSTBY falls: what it holds is lost. -/
def doBor (w : OwnerFuses) (d : Dev) : Dev :=
  let d := (d.countSource 3).upRst (fun r => { r with vstby := false, backup := [], retained := [] })
  let d := { d with bind := none }
  let d := d.upThm (fun t => { t with tripped := false, logSens := 0, logFlow := false, logVal := 0, trips := 0, losses := 0 })
  let d := d.upMgmt (fun m => { m with lossP := 0, lossCap := 0, lossExp := false, lossWhy := 0, lossN := 0 })
  d.l4 w 3

/-- R342, R345: RESET_IN_N has been low for 1 µs; an L4 lasts until the pin is released. -/
def doPinReset (w : OwnerFuses) (d : Dev) : Dev := (d.upRst (fun r => { r with pinHeld := true })).sourceActs w 4

def doPinResetRelease (d : Dev) : Dev := d.upRst (fun r => { r with pinHeld := false })

/-- R342, R414: the watchdog (`limit`: the 10 s boot attempt timer) expires. -/
def doWdtExpiry (w : OwnerFuses) (d : Dev) (limit : Bool) : Dev :=
  let d := if d.rst.state = 0 then d.upUpd (fun u => { u with lastFail := if limit then 3 else 2 }) else d
  d.sourceActs w 5

def doLockUp (w : OwnerFuses) (d : Dev) : Dev :=
  (if d.rst.state = 0 then d.upUpd (fun u => { u with lastFail := 2 }) else d).sourceActs w 9

def doJtagReset (w : OwnerFuses) (d : Dev) : Dev := d.sourceActs w 7

/-- R29: REFCLK is lost: the management domain runs on the internal oscillator. -/
def doRefclkFailure (w : OwnerFuses) (d : Dev) : Dev :=
  if d.rst.refclk then (d.upRst (fun r => { r with refclk := false })).sourceActs w 8 else d

def doRefclkReturn (d : Dev) : Dev := d.upRst (fun r => { r with refclk := true })

/-- R437, R348: VBKP is lost with the counters and the seal-break record. -/
def doVbkpLoss (d : Dev) : Dev :=
  (d.upRst (fun r => { r with vbkp := false, audit := [], auditSat := [] })).upSec (fun s => { s with sealUnack := false, sealN := 0, sealBad := 0 })

def doVbkpReturn (d : Dev) : Dev := d.upRst (fun r => { r with vbkp := true })

/-! ### RST_CMD (R340, R359) -/

/-- Cells of an L0 or L1 that are in a run. -/
def Dev.inRun (d : Dev) (level target : Nat) : Bool :=
  d.cat.runs.any (fun r => r.cells.any (fun n => if level = 0 then n == target else n / 16 == target))

/-- R343: a request of a source whose code is the highest level it may ask; above it, 0xD011. R340: L0 and L1 apply only to cells in no
run. -/
def Dev.rstCmd (w : OwnerFuses) (d : Dev) (source level part target : Nat) (retrain : Bool) : Dev :=
  let d := d.countSource source
  if d.reach w source ≤ level then d.raise 0xD011 (source + level * 16)
  else if level < 2 && d.inRun level target then d
  else d.askReset (mkReset level source part target retrain [] d.now)

def doRstCmdL0 (w : OwnerFuses) (d : Dev) (r : Requester) (cell : Nat) : Dev :=
  if mgmtOnly r then d.rstCmd w 1 0 0 cell false else d.accessErr

def doRstCmdL1 (w : OwnerFuses) (d : Dev) (r : Requester) (cluster : Nat) : Dev :=
  if mgmtOnly r then d.rstCmd w 1 1 0 cluster false else d.accessErr

def doRstCmdL2 (w : OwnerFuses) (d : Dev) (r : Requester) (p : Nat) (retrain : Bool) : Dev :=
  if mgmtOnly r then d.rstCmd w 1 2 p 0 retrain else d.accessErr

def doRstCmdL3 (w : OwnerFuses) (d : Dev) (r : Requester) : Dev := if mgmtOnly r then d.rstCmd w 1 3 0 0 false else d.accessErr

/-! ### FENCE actions 1 to 3 (R159) -/

/-- The FENCE of action `a` on the control queue that may be taken now. -/
def Dev.takeFence (d : Dev) (i a : Nat) : Option Flight :=
  match d.take ctlQ i 0x32 with
  | some f => if woOpd f.wo 2 1 = a then some f else none
  | none => none

def Dev.fenceReset (w : OwnerFuses) (d : Dev) (i level target : Nat) : Dev :=
  let d := (d.startWork ctlQ i).countSource 0
  if level < 2 && d.inRun level target then d.endWork ctlQ i stBusy 0 0
  else if d.reach w 0 ≤ level then d.endWork ctlQ i stDenied 0 0
  else d.askReset (mkReset level 0 0 target false [i] d.now)

def doFenceResetCell (w : OwnerFuses) (d : Dev) (i : Nat) : Dev :=
  match d.takeFence i 1 with
  | some f => d.fenceReset w i 0 (woOpd f.wo 4 2)
  | none => d

def doFenceResetCluster (w : OwnerFuses) (d : Dev) (i : Nat) : Dev :=
  match d.takeFence i 2 with
  | some f => d.fenceReset w i 1 (woOpd f.wo 4 2)
  | none => d

/-- R151: an L3 by FENCE clears the control queue; no record is written. -/
def doFenceResetShell (w : OwnerFuses) (d : Dev) (i : Nat) : Dev :=
  match d.takeFence i 3 with
  | some _ => d.fenceReset w i 3 0
  | none => d

/-! ### Tests (R160, R352, R353) -/

/-- R350: slot `k` is tested as part of a reset or of bring-up: a first failure is tested once more. -/
def Dev.testedByReset (d : Dev) (k : Nat) : Bool :=
  d.rst.state != 1 || d.rst.ops.any (fun o => o.level == 2 && o.idle && bit (d.part o.part).clusters.toNat (k / 32))

/-- The TEST_BAR on the control queue that a unit's result completes. -/
def Dev.testBarOf (d : Dev) (kind unit : Nat) : Option Flight :=
  d.que.flights.find? (fun f => f.queue == ctlQ && woOp f.wo == 0x33 && f.started && f.status.isNone && woOpd f.wo 0 1 == kind && woOpd f.wo 2 2 == unit)

def doTestBarCell (d : Dev) (i : Nat) : Dev :=
  match d.take ctlQ i 0x33 with
  | some f =>
    let k := woOpd f.wo 2 2
    if woOpd f.wo 0 1 != 0 then d
    else
      let d := d.startWork ctlQ i
      if d.slotIdle k && (d.slot k).health != 4 then d.testStart k else d.endWork ctlQ i stBusy 0 0
  | none => d

/-- R160: the unit is tested in its next idle period. -/
def Dev.testBarUnit (d : Dev) (i kind : Nat) : Dev :=
  match d.take ctlQ i 0x33 with
  | some f => if woOpd f.wo 0 1 = kind then d.startWork ctlQ i else d
  | none => d

def doTestBarLadle (d : Dev) (i : Nat) : Dev := d.testBarUnit i 1
def doTestBarNmu (d : Dev) (i : Nat) : Dev := d.testBarUnit i 2

/-- R160: no idle period within 100 ms. -/
def doTestBarIdleTimeout (d : Dev) (i : Nat) : Dev :=
  match d.flight ctlQ i with
  | some f => if woOp f.wo = 0x33 && woOpd f.wo 0 1 != 0 && f.started && f.status.isNone then d.endWork ctlQ i stBusy 0 0 else d
  | none => d

/-- R351: a Ladle or a near-memory unit passes, or fails. -/
def Dev.unitResult (d : Dev) (nmu : Bool) (n : Nat) (pass : Bool) : Dev :=
  let put := fun (v : Nat) => setFld v n n (b2n (!pass))
  let d := d.upCat (fun c => if nmu then { c with nmuFail := BitVec.ofNat 16 (put c.nmuFail.toNat) } else { c with ladleFail := BitVec.ofNat 4 (put c.ladleFail.toNat) })
  if pass then d else d.raise 0xD034 (n + b2n nmu * 256)

/-- R352: the known-answer run of a unit ends: kind 0 slot, 1 Ladle, 2 near-memory unit. R351: a failed Ladle or near-memory unit is
cleared only by an L3 or L4. -/
def doTestBarComplete (d : Dev) (kind unit : Nat) (pass : Bool) : Dev :=
  let f := d.testBarOf kind unit
  let d :=
    if kind = 0 then
      if (d.slot unit).health = 4 then
        let d := d.testEnd unit pass
        if !pass && d.testedByReset unit && (d.slot unit).health != 3 then d.testStart unit else d
      else d
    else if (d.rst.state != 1 && !(kind == 2 && (d.stack unit).state == 4)) || !pass then d.unitResult (kind == 2) unit pass
    else d
  match f with
  | some f => d.endWork ctlQ f.index (if pass then stOk else stChecksum) 0 0
  | none => d

/-- R353: a background round begins. -/
def doSpareTestRound (d : Dev) : Dev :=
  if d.cat.testMin = 0 || d.cat.roundLeft != [] || d.rst.state != 1 then d
  else
    let ks := ((List.range 64).flatMap (fun c => (List.range 17).map (fun j => c * 32 + j))).filter (fun k => d.slotIdle k && (d.slot k).health != 4)
    (d.each ks (fun d k => d.testStart k)).upCat (fun c => { c with roundLeft := ks })

/-- R353: a suspect slot that has left its partition. -/
def doSuspectSlotTest (d : Dev) (k : Nat) : Dev :=
  if (d.slot k).health = 2 && (d.clusterPart (k / 32)).isNone then d.testStart k else d

/-- R356: CAT_SUSPECT: the bound host or the management port, and who has their rights (R17). -/
def doCatSuspect (d : Dev) (r : Requester) (n : Nat) : Dev := if hostOnly r || mgmtOnly r then d.suspectCell n 4 else d.accessErr

/-- R355: CAT_SLOT_CLEAR: management port only; a pour that targets the cluster then fails with 0x0E03. -/
def doCatSlotClear (d : Dev) (r : Requester) (k : Nat) : Dev :=
  if mgmtOnly r then
    let d := (d.upSlot k (fun s => { s with health := 0, failRow := 0 })).putRec { d.catRec with failed := d.catRec.failed.filter (· != k) }
    let d := d.upCat (fun c => { c with cleared := insertNat k c.cleared })
    d.upOp (fun o => if o.mode = 0 && bit o.clusters.toNat (k / 32) then { o with changed := true } else o)
  else d.accessErr

/-! ### Training and completion (R349–R351) -/

/-- R349 step 4, R351: stack s has trained, or has failed. The last one ends step 4 and puts every slot under test. -/
def doHbmTrainingDone (d : Dev) (s : Nat) (ok : Bool) : Dev :=
  if (d.stack s).state != 3 then d
  else
    let d := d.upStack s (fun x => { x with state := if ok then 1 else 4 })
    let d := if ok then d else d.unitResult true s false
    if d.rst.step = 3 && (List.range 16).all (fun s => (d.stack s).state != 3 && (d.stack s).state != 0) then
      let d := d.upRst (fun r => { r with step := 4, bringup := tset 0 r.bringup 3 ((d.now - r.vmainAt) / 100 % 2 ^ 32) })
      d.each ((List.range 64).flatMap (fun c => (List.range 17).map (fun j => c * 32 + j))) (fun d k => d.testStart k)
    else d

/-- R349: step 5 is recorded once every enabled port has finished training. -/
def Dev.noteTrained (d : Dev) : Dev :=
  if tget 0 d.rst.bringup 4 = 0xFFFFFFFF && (List.range 18).all (fun p => (d.port p).state != 1) && (List.range 4).all (fun p => (d.hport p).state != 1) then
    d.upRst (fun r => { r with bringup := tset 0 r.bringup 4 ((d.now - r.vmainAt) / 100 % 2 ^ 32) })
  else d

/-- R345, R349: THERM_TRIP_N is released: training goes on where a trip held it. -/
def Dev.resumeTraining (d : Dev) : Dev :=
  if d.rst.step = 3 && !d.thm.hold && (List.range 16).any (fun s => (d.stack s).state == 0) then d.stepThree else d

end Sys2Proof.Machine
end

