-- ==== Sys2Proof/Machine/Recovery.lean ====
section
/-! DEFINITION. Hang detection, fencing, the hang record and recovery (R361–R372), completion of resets (R350), twin operation as the
partner's packets and silence drive it (R376–R381). -/

namespace Sys2Proof.Machine

/-! ### Detection (R167, R361, R362) -/

/-- R362, R372: recovery of partition `p` starts, unless an L3 is under way (R345) or the partition is not in service. -/
def Dev.recover (d : Dev) (p cause cell queue : Nat) : Dev := if d.rst.state = 2 then d else d.fence p cause cell queue

/-- R167: the unit of an operation abandons it. -/
def Dev.watchEnd (d : Dev) (f : Flight) : Dev :=
  match d.cat.runs.find? (fun r => r.queue == f.queue && r.index == f.index) with
  | some r => d.stopRun r stWatchdog
  | none =>
    match d.mld.op with
    | some o =>
      if o.queue = f.queue && o.index = f.index then (if o.mode = 0 then d.opAbandon o stWatchdog 0 else d.opEnd o stWatchdog 0)
      else d.endWork f.queue f.index stWatchdog 0 f.result
    | none =>
      let n := woOpd f.wo 0 2
      let mine := isCol f.wo && (match d.instOf n with | some (_, x) => x.queue == f.queue && x.index == f.index | none => false)
      if mine then d.endInst n stWatchdog stWatchdog true else d.endWork f.queue f.index stWatchdog 0 f.result

/-- R167, R362: the elapsed budget of work order (q, i) reaches four times its value. -/
def doWatchdogTrip (d : Dev) (q i : Nat) : Dev :=
  match d.flight q i with
  | none => d
  | some f =>
    if f.status.isSome || f.watch then d
    else
      let d := (d.upQue (fun m => { m with wdCount := satAdd 32 m.wdCount 1 })).watchEnd f
      let d := d.upFlight q i (fun f => { f with watch := true })
      if q = ctlQ then d
      else
        let d := d.raise (0xD090 + f.part) (causeInfo 1 q)
        if d.rst.autoWd then d.recover f.part 1 0xFFFFFFFF q else d

/-- R361, R362: cell `n` of a run retires nothing for the stall interval. -/
def doCellStall (d : Dev) (n : Nat) : Dev :=
  match d.runOf n with
  | none => d
  | some r =>
    if d.thm.hold || !(d.cellState n == 2 || d.cellState n == 3) then d
    else
      let d := (d.raise (0xD090 + r.part) (causeInfo 2 n)).suspectCell n 3
      if d.rst.autoSt then d.recover r.part 2 n 0xFFFFFFFF else d

/-! ### Commands that recover (R159, R369) -/

/-- R159: a FENCE RECOVER completes once every named partition is READY or UNPOURED. -/
def Dev.fenceCheck (d : Dev) : Dev :=
  d.each (d.que.flights.filter (fun f => f.queue == ctlQ && woOp f.wo == 0x32 && woOpd f.wo 2 1 == 0 && f.started && f.status.isNone)) (fun d f =>
    if (bitsOf 16 (woOpd f.wo 0 2)).all (fun p => (d.part p).state == 2 || (d.part p).state == 0) then d.endWork ctlQ f.index stOk 0 0 else d)

/-- R159: FENCE action 0. -/
def doFenceRecover (d : Dev) (i : Nat) : Dev :=
  match d.takeFence i 0 with
  | none => d
  | some f =>
    let ps := bitsOf 16 (woOpd f.wo 0 2)
    let d := d.startWork ctlQ i
    if ps.any (fun p => (d.part p).state == 1 || (d.part p).state == 5) then d.endWork ctlQ i stBusy 0 0
    else (d.each ps (fun d p => d.recover p 3 0xFFFFFFFF 0xFFFFFFFF)).fenceCheck

/-- R369, R384: RST_RECOVER_CMD: management port only. -/
def Dev.recoverMask (d : Dev) (mask : Nat) : Dev := d.each (bitsOf 16 mask) (fun d p => d.recover p 4 0xFFFFFFFF 0xFFFFFFFF)

def doRecoverCmd (d : Dev) (r : Requester) (mask : Nat) : Dev := if mgmtOnly r then d.recoverMask mask else d.accessErr

/-! ### The end of the drain (R140, R364) -/

/-- R140: the drain of an UNPOUR is over: the queues are cancelled, everything is released and zeroised. -/
def Dev.unpourNow (d : Dev) (p : Nat) : Dev :=
  (((d.stopWork p stFenced).killQueues p).release p false 0 []).upPart p (fun x => { x with state := 0, unpour := false })

/-- R364: 50 ms after the fence. -/
def doFenceDrainEnd (d : Dev) (p : Nat) : Dev :=
  let x := d.part p
  if x.state != 3 then d
  else if x.unpour then ((d.unpourNow p).unpourCheck).fenceCheck
  else if x.rcStep != 2 then d
  else (d.stopWork p (if x.twin = 3 || x.rcCause = 5 then stTwin else stFenced)).upPart p (fun x => { x with rcStep := 3 })

/-! ### The hang record (R366–R368) -/

/-- R366: one entry of the cell table. The in-flight indices are free: no rule says what an empty place of the 16 holds
(notes/assumptions/1). -/
def Dev.hangCell (d : Dev) (n : Nat) : Bytes × Dev :=
  let s := match d.slotOf n with | some k => d.slot k | none => Slot.init
  let (fl, d) := d.drawBytes 32
  let fill := fun (t : Tab (List SWord)) (p : Nat) => BitVec.ofNat 8 (tget [] t p).length
  let b := leBytes 2 n ++ leBytes 1 (tget (n % 16) d.cat.map n) ++ leBytes 1 (d.cellState n) ++ leBytes 2 s.pc ++ leBytes 4 (d.cellFaultReg n) ++
    List.replicate 6 0 ++ (List.range 16).flatMap (fun i => leBytes 4 (s.x i)) ++ leBytes 16 (tget 0 s.store s.pc).toNat ++ fl ++
    (List.range 4).map (fill s.inBuf) ++ (List.range 4).map (fill s.outBuf)
  (b ++ List.replicate (256 - b.length) 0, d)

/-- R366: a cell's sample; an uncorrectable word is written as zero. -/
def Dev.hangSample (d : Dev) (n : Nat) : Bytes × Bool :=
  match d.slotOf n with
  | none => (List.replicate 16384 0, false)
  | some k =>
    let bad := (d.slot k).carrelUe.filter (· < 16384)
    let t := bad.foldl (fun t u => tputs 0 t u (List.replicate 8 0)) (d.slot k).carrel
    (tgets 0 t 0 16384, bad != [])

/-- A block padded to a multiple of 4 KiB. -/
def pad4k (b : Bytes) : Bytes := b ++ List.replicate ((4096 - b.length % 4096) % 4096) 0

/-- R366: the partition's shelf pages in ascending virtual page order: their local physical addresses. -/
def Part.shelfVirtual (p : Part) : List Nat :=
  p.pages.filterMap (fun kv => match kv.2 with | some g => if shelfPage0 ≤ kv.1 && shelfPage0 ≤ g.ppage then some (g.ppage * 0x200000) else none | none => none)

/-- R366: how many cells fit: (cell-table entries, samples). -/
def hangFit (cap q c : Nat) : Nat × Nat :=
  let t0 := ceilDiv (4096 + 16 * q) 4096 * 4096
  let full := t0 + ceilDiv (256 * c) 4096 * 4096
  if full ≤ cap then (c, min c ((cap - full) / 16384)) else (min c ((cap - t0) / 256), 0)

/-- R366: the record of partition `p`: its bytes, the cells it samples, whether it is truncated. -/
def Dev.hangRecord (d : Dev) (p : Nat) : Bytes × Nat × Bool × Dev :=
  let x := d.part p
  let qs := d.que.queues.filter (fun kv => kv.2.bound && kv.2.part == p)
  let cells := (bitsOf 1024 d.cat.used).filter (fun n => d.cellPart n == some p)
  let cap := x.shelfVirtual.length * 0x200000
  let (nt, ns) := hangFit cap qs.length cells.length
  let samples := (cells.take ns).map d.hangSample
  let trunc := decide (nt < cells.length) || decide (ns < cells.length)
  let (table, d) := (cells.take nt).foldl (fun (a : Bytes × Dev) n => let (b, d) := a.2.hangCell n; (a.1 ++ b, d)) ([], d)
  let head := leBytes 4 0x44484E47 ++ leBytes 2 1 ++ leBytes 1 p ++ leBytes 1 x.rcCause ++ leBytes 8 (b2n trunc + 2 * b2n (samples.any (·.2))) ++
    leBytes 8 x.fencedAt ++ leBytes 4 x.gen ++ leBytes 2 cells.length ++ leBytes 2 qs.length ++ leBytes 32 x.digest ++ leBytes 4 x.rcCell ++
    leBytes 4 x.rcQueue
  let queues := qs.flatMap (fun kv => leBytes 4 kv.1 ++ leBytes 4 kv.2.prod ++ leBytes 4 kv.2.disp ++ leBytes 4 kv.2.ret)
  (pad4k (pad4k (pad4k head ++ queues) ++ table) ++ samples.flatMap (·.1), ns, trunc, d)

/-- R366: writes the record page by page. -/
def Dev.hangWrite (d : Dev) : List Nat → Bytes → Dev
  | [], _ => d
  | pa :: l, bs => if bs = [] then d else Dev.hangWrite (d.memPut 4 pa (bs.take 0x200000)).1 l (bs.drop 0x200000)

/-- R369 steps 5 and 6: queues killed, then the L2 reset with retraining, source RCV. -/
def Dev.recoverReset (d : Dev) (p : Nat) : Dev :=
  let n := (d.que.queues.filter (fun kv => kv.2.bound && kv.2.part == p)).foldl (fun a kv => a + (kv.2.prod + 2 ^ 32 - kv.2.disp) % 2 ^ 32) 0
  let d := ((d.killQueues p).upPart p (fun x => { x with hgKilled := min 65535 n })).countSource 10
  let o : ResetOp := { (mkReset 2 10 p 0 true [] d.now) with idle := true }
  let d := d.upRst (fun r => { r with
    ops := r.ops.filter (fun x => !d.scopeIn x.level x.unit 2 p) ++ [{ o with fences := (r.ops.filter (fun x => d.scopeIn x.level x.unit 2 p)).flatMap (fun (x : ResetOp) => x.fences) }],
    causeLv := 2, causeSrc := 10, causeP := p, causeT := 0 })
  (d.resetPart p true).upPart p (fun x => { x with rcStep := 6 })

/-- R367: the bytes an export writes. -/
def Dev.exportLen (d : Dev) (p : Nat) : Nat := min (d.part p).hgBytes (d.rst.expMib * 0x100000)

/-- R366–R368: step 3 ends: the record is assembled, or scrubbed; export begins where it is enabled. -/
def doHangRecordAssembled (d : Dev) (p : Nat) : Dev :=
  let x := d.part p
  if x.state != 3 || x.rcStep != 3 then d
  else if x.conf then
    ((d.each x.shelf (fun d g => d.zeroShelf g)).upPart p (fun x => { x with hgScrub := true, hgCells := 0, hgTrunc := false, hgExp := false, hgBytes := 0 })).recoverReset p
  else if x.shelfVirtual = [] then
    (d.upPart p (fun x => { x with hgCells := 0, hgTrunc := false, hgScrub := false, hgExp := false, hgBytes := 0 })).recoverReset p
  else
    let (bs, n, tr, d) := d.hangRecord p
    let d := (d.hangWrite x.shelfVirtual bs).upPart p (fun x => { x with hgCells := n, hgTrunc := tr, hgScrub := false, hgExp := false, hgBytes := bs.length })
    if d.rst.expOn then
      (d.upPart p (fun x => { x with rcStep := 4 })).emit (.hostWrite d.rst.expQp d.rst.expVa d.rst.expRkey (bs.take (d.exportLen p)))
    else d.recoverReset p

/-- R367: the export is complete. -/
def doHangExportComplete (d : Dev) (p : Nat) : Dev :=
  if (d.part p).rcStep != 4 then d
  else ((d.upPart p (fun x => { x with hgExp := true })).raise (0xD0A0 + p) (d.exportLen p)).recoverReset p

/-- R367: the export is abandoned after 20 ms, or when its QP is in ERROR; `n` bytes had been written. -/
def doHangExportTimeout (d : Dev) (p n : Nat) : Dev :=
  if (d.part p).rcStep != 4 then d else (d.raise (0xD0A0 + p) (min n (d.exportLen p) + 2 ^ 47)).recoverReset p

/-! ### Completion (R350, R369 step 7, R370) -/

/-- R369 step 7: a recovery ends; the level that ended it. -/
def Dev.recovered (d : Dev) (p level : Nat) : Dev :=
  if (d.part p).rcStep = 0 then d
  else
    let ms := (d.now - (d.part p).fencedAt) / 100000
    (d.upPart p (fun x => { x with rcStep := 0 })).raise (0xD0B0 + p) (ms % 2 ^ 32 + level * 2 ^ 32)

/-- R358: the info field of 0xD008 + L. -/
def ResetOp.info (o : ResetOp) : Nat := o.source + (if o.level = 2 then o.part * 16 else 0) + (if o.level < 2 then o.target * 256 else 0)

/-- R350: nothing of the reset's scope is still under test or in training. -/
def Dev.resetSettled (d : Dev) (o : ResetOp) : Bool :=
  match o.level with
  | 2 =>
    let x := d.part o.part
    x.slots.all (fun k => (d.slot k).health != 4) && (bitsOf 16 x.stackSet.toNat).all (fun s => (d.stack s).state != 3) &&
      !(o.source == 10 && (bitsOf 16 x.stackSet.toNat).any (fun s => (d.stack s).state == 4))
  | 3 => d.rst.state == 1
  | _ => true

/-- R350, R369: a reset below L4 completes: 0xD008 + L; FENCEs complete; a recovered partition is reported. -/
def doResetComplete (d : Dev) (level unit : Nat) : Dev :=
  match d.rst.ops.find? (fun o => o.level == level && o.unit == unit && o.idle) with
  | none => d
  | some o =>
    if !d.resetSettled o then d
    else
      let d := if o.level = 2 then d.resetPartDone o.part else d
      let d := (d.upRst (fun r => { r with ops := r.ops.filter (· != o) })).raise (0xD008 + o.level) o.info
      let d := d.each o.fences (fun d i => d.endWork ctlQ i stOk 0 0)
      let d := if o.level = 2 then d.recovered o.part 2 else if o.level = 3 then d.each parts16 (fun d p => d.recovered p 3) else d
      (d.unpourCheck).fenceCheck

/-- R370: the L2 of a recovery has failed: one escalation to L3 within RCV's reach, or none. -/
def doResetL2Failure (w : OwnerFuses) (d : Dev) (p : Nat) : Dev :=
  match d.rst.ops.find? (fun o => o.level == 2 && o.unit == p && o.idle && o.source == 10) with
  | none => d
  | some o =>
    if d.reach w 10 < 4 then (d.upRst (fun r => { r with ops := r.ops.filter (· != o) })).raise (0xD0C0 + p) 1
    else
      let d := ((d.upPart p (fun x => { x with rcEsc := satAdd 8 x.rcEsc 1 })).raise (0xD0C0 + p) 0).countSource 10
      d.askReset (mkReset 3 10 0 0 false [] d.now)

/-! ### Twin operation (R139, R376–R381) -/

/-- A TWIN packet from the partner is heard. -/
def Dev.twinHeard (d : Dev) (k : Packet) : Dev × Bool :=
  let d := d.takePkt k
  if k.src = d.partnerId then (d.upTwin (fun t => { t with heardAt := d.now }), true) else (d, false)

/-- R139, R381: the partner's pour digest. A solo survivor answers with the solo flag; a pour that waits is settled; else it is kept. -/
def doPourDigest (d : Dev) (k : Packet) : Dev :=
  match d.twinHeard k with
  | (d, false) => d
  | (d, true) =>
    let dig := le k.payload 0 32
    let sc := le k.payload 32 1
    let solo := le k.payload 33 1 % 2 == 1
    match parts16.find? (fun p => (d.part p).twin == 2 && (d.part p).state == 2), d.mld.op, d.mld.twinWait with
    | some p, _, false => if solo then d else d.sendTwin p 1 (leBytes 32 (d.part p).digest ++ leBytes 1 (d.part p).twScope ++ [1])
    | _, some o, true => d.twinSettle o dig sc solo
    | _, _, _ => d.upMld (fun m => { m with partner := some (dig, sc, solo, d.now) })

/-- R377: the range that a RANGE or DIVERGED payload names. -/
def rangeOf (k : Packet) : Range :=
  { part := k.dstPart, stream := le k.payload 0 2, first := le k.payload 4 4, last := le k.payload 8 4, digest := le k.payload 16 8 }

/-- R377–R379: the partner's digest of a range. -/
def doRange (d : Dev) (k : Packet) : Dev :=
  match d.twinHeard k with
  | (d, false) => d
  | (d, true) =>
    let b := rangeOf k
    if (d.part b.part).twin != 1 then d
    else
      match d.twin.own.find? (sameRange b) with
      | some a => d.compareRange a b
      | none => d.upTwin (fun t => { t with theirs := t.theirs ++ [b] })

def doBeat (d : Dev) (k : Packet) : Dev := (d.twinHeard k).1

/-- R377: BEAT every 1 ms while some partition is paired. -/
def doBeatSend (d : Dev) : Dev :=
  match parts16.find? (fun p => (d.part p).twin == 1) with
  | some p => d.sendTwin p 3 []
  | none => d

/-- R380: the partner leaves. -/
def doLeave (d : Dev) (k : Packet) : Dev :=
  match d.twinHeard k with
  | (d, false) => d
  | (d, true) => if (d.part k.dstPart).twin = 1 then d.goSolo else d

/-- R379, R381: DIVERGED: a paired twin recovers too; a solo survivor ignores it. -/
def doDiverged (d : Dev) (k : Packet) : Dev :=
  match d.twinHeard k with
  | (d, false) => d
  | (d, true) =>
    let b := rangeOf k
    if (d.part b.part).twin = 1 then d.diverge ((d.twin.own.find? (sameRange b)).getD b) else d

/-- R380: 10 ms without a TWIN packet. -/
def doTwinSilenceTimeout (d : Dev) : Dev := d.goSolo

/-- R376: a filter entry idle for 3 s. -/
def doTwinFilterExpiry (d : Dev) (pair part stream : Nat) : Dev :=
  d.upTwin (fun t => { t with filter := t.filter.filter (fun x => !((x.pair, x.part, x.stream) == (pair, part, stream))) })

end Sys2Proof.Machine
end

