-- ==== Sys2Proof/Machine/Novvan.lean ====
section
/-! DEFINITION. Messages of the management port and of the host control class: how a Novvan request is taken in and answered (R281,
R425–R427), replies and notifications (R427), I3C addresses (R422), MCTP control (R423), PLDM (R424). -/

namespace Sys2Proof.Machine

/-! ### Novvan requests (R425–R427) -/

/-- R423: a discarded message is counted. -/
def Dev.mctpDiscard (d : Dev) : Dev := d.upMgmt (fun m => { m with discard := satAdd 16 m.discard 1 })

/-- R425, R427: a reply goes out on the path of its request; on the management port it waits to be read. -/
def Dev.sendReply (d : Dev) (m : Novvan) (r : Reply) : Dev :=
  if m.path then
    (d.upMgmt (fun x => { x with pendRep := x.pendRep ++ [{ cmd := r.cmd, tag := r.tag, body := r.body, eid := m.eid, at0 := d.now, read := false }] })).emit
      (.novvan true r.cmd r.tag r.status r.detail r.body)
  else d.hostReq m.eid (.novvan false r.cmd r.tag r.status r.detail r.body)

/-- R427: the last 64 replies of each path are kept. -/
def keepReplies (l : List Reply) : List Reply := (l.filter (·.path)).take 64 ++ (l.filter (fun r => !r.path)).take 64

/-- R427: a request is answered, and its reply kept. -/
def Dev.respond (d : Dev) (cmd : Nat) (m : Novvan) (st det : Nat) (body : Bytes) : Dev :=
  let r : Reply := { path := m.path, cmd := cmd, tag := m.tag, status := st, detail := det, body := body }
  (d.upMgmt (fun x => { x with replies := keepReplies (r :: x.replies) })).sendReply m r

/-- R427: a request whose report is still awaited. -/
def Dev.awaitsReport (d : Dev) (cmd : Nat) (m : Novvan) : Bool :=
  cmd == 0x50 && d.sec.repQ.any (fun r => match r.msg with | some x => x.path == m.path && x.tag == m.tag | none => false)

/-- R281, R423, R426, R427: a request of command `cmd` arrives; `h`: the host control class may send it too. The flag says that it is
to be executed; otherwise it has been answered, repeated, discarded, or is answered already by a report under way. -/
def Dev.takeIn (d : Dev) (cmd : Nat) (h : Bool) (m : Novvan) : Dev × Bool :=
  if !d.rst.booted then (d, false)
  else if m.path && d.mgmt.eid.isNone then (d.mctpDiscard, false)
  else
    let d := if m.path then d else d.freeEntry m.eid
    match d.mgmt.replies.find? (fun r => r.path == m.path && r.cmd == cmd && r.tag == m.tag) with
    | some r => ((d.upMgmt (fun x => { x with repeated := satAdd 16 x.repeated 1 })).sendReply m r, false)
    | none =>
      if d.awaitsReport cmd m then (d, false)
      else if !m.path && !h then (d.respond cmd m stDenied 0 [], false)
      else if m.bad then (d.respond cmd m stMould 0x3002 [], false)
      else (d, true)

/-- A request executed by `f`, which answers with a status, a detail and a body. -/
def Dev.request (d : Dev) (cmd : Nat) (h : Bool) (m : Novvan) (f : Dev → Dev × Nat × Nat × Bytes) : Dev :=
  match d.takeIn cmd h m with
  | (d, false) => d
  | (d, true) =>
    let (d, st, det, body) := f d
    d.respond cmd m st det body

/-- R426: the codes a controller may send. -/
def requestCodes : List Nat :=
  [0x01, 0x02, 0x03, 0x10, 0x11, 0x20, 0x21, 0x22, 0x30, 0x31, 0x40, 0x50, 0x51, 0x60, 0x70, 0x71]

/-- R426: a code of no command: detail 0x3001; the code of a notification is allowed on no path. -/
def doReservedCommand (d : Dev) (m : Novvan) (code : Nat) : Dev :=
  if requestCodes.contains code then d
  else
    d.request code true { m with bad := false } (fun d =>
      if 0x100 ≤ code && code ≤ 0x104 then (d, stDenied, 0, []) else (d, stMould, 0x3001, []))

/-! ### Replies and notifications (R427) -/

/-- R427: the controller reads a pending reply (`note` false), which leaves the list, or a notification, which waits for its answer. -/
def doReplyRead (d : Dev) (note : Bool) (cmd tag : Nat) : Dev :=
  d.upMgmt (fun m =>
    if note then { m with notes := updWhere (fun n => n.cmd == cmd && n.tag == tag) (fun n => { n with read := true }) m.notes }
    else { m with pendRep := dropFirst (fun n => n.cmd == cmd && n.tag == tag) m.pendRep })

/-- R427: a reply unread for 10 s is discarded and counted. -/
def doReplyExpiry (d : Dev) (cmd tag : Nat) : Dev :=
  if d.mgmt.pendRep.any (fun n => n.cmd == cmd && n.tag == tag) then
    d.upMgmt (fun m => { m with
      pendRep := dropFirst (fun n => n.cmd == cmd && n.tag == tag) m.pendRep, unread := satAdd 16 m.unread 1 })
  else d

/-- R427, R430, R431: the controller replies to a notification; VMAIN_REMOVE is sent on until VMAIN is gone. -/
def doNotificationReply (d : Dev) (cmd tag : Nat) : Dev :=
  match d.mgmt.notes.find? (fun n => n.cmd == cmd && n.tag == tag) with
  | none => d
  | some n =>
    if cmd = 0x102 && d.mgmt.vmHold.isSome then d
    else
      d.upMgmt (fun m => { m with
        notes := dropFirst (fun n => n.cmd == cmd && n.tag == tag) m.notes,
        unans := if cmd = 0x104 then m.unans - n.body.length / 16 else m.unans })

/-- R427, R429: every second, what is unanswered goes to the EID that last sent KEEPALIVE. -/
def doNotificationResend (d : Dev) : Dev :=
  match d.mgmt.keepEid with
  | some e => d.each d.mgmt.notes (fun d n => d.emit (.note n.cmd n.tag e n.body))
  | none => d

/-! ### I3C (R422) -/

/-- R422, R216: the static address, 0x30 plus the SLOT_A strap of the last L4. -/
def Dev.i3cStatic (d : Dev) : Nat := 0x30 + devA d.rte.devId

/-- R422: SETDASA is addressed to the static address. -/
def doSetdasa (d : Dev) (static dyn : Nat) : Dev :=
  if static = d.i3cStatic then d.upMgmt (fun m => { m with i3c := some (dyn % 128) }) else d

def doRstdaa (d : Dev) : Dev := d.upMgmt (fun m => { m with i3c := none })

/-- R422: values of 64 to 256 are accepted. -/
def doSetmrl (d : Dev) (n : Nat) : Dev := if 64 ≤ n && n ≤ 256 then d.upMgmt (fun m => { m with mrl := n }) else d

def doSetmwl (d : Dev) (n : Nat) : Dev := if 64 ≤ n && n ≤ 256 then d.upMgmt (fun m => { m with mwl := n }) else d

/-! ### MCTP control (R423) -/

/-- R423: a control message to EID `dst`; before an EID is assigned, the null EID alone is answered. -/
def Dev.mctpControl (d : Dev) (dst : Nat) (f : Dev → Dev) : Dev :=
  if !d.rst.booted then d
  else if dst = 0 || d.mgmt.eid = some dst then f d
  else d.mctpDiscard

/-- DSP0236 (notes/assumptions/12): EIDs 8 to 254 may be assigned; the answer holds completion code, status, EID and pool size. -/
def doSetEndpointId (d : Dev) (dst eid : Nat) : Dev :=
  d.mctpControl dst (fun d =>
    if 8 ≤ eid && eid ≤ 254 then
      (d.upMgmt (fun m => { m with eid := some eid })).emit (.mctp 1 [0, 0, BitVec.ofNat 8 eid, 0])
    else d.emit (.mctp 1 [2]))

def doGetEndpointId (d : Dev) (dst : Nat) : Dev :=
  d.mctpControl dst (fun d => d.emit (.mctp 2 [0, BitVec.ofNat 8 (d.mgmt.eid.getD 0), 0, 0]))

/-- R423: the UUID is the unit ID. -/
def doGetEndpointUuid (v : VendorFuses) (d : Dev) (dst : Nat) : Dev :=
  d.mctpControl dst (fun d => d.emit (.mctp 3 (0 :: leBytes 16 v.unitId)))

/-- R423: version 1.3 of the base (0x00, 0xFF); what the other types answer no rule gives: free (notes/assumptions/1). -/
def doGetMctpVersionSupport (d : Dev) (dst type : Nat) : Dev :=
  d.mctpControl dst (fun d =>
    if type = 0 || type = 0xFF then d.emit (.mctp 4 [0, 1, 0xF1, 0xF3, 0xF0, 0])
    else if type = 1 || type = 0x7F then
      let (b, d) := d.drawBytes 4
      d.emit (.mctp 4 ([0, 1] ++ b))
    else d.emit (.mctp 4 [0x80]))

/-- R423: PLDM and the vendor type, beside MCTP control. -/
def doGetMessageTypeSupport (d : Dev) (dst : Nat) : Dev := d.mctpControl dst (fun d => d.emit (.mctp 5 [0, 2, 0x01, 0x7F]))

/-- R423: a message of an unsupported type. -/
def doMctpUnsupported (d : Dev) : Dev := if d.rst.booted then d.mctpDiscard else d

/-! ### PLDM (R424) -/

/-- R423, R424: a PLDM request. -/
def Dev.pldm (d : Dev) (f : Dev → Dev) : Dev := if !d.rst.booted then d else if d.mgmt.eid.isNone then d.mctpDiscard else f d

/-- DSP0240, DSP0248 (notes/assumptions/12): codes of the commands of R424. -/
def pldmBase : List Nat := [2, 3, 4, 5]
def pldmMonitor : List Nat := [0x11, 0x21, 0x50, 0x51]

/-- R424: the TID is not stated: free. -/
def doGetTid (d : Dev) : Dev :=
  d.pldm (fun d =>
    let (b, d) := d.drawBytes 1
    d.emit (.pldm 2 0 b))

/-- R424: types 0 and 2; their versions are not stated: free. -/
def doGetPldmVersion (d : Dev) (type : Nat) : Dev :=
  d.pldm (fun d =>
    if type = 0 || type = 2 then
      let (b, d) := d.drawBytes 4
      d.emit (.pldm 3 0 b)
    else d.emit (.pldm 3 0x83 []))

def doGetPldmTypes (d : Dev) : Dev := d.pldm (fun d => d.emit (.pldm 4 0 (leBytes 8 5)))

def doGetPldmCommands (d : Dev) (type : Nat) : Dev :=
  d.pldm (fun d =>
    if type = 0 then d.emit (.pldm 5 0 (leBytes 32 (ofBits pldmBase)))
    else if type = 2 then d.emit (.pldm 5 0 (leBytes 32 (ofBits pldmMonitor)))
    else d.emit (.pldm 5 0x83 []))

/-- R424: the layout of the repository is not stated: free. -/
def doGetPdrRepositoryInfo (d : Dev) : Dev :=
  d.pldm (fun d =>
    let (b, d) := d.drawBytes 41
    d.emit (.pldm 0x50 0 b))

def doGetPdr (d : Dev) : Dev :=
  d.pldm (fun d =>
    let (b, d) := d.drawBytes 64
    d.emit (.pldm 0x51 0 b))

/-- R424: the numeric sensors in the order of its table: power, VMAIN, effective cap, four hot spots, sixteen stacks, inlet, outlet,
flow. -/
def Dev.pldmValue (d : Dev) (n : Nat) : Option Int :=
  if n = 0 then some d.pwr.power
  else if n = 1 then some d.pwr.vmain
  else if n = 2 then some d.pwr.eff
  else if n < 7 then some (tget 0 d.thm.hotVal (n - 3))
  else if n < 23 then some (d.stack (n - 7)).temp
  else if n = 23 then some d.thm.inlet
  else if n = 24 then some d.thm.outlet
  else if n = 25 then some d.thm.flow
  else none

/-- R424: a numeric sensor's reading. -/
def doGetSensorReading (d : Dev) (n : Nat) : Dev :=
  d.pldm (fun d => match d.pldmValue n with
    | some v => d.emit (.pldm 0x11 0 (leBytes 4 (twos 32 v)))
    | none => d.emit (.pldm 0x11 0x80 []))

/-- R424: device state: 0 bringing up, 1 READY, 2 L3, 3 recovery ROM. -/
def Dev.pldmState (d : Dev) : Nat := if d.upd.recovery then 3 else d.rst.state

/-- R424: a state sensor: 0 device state, 1 thermal trip. -/
def doGetStateSensorReadings (d : Dev) (n : Nat) : Dev :=
  d.pldm (fun d =>
    if n = 0 then d.emit (.pldm 0x21 0 (leBytes 1 d.pldmState))
    else if n = 1 then d.emit (.pldm 0x21 0 (leBytes 1 (b2n d.thm.tripped)))
    else d.emit (.pldm 0x21 0x80 []))

/-- R424: any other PLDM command: ERROR_UNSUPPORTED_PLDM_CMD (5 in DSP0240). -/
def doPldmUnsupported (d : Dev) (cmd : Nat) : Dev := d.pldm (fun d => d.emit (.pldm cmd 5 []))

end Sys2Proof.Machine
end

