-- ==== Sys2Proof/Machine/Security.lean ====
section
/-! DEFINITION. The Archivist: keys (R386), owner fuses (R388, R389), owner commands, presence and the seal (R390–R393), mould policy
(R394), debug states (R395), attestation (R398–R401), the ARC lock (R402). -/

namespace Sys2Proof.Machine

/-! ### Stored firmware (R405, R407) and keys (R386) -/

/-- R405: folio 0 and image of component `c` in a bank. -/
def Flash.folio0 (f : Flash) (bank c : Nat) : Bytes :=
  match tget none f.images (bank * 8 + c) with | some i => i.folio0 | none => Config.factoryFolio0 c

def Flash.image (f : Flash) (bank c : Nat) : Bytes :=
  match tget none f.images (bank * 8 + c) with | some i => i.bytes | none => Config.factoryImage c

/-- R407: fields of folio 0. -/
def foVersion (b : Bytes) : Nat := le b 12 4
def foRollback (b : Bytes) : Nat := le b 16 4
def foLength (b : Bytes) : Nat := le b 20 4
def foCount (b : Bytes) : Nat := le b 24 2
def foSettings (b : Bytes) : Nat := le b 26 2

/-- R386: the digest of the Archivist image that is running. -/
def Dev.archivistDigest (d : Dev) : Nat := sha256 (d.flash.image d.upd.bank 0)

/-- R386: the seeds of the attestation key. -/
def Dev.akSeed (v : VendorFuses) (d : Dev) : Bytes :=
  hkdfExpand (hkdfExtract (ascii "YKB-9160 IDENTITY") (leBytes 32 v.secret)) (ascii "AK" ++ leBytes 32 d.archivistDigest) 48

/-! ### Owner fuses (R388, R389) -/

/-- R388: SHA-256 of the key of slot `i`. -/
def OwnerFuses.hash (w : OwnerFuses) (i : Nat) : BitVec 256 :=
  if i = 0 then w.hash0 else if i = 1 then w.hash1 else if i = 2 then w.hash2 else w.hash3

def OwnerFuses.orHash (w : OwnerFuses) (i : Nat) (x : BitVec 256) : OwnerFuses :=
  { w with
    hash0 := if i = 0 then w.hash0 ||| x else w.hash0, hash1 := if i = 1 then w.hash1 ||| x else w.hash1,
    hash2 := if i = 2 then w.hash2 ||| x else w.hash2, hash3 := if i = 3 then w.hash3 ||| x else w.hash3 }

/-- R391: an enrolled, unrevoked slot. -/
def OwnerFuses.live (w : OwnerFuses) (i : Nat) : Bool := decide (i < 4) && bit w.enrolled.toNat i && !bit w.revoked.toNat i

/-- R389, R402: `n` 32-bit fuse words that hold `old` are to take the bits of `want`; the bits of `stuck` never read back as 1. Answers
the words' new value, low word first, and whether every word verified; the words after one that does not are left. Each word
programmed raises 0xD405; no rule numbers the words: bits 46:0 are free (notes/assumptions/1). -/
def Dev.fuse : Nat → Dev → Nat → Nat → Nat → Nat × Dev × Bool
  | 0, d, _, _, _ => (0, d, true)
  | n + 1, d, old, want, stuck =>
    let o := old % 2 ^ 32
    let t := Nat.lor o (want % 2 ^ 32)
    let got := if t = o then o else Nat.lor o (ofBits ((bitsOf 32 want).filter (fun i => !bit stuck i)))
    let d :=
      if t = o then d
      else
        let (i, d) := d.draw 47
        d.raise 0xD405 (i.toNat + b2n (got != t) * 2 ^ 47)
    if got != t then (got + old / 2 ^ 32 * 2 ^ 32, d, false)
    else
      let (r, d, ok) := Dev.fuse n d (old / 2 ^ 32) (want / 2 ^ 32) (stuck / 2 ^ 32)
      (got + r * 2 ^ 32, d, ok)

/-! ### Owner commands (R390–R392) -/

/-- R392: an unused presence assertion lies within the last 30 s. -/
def Dev.presence (d : Dev) : Bool :=
  match d.sec.presAt with | some t => !d.sec.presUsed && decide (d.now ≤ t + 3000000000) | none => false

/-- R391: the owner signature of a command. -/
def Dev.ownerSigned (v : VendorFuses) (w : OwnerFuses) (d : Dev) (code : Nat) (payload : Bytes) (s : OwnerSig) : Bool :=
  w.live s.slot && sha256 s.key == (w.hash s.slot).toNat &&
    Config.slhVerify (sha256 s.key)
      (sha256Bytes (leBytes 2 code ++ leBytes 16 v.unitId ++ leBytes 8 d.sec.challenge ++ payload)) s.sig

/-- R391: a new challenge, from the random number generator: free (notes/assumptions/1). -/
def Dev.newChallenge (d : Dev) : Dev :=
  let (c, d) := d.draw 64
  d.upSec (fun s => { s with challenge := c.toNat })

/-- What an owner command asks for, beside its signature (R390). -/
structure OwnerReq where
  kind    : Nat         -- 0 enrol, 1 revoke, 2 program, 3 tighten, 4 relax, 5 unlock OWNER, 6 recovery mode, 7 clear audit, 8 acknowledge, 9 unlock VENDOR
  pres    : Bool        -- needs physical presence
  gated   : Bool        -- refused while a seal break is unacknowledged (R393)
  signed  : Bool        -- its signature, if one is needed, verifies
  allowed : Bool        -- no other rule refuses it

/-- R390: a refused command: counted, event 0xD404, ACCESS_DENIED. -/
def Dev.ownerRefuse (d : Dev) (code : Nat) (noPres noSig : Bool) : Dev :=
  (d.upSec (fun s => { s with
    refPres := if noPres then satAdd 16 s.refPres 1 else s.refPres, refSig := if noSig then satAdd 16 s.refSig 1 else s.refSig })).raise
    0xD404 (code + b2n noPres * 2 ^ 16 + b2n noSig * 2 ^ 17)

/-- R390–R392: an owner command: refused, with nothing changed, or executed by `act`, which answers with a status. -/
def ownerCommand (w : OwnerFuses) (d : Dev) (m : Novvan) (req : OwnerFuses → Dev → OwnerReq)
    (act : OwnerFuses → Dev → OwnerFuses × Dev × Nat) : OwnerFuses × Dev :=
  match d.takeIn 0x60 true m with
  | (d, false) => (w, d)
  | (d, true) =>
    let r := req w d
    let code := (Config.ownerCode r.kind).toNat
    let noPres := r.pres && (!d.presence || (r.gated && d.sec.sealUnack))
    if noPres || !r.signed || !r.allowed then
      (w, ((d.ownerRefuse code noPres (!r.signed)).newChallenge).respond 0x60 m stDenied 0 [])
    else
      let d := if r.pres then d.upSec (fun s => { s with presUsed := true }) else d
      let (w, d, st) := act w d
      (w, (d.newChallenge).respond 0x60 m st 0 [])

/-- R390: a request of the table: presence as `pres` says, and an owner signature. -/
def ownerReq (v : VendorFuses) (w : OwnerFuses) (d : Dev) (kind : Nat) (args : List Nat) (pres : Bool) (s : OwnerSig) (allowed : Bool) :
    OwnerReq :=
  { kind := kind, pres := pres, gated := true, allowed := allowed,
    signed := d.ownerSigned v w (Config.ownerCode kind).toNat (Config.ownerPayload kind args) s }

/-! ### The commands of R390 -/

/-- R388, R390: enrols a key, of SHA-256 `hash`, in a free slot; without a signature while no slot is enrolled. -/
def doEnrolKey (v : VendorFuses) (w : OwnerFuses) (d : Dev) (m : Novvan) (slot hash stuck : Nat) (s : OwnerSig) : OwnerFuses × Dev :=
  ownerCommand w d { m with bad := m.bad || decide (4 ≤ slot) }
    (fun w d =>
      let r := ownerReq v w d 0 [slot, hash] true s (!bit w.enrolled.toNat slot)
      { r with signed := r.signed || w.enrolled == 0 })
    (fun w d =>
      let (x, d, ok) := d.fuse 8 (w.hash slot).toNat hash stuck
      let w := w.orHash slot (BitVec.ofNat 256 x)
      if ok && (w.hash slot).toNat == hash % 2 ^ 256 then
        ({ w with enrolled := w.enrolled ||| BitVec.ofNat 4 (2 ^ slot) }, d.raise 0xD406 slot, stOk)
      else (w, d, stChecksum))

/-- R390: revokes a slot, signed from another; refused when it would leave no unrevoked slot. -/
def doRevokeSlot (v : VendorFuses) (w : OwnerFuses) (d : Dev) (m : Novvan) (slot stuck : Nat) (s : OwnerSig) : OwnerFuses × Dev :=
  ownerCommand w d { m with bad := m.bad || decide (4 ≤ slot) }
    (fun w d =>
      let r := ownerReq v w d 1 [slot] true s ((List.range 4).any (fun i => i != slot && w.live i))
      { r with signed := r.signed && s.slot != slot })
    (fun w d =>
      let (x, d, ok) := d.fuse 1 w.revoked.toNat (2 ^ slot) stuck
      let w := { w with revoked := w.revoked ||| BitVec.ofNat 4 x }
      if ok then (w, d.raise 0xD406 (slot + 256), stOk) else (w, d, stChecksum))

/-- R394: the policy in force, kept in the settings block. -/
def Dev.setPolicy (d : Dev) (p : Nat) (m : BitVec 4) : Dev :=
  ((d.upSec (fun s => { s with policy := p, slots := m })).upFlash (fun f => { f with
    setCur := some { version := d.upd.setVer, policy := p, slots := m } })).raise 0xD408 (p + m.toNat * 16)

/-- R394: the policy in force is never weaker than the floor. -/
def Dev.raiseFloor (w : OwnerFuses) (d : Dev) : Dev :=
  if policyGe d.sec.policy d.sec.slots w.policy.toNat w.slots then d else d.setPolicy w.policy.toNat w.slots

/-- R390, R394: programs the reach table (field 0), the policy floor and its mask (1: policy in bits 1:0, mask in bits 7:4), the
confidential policy (2) or auto-lock (3). -/
def doProgramOwnerFuse (v : VendorFuses) (w : OwnerFuses) (d : Dev) (m : Novvan) (field value stuck : Nat) (s : OwnerSig) :
    OwnerFuses × Dev :=
  ownerCommand w d { m with bad := m.bad || decide (4 ≤ field) }
    (fun w d => ownerReq v w d 2 [field, value] true s true)
    (fun w d =>
      if field = 0 then
        let (x, d, ok) := d.fuse 2 w.reach.toNat value stuck
        ({ w with reach := w.reach ||| BitVec.ofNat 64 x }, d, if ok then stOk else stChecksum)
      else if field = 1 then
        let (x, d, ok) := d.fuse 1 (w.policy.toNat + w.slots.toNat * 16) (fld value 1 0 + fld value 7 4 * 16) stuck
        let w := { w with policy := w.policy ||| BitVec.ofNat 2 x, slots := w.slots ||| BitVec.ofNat 4 (x / 16) }
        (w, d.raiseFloor w, if ok then stOk else stChecksum)
      else if field = 2 then
        let (x, d, ok) := d.fuse 1 w.conf.toNat (value % 2) stuck
        ({ w with conf := w.conf ||| BitVec.ofNat 1 x }, d, if ok then stOk else stChecksum)
      else
        let (x, d, ok) := d.fuse 1 w.autoLock.toNat (value % 2) stuck
        ({ w with autoLock := w.autoLock ||| BitVec.ofNat 1 x }, d, if ok then stOk else stChecksum))

/-- R390, R394: a policy at least as strict as the one in force. -/
def doTightenPolicy (v : VendorFuses) (w : OwnerFuses) (d : Dev) (m : Novvan) (policy slots : Nat) (s : OwnerSig) : OwnerFuses × Dev :=
  ownerCommand w d { m with bad := m.bad || decide (3 ≤ policy) }
    (fun w d => ownerReq v w d 3 [policy, slots] false s (policyGe policy (BitVec.ofNat 4 slots) d.sec.policy d.sec.slots))
    (fun w d => (w, d.setPolicy policy (BitVec.ofNat 4 slots), stOk))

/-- R390, R394: a relaxation; below the floor it is refused. -/
def doRelaxPolicy (v : VendorFuses) (w : OwnerFuses) (d : Dev) (m : Novvan) (policy slots : Nat) (s : OwnerSig) : OwnerFuses × Dev :=
  ownerCommand w d { m with bad := m.bad || decide (3 ≤ policy) }
    (fun w d => ownerReq v w d 4 [policy, slots] true s (policyGe policy (BitVec.ofNat 4 slots) w.policy.toNat w.slots))
    (fun w d => (w, d.setPolicy policy (BitVec.ofNat 4 slots), stOk))

/-- R395: the debug state; each change raises 0xD407. -/
def Dev.setDebug (d : Dev) (n : Nat) : Dev :=
  if d.sec.debug = n then d else (d.upSec (fun s => { s with debug := n })).raise 0xD407 n

def doDebugUnlockOwner (v : VendorFuses) (w : OwnerFuses) (d : Dev) (m : Novvan) (s : OwnerSig) : OwnerFuses × Dev :=
  ownerCommand w d m (fun w d => ownerReq v w d 5 [] true s true) (fun w d => (w, d.setDebug 1, stOk))

/-- R395: recovery mode only, with presence and a token signed by the vendor root and bound to the unit ID. -/
def doDebugUnlockVendor (v : VendorFuses) (w : OwnerFuses) (d : Dev) (m : Novvan) (key token : Bytes) : OwnerFuses × Dev :=
  ownerCommand w d m
    (fun _ d => {
      kind := 9, pres := true, gated := false, allowed := d.upd.recovery,
      signed := sha256 key == v.root && Config.slhVerify (sha256 key) (Config.unlockToken v.unitId) token })
    (fun w d => (w, d.setDebug 2, stOk))

/-- R390, R418: the SWR L4 that follows enters the recovery ROM. -/
def doRecoveryModeEntry (v : VendorFuses) (w : OwnerFuses) (d : Dev) (m : Novvan) (s : OwnerSig) : OwnerFuses × Dev :=
  ownerCommand w d m (fun w d => ownerReq v w d 6 [] true s true) (fun w d =>
    (w, (d.upRst (fun r => { r with wantRec := decide (d.reach w 6 = 5) })).sourceActs w 6, stOk))

def doClearAuditCounters (v : VendorFuses) (w : OwnerFuses) (d : Dev) (m : Novvan) (s : OwnerSig) : OwnerFuses × Dev :=
  ownerCommand w d m (fun w d => ownerReq v w d 7 [] true s true) (fun w d =>
    (w, d.upRst (fun r => { r with audit := [], auditSat := [] }), stOk))

/-- R393: refused while the loop is still open. -/
def doAcknowledgeSealBreak (v : VendorFuses) (w : OwnerFuses) (d : Dev) (m : Novvan) (s : OwnerSig) : OwnerFuses × Dev :=
  ownerCommand w d m
    (fun w d => { ownerReq v w d 8 [] true s (!d.sec.sealOpen) with gated := false })
    (fun w d => (w, (d.upSec (fun s => { s with sealUnack := false })).raise 0xD403 d.sec.sealN, stOk))

/-! ### Presence and the seal (R392, R393) -/

/-- R392: PP_N has been low for 200 ms: one assertion for each low run. -/
def doPresenceAssertion (d : Dev) : Dev :=
  if d.sec.presRun then d
  else d.upSec (fun s => { s with ppLow := true, presRun := true, presAt := some d.now, presUsed := false })

def doPpNRelease (d : Dev) : Dev := d.upSec (fun s => { s with ppLow := false, presRun := false })

/-- R393: one check of the loop, while VBKP holds the record; the third failure in a row records a break, which voids an assertion in
progress. -/
def doSealCheck (d : Dev) (follows : Bool) : Dev :=
  if !d.rst.vbkp then d
  else if follows then d.upSec (fun s => { s with sealOpen := false, sealBad := 0 })
  else
    let n := d.sec.sealBad + 1
    let d := d.upSec (fun s => { s with sealOpen := true, sealBad := min 3 n })
    if n = 3 then
      let d := d.upSec (fun s => { s with sealUnack := true, sealN := satAdd 16 s.sealN 1, presUsed := s.presUsed || s.presRun })
      if d.rst.booted then d.raise 0xD402 d.sec.sealN else d
    else d

/-! ### Attestation (R398–R401) -/

/-- R398: an ATTEST work order: kind at operand byte 0, nonce at bytes 4–19. -/
def doAttest (d : Dev) (i : Nat) : Dev :=
  match d.take ctlQ i 0x34 with
  | some f =>
    if 5 ≤ d.sec.repQ.length then d
    else
      (d.startWork ctlQ i).upSec (fun s => { s with
        repQ := s.repQ ++ [{ kind := woOpd f.wo 0 1, nonce := slice f.wo 48 16, fence := some i, msg := none }] })
  | none => d

/-- R398: the Novvan request: its reply carries the report; a fifth to wait is answered RESOURCE_BUSY. -/
def doNovvanAttest (d : Dev) (m : Novvan) (kind : Nat) (nonce : Bytes) : Dev :=
  match d.takeIn 0x50 true { m with bad := m.bad || decide (1 < kind) } with
  | (d, false) => d
  | (d, true) =>
    if 5 ≤ d.sec.repQ.length then d.respond 0x50 m stBusy 0 []
    else d.upSec (fun s => { s with repQ := s.repQ ++ [{ kind := kind, nonce := slice nonce 0 16, fence := none, msg := some m }] })

/-- R387: the certificate chain. -/
def doCertChain (v : VendorFuses) (d : Dev) (m : Novvan) : Dev :=
  d.request 0x51 true m (fun d => (d, stOk, 0, Config.certChain v.secret v.unitId d.archivistDigest))

def popCount (w n : Nat) : Nat := (bitsOf w n).length

/-- R388: the thermometer of component `c`. -/
def OwnerFuses.thermometer (w : OwnerFuses) (c : Nat) : Nat := fld w.rollback.toNat (32 * c + 31) (32 * c)

/-- R343: the effective codes, nibble i for source i. -/
def Dev.reachCodes (w : OwnerFuses) (d : Dev) : Nat := (List.range 16).foldl (fun a i => a + d.reach w i * 16 ^ i) 0

/-- R399, R421: the staged set: 0 none, 1 receiving, 2 ready, 3 rejected. -/
def Flash.stagedState (f : Flash) : Nat :=
  let has := fun (n : Nat) => f.staged.any (fun kv => match kv.2 with | some s => s.state == n | none => false)
  if has 3 then 3 else if has 1 then 1 else if has 2 then 2 else 0

def Flash.stagedMask (f : Flash) : Nat := ofBits ((f.staged.filter (fun kv => kv.2.isSome)).map (·.1))

/-- R399: firmware entry `c`. -/
def Dev.firmwareEntry (d : Dev) (c : Nat) : Bytes :=
  let b := d.flash.folio0 d.upd.bank c
  leBytes 1 c ++ leBytes 1 d.upd.bank ++ leBytes 2 0 ++ leBytes 4 (foVersion b) ++ leBytes 4 (foRollback b) ++ leBytes 4 0 ++
    sha256Bytes (d.flash.image d.upd.bank c)

/-- R399: the pending block. -/
def Dev.pendingBlock (d : Dev) : Bytes :=
  let st := d.flash.stagedState
  match tget none d.flash.staged d.flash.folio with
  | some s =>
    leBytes 1 d.flash.stagedMask ++ leBytes 1 (if st = 3 then 0 else st) ++ leBytes 2 0 ++ leBytes 4 (popCount 128 s.bitmap.toNat) ++
      leBytes 4 (foCount s.folio0) ++ leBytes 4 0 ++ sha256Bytes s.folio0
  | none => leBytes 1 d.flash.stagedMask ++ leBytes 1 (if st = 3 then 0 else st) ++ List.replicate 46 0

/-- R399: partition entry `p`. -/
def Dev.partEntry (d : Dev) (p : Nat) : Bytes :=
  let x := d.part p
  leBytes 1 p ++ leBytes 1 (d.partCode p) ++ leBytes 1 (b2n x.conf + x.twin * 2 + b2n x.swapped * 8) ++ leBytes 1 0 ++ leBytes 2 x.gen ++
    leBytes 2 x.stackSet.toNat ++ leBytes 8 x.clusters.toNat

/-- R400: the entry and the region records of partition `p`. -/
def Dev.extendedEntry (d : Dev) (p : Nat) : Bytes :=
  let x := d.part p
  let rs := x.regions.filter (fun kv => kv.2.valid)
  leBytes 1 p ++ leBytes 1 rs.length ++ leBytes 6 0 ++ leBytes 32 x.digest ++ leBytes 32 x.swapDig ++ leBytes 32 x.patDig ++ leBytes 8 0 ++
    rs.flatMap (fun kv => leBytes 32 kv.2.digest ++ leBytes 8 kv.2.addr ++ leBytes 8 kv.2.length ++ leBytes 1 kv.1 ++
      leBytes 1 (b2n kv.2.stale) ++ leBytes 14 0)

/-- R399: bytes 12–847 of the body. -/
def Dev.reportBody (v : VendorFuses) (w : OwnerFuses) (d : Dev) (nonce : Bytes) : Bytes :=
  leBytes 4 d.sec.repSeq ++ slice nonce 0 16 ++ leBytes 16 v.unitId ++ leBytes 2 v.part ++ leBytes 1 v.step ++ leBytes 1 0 ++
    leBytes 4 (d.rte.devId + b2n d.rte.valid * 2 ^ 31) ++ leBytes 6 d.now ++ leBytes 2 0 ++
    (List.range 4).flatMap (fun i => leBytes 32 (if bit w.enrolled.toNat i then (w.hash i).toNat else 0)) ++
    leBytes 1 (w.enrolled.toNat + w.revoked.toNat * 16) ++ leBytes 1 (d.sec.policy + d.sec.slots.toNat * 16) ++ leBytes 1 w.conf.toNat ++
    leBytes 1 d.sec.debug ++ leBytes 1 (b2n (d.sec.sealN != 0) + b2n d.sec.sealUnack * 2) ++ leBytes 1 (b2n d.sec.locked) ++ leBytes 2 0 ++
    (List.range 6).flatMap (fun c => leBytes 4 (popCount 32 (w.thermometer c))) ++ leBytes 8 (d.reachCodes w) ++ leBytes 24 0 ++
    (List.range 6).flatMap d.firmwareEntry ++ d.pendingBlock ++ parts16.flatMap d.partEntry

/-- R399–R401: a report of the committed state; `delayed`: the snapshot waited for more than 1 ms. -/
def Dev.reportOf (v : VendorFuses) (w : OwnerFuses) (d : Dev) (r : RepReq) (delayed : Bool) : Bytes :=
  let ps := parts16.filter (fun p => d.partCode p == 0 || d.partCode p == 1)
  let tail := d.reportBody v w r.nonce ++ (if r.kind = 1 then ps.flatMap d.extendedEntry else [])
  let st := d.flash.stagedState
  let flags := b2n (!d.rst.refclk) + b2n (st == 1 || st == 2) * 2 + b2n delayed * 4 + b2n d.sec.sealUnack * 8
  let body := leBytes 4 0x41545452 ++ leBytes 2 1 ++ leBytes 1 r.kind ++ leBytes 1 flags ++ leBytes 4 (12 + tail.length + 17088) ++ tail
  body ++ slice (Config.slhSign (d.akSeed v) body) 0 17088

/-- R398, R402: the request being served is answered: 0xD409 with the report's sequence. -/
def doAttestReportComplete (v : VendorFuses) (w : OwnerFuses) (d : Dev) (delayed : Bool) : Dev :=
  match d.sec.repQ with
  | [] => d
  | r :: rs =>
    if !d.rst.booted then d
    else
      let bs := d.reportOf v w r delayed
      let n := d.sec.repSeq
      let d := (d.upSec (fun s => { s with repQ := rs, repSeq := (n + 1) % 2 ^ 32 })).raise 0xD409 n
      match r.fence, r.msg with
      | some i, _ => (d.upSec (fun s => { s with report := bs, repValid := true })).endWork ctlQ i stOk 0 bs.length
      | none, some m => d.respond 0x50 m stOk 0 bs
      | none, none => d

/-! ### The ARC lock (R402) -/

/-- R402: a write of 1 to ARC_LOCK by the bound host or the management port. -/
def doArcLock (d : Dev) (r : Requester) : Dev :=
  if hostOnly r || mgmtOnly r then d.upSec (fun s => { s with locked := true }) else d.accessErr

end Sys2Proof.Machine
end

