-- ==== Sys2Proof/Machine/Update.lean ====
section
/-! DEFINITION. Firmware: boot and its attempts (R414, R416, R417), READY and the commit of a trial (R349, R415), packages and folios
(R406–R411), abort and activation (R412, R413), the recovery ROM (R418). -/

namespace Sys2Proof.Machine

/-! ### Boot (R349 step 2, R413, R414, R416, R417) -/

/-- R405: the committed bank and the other one. -/
def Dev.committed (d : Dev) : Nat := d.rst.optUsed.bootBank % 2
def Dev.otherBank (d : Dev) : Nat := 1 - d.committed

/-- R413: the source of the last L4 admits an activation. -/
def Dev.admitted (d : Dev) : Bool := d.rst.l4Source == 2 || d.rst.l4Source == 4 || (d.upd.mode && d.rst.l4Source == 6)

/-- R407, R408: the key and the signature of folio 0. -/
def folioSigned (v : VendorFuses) (b : Bytes) : Bool :=
  sha256 (slice b 80 32) == v.root && Config.slhVerify (sha256 (slice b 80 32)) (slice b 0 57680) (slice b 57680 7856)

/-- R414: the Archivist image of a bank verifies against its stored folio 0; the factory's does (notes/assumptions/5). -/
def Dev.bankVerifies (v : VendorFuses) (d : Dev) (bank : Nat) : Bool :=
  match tget none d.flash.images (bank * 8) with
  | none => true
  | some i => folioSigned v i.folio0 && sha256Bytes (slice i.bytes 0 (foLength i.folio0)) == slice i.folio0 48 32

def Dev.attempt (d : Dev) (bank : Nat) : Dev := d.upFlash (fun f => { f with attempts := tup 0 f.attempts bank (· + 1) })

def Dev.attempts (d : Dev) (bank : Nat) : Nat := tget 0 d.flash.attempts bank

/-- R417: a trial that has used its attempts is rejected. -/
def Dev.rejectTrial (d : Dev) (bank : Nat) : Dev :=
  (d.upFlash (fun f => { f with
    trial := none, recTrial := false, attempts := tset 0 f.attempts bank 0,
    staged := tmap none (fun _ s => s.map (fun (x : Staged) => { x with state := 3 })) f.staged })).upUpd (fun u => { u with rejected := true })

/-- What the boot ROM comes to: a bank, and whether it is a trial; or the recovery ROM. -/
inductive Boot where
  | bank (b : Nat) (trial : Bool)
  | recovery
deriving DecidableEq, Repr

/-- R414, R417: one bank is tried: counted before loading; the third attempt falls back, an image that does not verify is not started
and the next attempt begins at once. `fuel` bounds the attempts: each counts one up, and none is made beyond three of a bank. -/
def bootRom (v : VendorFuses) : Nat → Dev → Dev × Boot
  | 0, d => (d, .recovery)
  | fuel + 1, d =>
    if d.upd.bootsel = 3 || d.rst.wantRec then (d, .recovery)
    else
      let forced := d.upd.bootsel != 0
      let (d, bank, trial) :=
        if forced then (d, d.upd.bootsel - 1, false)
        else match d.flash.trial with
          | some b => (d, b, true)
          | none =>
            if d.flash.stagedState = 2 && d.admitted then (d.upFlash (fun f => { f with trial := some d.otherBank }), d.otherBank, true)
            else (d, d.committed, false)
      let d := d.attempt bank
      if 2 < d.attempts bank then
        if forced then (d, .recovery)
        else if trial then bootRom v fuel (d.rejectTrial bank)
        else if tget false d.flash.syncOk d.otherBank then
          let o := d.otherBank
          let d := d.attempt o
          if 2 < d.attempts o then (d, .recovery)
          else if d.bankVerifies v o then (d.upUpd (fun u => { u with rejected := true }), .bank o false)
          else bootRom v fuel (d.upUpd (fun u => { u with lastFail := 1 }))
        else (d, .recovery)
      else if d.bankVerifies v bank then (d, .bank bank trial)
      else bootRom v fuel (d.upUpd (fun u => { u with lastFail := 1 }))

/-- R416: the settings block as an image of settings version `n` finds it: converted upwards, or an older copy, or defaults. -/
def Dev.settings (w : OwnerFuses) (d : Dev) (n : Nat) : Dev :=
  let use := fun (d : Dev) (p : Nat) (m : BitVec 4) =>
    let d := d.upUpd (fun u => { u with setVer := n })
    if policyGe p m w.policy.toNat w.slots then d.upSec (fun s => { s with policy := p, slots := m })
    else d.upSec (fun s => { s with policy := w.policy.toNat, slots := w.slots })
  match d.flash.setCur with
  | none => use d w.policy.toNat w.slots
  | some c =>
    if c.version = n then use d c.policy c.slots
    else if c.version < n then
      use ((d.upFlash (fun f => { f with setPrev := some c, setCur := some { c with version := n } })).raise 0xD447 (c.version + n * 2 ^ 16)) c.policy c.slots
    else match d.flash.setPrev with
      | some p =>
        if p.version = n then use d p.policy p.slots
        else use (d.raise 0xD447 (c.version + n * 2 ^ 16 + 2 ^ 47)) w.policy.toNat w.slots
      | none => use (d.raise 0xD447 (c.version + n * 2 ^ 16 + 2 ^ 47)) w.policy.toNat w.slots

/-- R349: µs from VMAIN valid. -/
def Dev.upUs (d : Dev) : Nat := (d.now - d.rst.vmainAt) / 100 % 2 ^ 32

/-- R349 steps 1 to 3, R386, R391, R418: once an L4 is released, the boot ROM chooses; the firmware starts, HEARTBEAT with it; step 3
follows where VMAIN is valid. The recovery ROM brings nothing up. -/
def doArchivistBoot (v : VendorFuses) (w : OwnerFuses) (d : Dev) : Dev :=
  if d.rst.booted || d.rst.pinHeld || !d.rst.vstby then d
  else
    let (d, b) := bootRom v 12 d
    let d := (d.upRst (fun r => { r with booted := true, wantRec := false })).upMgmt (fun m => { m with beating := true })
    let d := d.newChallenge
    match b with
    | .recovery => d.upUpd (fun u => { u with recovery := true })
    | .bank k t =>
      let d := d.upUpd (fun u => { u with bank := k, trialRun := t })
      let d := d.settings w (foSettings (d.flash.folio0 k 0))
      let d := d.upRst (fun r => { r with step := 2, bringup := tset 0 (tset 0 r.bringup 0 d.upUs) 1 d.upUs })
      let d := if d.rst.vmain then d.stepThree else d
      match d.bind with | some b => d.applyBinding b | none => d

/-! ### READY (R349 step 7, R415) -/

/-- R415 step 1: boot_bank in both copies. -/
def Dev.commitBank (d : Dev) (b : Nat) : Dev :=
  (d.upFlash (fun f => { f with
    optA := some { f.option.1 with bootBank := b }, optB := some { f.option.1 with bootBank := b } })).upRst (fun r => { r with
      optUsed := { r.optUsed with bootBank := b } })

/-- R415 step 3: fuses until the count equals the running images' rollback values. -/
def rollbackFuses (w : OwnerFuses) (d : Dev) : OwnerFuses × Dev :=
  (List.range 6).foldl (fun (a : OwnerFuses × Dev) c =>
    let (x, d, _) := a.2.fuse 1 (a.1.thermometer c) (2 ^ foRollback (a.2.flash.folio0 a.2.upd.bank c) - 1) 0
    ({ a.1 with rollback := a.1.rollback ||| BitVec.ofNat 192 (x * 2 ^ (32 * c)) }, d)) (w, d)

/-- R415, R417, R418: what the Archivist does for the running bank when it reaches READY. -/
def Dev.readyBank (w : OwnerFuses) (d : Dev) : OwnerFuses × Dev :=
  let b := d.upd.bank
  let mask := d.flash.stagedMask
  let d := if d.upd.rejected then (d.raise 0xD444 (mask + b * 256)).upUpd (fun u => { u with rejected := false }) else d
  let d := d.upFlash (fun f => { f with attempts := tset 0 f.attempts b 0 })
  if d.upd.bootsel != 0 then (w, d)
  else
    let trial := d.upd.trialRun
    let recTrial := d.flash.recTrial
    let d := if b != d.committed then d.commitBank b else d
    let d := if trial then d.upFlash (fun f => { f with trial := none, recTrial := false, staged := [], syncOk := tset false f.syncOk (1 - b) false }) else d
    let (w, d) := rollbackFuses w d
    let d := if trial then (d.raise 0xD443 mask).upUpd (fun u => { u with trialRun := false }) else d
    let d := if trial && recTrial then d.raise 0xD446 b else d
    let sync := !tget false d.flash.syncOk (1 - b) && d.flash.stagedMask == 0
    (w, d.upUpd (fun u => { u with sync := u.sync || sync }))

/-- R349: every test and every training that READY waits for is over. -/
def Dev.broughtUp (d : Dev) : Bool :=
  d.rst.booted && !d.upd.recovery && d.rst.vmain && d.rst.state != 1 && decide (4 ≤ d.rst.step) && !d.thm.hold &&
    d.cat.slots.all (fun kv => kv.2.health != 4)

/-- R349 step 7, R350, R355, R393, R402, R426: the catalogue is finalised and READY reported. -/
def doReady (w : OwnerFuses) (d : Dev) : OwnerFuses × Dev :=
  if !d.broughtUp then (w, d)
  else
    let first := tget 0 d.rst.bringup 6 == 0
    let copy := if d.flash.recA.isSome then 0 else if d.flash.recB.isSome then 1 else 2
    let d := if copy = 2 then d.raise 0xD021 1 else d
    let d := d.each (List.range 64) (fun d c => d.finalise c)
    let d := d.upRst (fun r => { r with
      state := 1, step := 7, recCopy := copy, bringup := tset 0 (tset 0 r.bringup 5 d.upUs) 6 (max 1 d.upUs) })
    let d := d.raise 0xD000 ((d.now - d.rst.vmainAt) / 100000)
    let d := if first then d.raise 0xD00C d.rst.l4Source else d
    let d := d.notify 0x100 (leBytes 1 d.rst.l4Source)
    let d := if w.autoLock = 1 then d.upSec (fun s => { s with locked := true }) else d
    let d := if d.sec.sealUnack then d.raise 0xD402 d.sec.sealN else d
    d.readyBank w

/-! ### Packages (R406–R408, R411) -/

/-- R408: the reply and the record of a refusal. -/
def Dev.updError (d : Dev) (code st : Nat) : Dev := d.upUpd (fun u => { u with errCode := code, errStat := st, errValid := true })

/-- R408, error 0x2001. -/
def folioForm (b : Bytes) : Bool :=
  let c := le b 9 1
  let fl := le b 10 2
  let z := fun o n => allZero (slice b o n)
  le b 0 4 == 0x464F4C30 && le b 4 2 == 1 && decide (c < 6) && decide (fl < 4) && (c == 0 || foSettings b == 0) && z 28 4 &&
    (bit fl 0 || z 32 16) && z 112 16 && (List.range 6).all (fun i => z (136 + 16 * i) 8) && z 224 3872 && z 8192 49488

/-- R408, error 0x2006. -/
def folioSizes (b : Bytes) : Bool :=
  let n := foCount b
  decide (1 ≤ foLength b) && decide (foLength b ≤ 8388608) && n == ceilDiv (foLength b) 65536 && decide (foRollback b ≤ 32) &&
    allZero (slice b (4096 + 32 * n) (4096 - 32 * n))

/-- R411: the versions of two components lie within each other's compat entries. -/
def compatPair (x y : Nat × Bytes) : Bool :=
  let within := fun (a b : Nat × Bytes) =>
    let o := 128 + 16 * b.1
    decide (le a.2 o 4 ≤ foVersion b.2) && decide (foVersion b.2 ≤ le a.2 (o + 4) 4)
  within x y && within y x

def compatible (l : List (Nat × Bytes)) : Bool := l.all (fun x => l.all (fun y => x.1 == y.1 || compatPair x y))

/-- R411: the resulting set with a package of component `c` added. -/
def Dev.resultSet (d : Dev) (c : Nat) (b : Bytes) : List (Nat × Bytes) :=
  (List.range 6).map (fun i => (i,
    if i = c then b
    else match tget none d.flash.staged i with | some s => s.folio0 | none => d.flash.folio0 d.committed i))

/-- R411: place in the update order 1, 2, 3, 4, 5, 0. -/
def orderOf (c : Nat) : Nat := if c = 0 then 6 else c

/-- The package now receiving: its component and what is staged of it. -/
def Dev.receiving (d : Dev) : Option (Nat × Staged) :=
  (List.range 6).findSome? (fun c => match tget none d.flash.staged c with
    | some s => if s.state = 1 then some (c, s) else none
    | none => none)

/-- R408: the first check of folio 0 that fails: error and status. -/
def Dev.folioCheck (v : VendorFuses) (w : OwnerFuses) (d : Dev) (b : Bytes) : Option (Nat × Nat) :=
  let c := le b 9 1
  if !folioForm b then some (0x2001, stMould)
  else if le b 6 2 != v.part || le b 8 1 != v.step then some (0x2002, stDenied)
  else if bit (le b 10 2) 0 && le b 32 16 != v.unitId then some (0x2003, stDenied)
  else if !folioSigned v b then some (0x2004, stDenied)
  else if foRollback b < popCount 32 (w.thermometer c) then some (0x2005, stDenied)
  else if !folioSizes b then some (0x2006, stMould)
  else if !d.upd.recovery && !compatible (d.resultSet c b) then some (0x2007, stMould)
  else if !d.upd.recovery && (List.range 6).any (fun i => orderOf c < orderOf i && (tget none d.flash.staged i).isSome) then some (0x2008, stBusy)
  else if d.receiving.isSome || (tget none d.flash.staged c).isSome || d.upd.sync then some (0x2009, stBusy)
  else none

/-- R405, R418: the bank that packages go to. -/
def Dev.stageBank (d : Dev) : Nat := if d.upd.recovery then 0 else d.otherBank

/-- R406–R408, R420: folio 0 arrives. The reply to an identical folio 0 carries the count of folios that have arrived. -/
def doFolioHeader (v : VendorFuses) (w : OwnerFuses) (d : Dev) (m : Novvan) (b : Bytes) : Dev :=
  d.request 0x70 (!d.upd.recovery) { m with bad := m.bad || b.length != 65536 } (fun d =>
    match d.receiving.filter (fun x => x.2.folio0 == b) with
    | some (_, s) => (d, stOk, 0, leBytes 2 (popCount 128 s.bitmap.toNat))
    | none =>
      let c := le b 9 1
      match d.folioCheck v w b with
      | some (e, st) => ((d.updError e st).raise 0xD441 (c + e * 2 ^ 16), st, e, [])
      | none =>
        let k := d.stageBank
        let d := d.upFlash (fun f => { f with
          images := tset none f.images (k * 8 + c) (some { folio0 := b, bytes := List.replicate (foLength b) 0 }),
          staged := tset none f.staged c (some { state := 1, folio0 := b, bitmap := 0 }), folio := c, syncOk := tset false f.syncOk k false })
        (d.raise 0xD440 c, stOk, 0, leBytes 2 0))

/-! ### Folios (R409, R410, R418) -/

/-- R409: writes folio `i` into the image of component `c`. -/
def Dev.putFolio (d : Dev) (c i : Nat) (bs : Bytes) : Dev :=
  d.upFlash (fun f => { f with
    images := tup none f.images (d.stageBank * 8 + c) (fun x => x.map (fun (y : Image) =>
      { y with bytes := (y.bytes.take ((i - 1) * 65536) ++ bs ++ y.bytes.drop (i * 65536)).take (foLength y.folio0) })),
    staged := tup none f.staged c (fun x => x.map (fun (s : Staged) => { s with bitmap := s.bitmap ||| BitVec.ofNat 128 (2 ^ (i - 1)) })) })

/-- R409: the hash of data folio `i` that folio 0 gives. -/
def folioHash (b : Bytes) (i : Nat) : Bytes := slice b (4096 + 32 * (i - 1)) 32

/-- R418: in recovery, six complete and compatible packages boot bank A as a trial. -/
def Dev.recoveryDone (w : OwnerFuses) (d : Dev) : Dev :=
  let l := (List.range 6).filterMap (fun c => match tget none d.flash.staged c with
    | some s => if s.state = 2 then some (c, s.folio0) else none
    | none => none)
  if d.upd.recovery && l.length == 6 && compatible l then
    (d.upFlash (fun f => { f with trial := some 0, recTrial := true, attempts := tset 0 f.attempts 0 0 })).sourceActs w 6
  else d

/-- R410: once every bit is set, the whole image is hashed. -/
def Dev.packageCheck (w : OwnerFuses) (d : Dev) (c : Nat) : Dev :=
  match tget none d.flash.staged c, tget none d.flash.images (d.stageBank * 8 + c) with
  | some s, some x =>
    let n := foCount s.folio0
    if popCount 128 s.bitmap.toNat < n then d
    else if sha256Bytes x.bytes = slice s.folio0 48 32 then
      ((d.upFlash (fun f => { f with staged := tset none f.staged c (some { s with state := 2 }) })).raise 0xD442 c).recoveryDone w
    else
      let keep := (bitsOf 128 s.bitmap.toNat).filter (fun j => sha256Bytes (slice x.bytes (j * 65536) 65536) == folioHash s.folio0 (j + 1))
      d.upFlash (fun f => { f with staged := tset none f.staged c (some { s with bitmap := BitVec.ofNat 128 (ofBits keep) }) })
  | _, _ => d

/-- R409: a refused folio is counted. -/
def Dev.folioRefuse (d : Dev) (e st : Nat) : Dev × Nat × Nat × Bytes :=
  (((d.updError e st).upUpd (fun u => { u with refused := satAdd 16 u.refused 1 })), st, e, [])

/-- R406, R409: data folio `i` of the package `ident`; `stuck`: the read-back differed after three writes. -/
def doFolioData (w : OwnerFuses) (d : Dev) (m : Novvan) (ident i : Nat) (bs : Bytes) (stuck : Bool) : Dev :=
  d.request 0x70 (!d.upd.recovery) { m with bad := m.bad || bs.length != 65536 } (fun d =>
    match d.receiving with
    | none => d.folioRefuse 0x200A stMould
    | some (c, s) =>
      if le (sha256Bytes s.folio0) 0 16 != ident || i = 0 || foCount s.folio0 < i then d.folioRefuse 0x200A stMould
      else if sha256Bytes bs != folioHash s.folio0 i then d.folioRefuse 0x200B stChecksum
      else if bit s.bitmap.toNat (i - 1) then (d.upUpd (fun u => { u with dups := satAdd 16 u.dups 1 }), stOk, 0, [])
      else if stuck then d.folioRefuse 0x200C stUe
      else (((d.putFolio c i bs).packageCheck w c), stOk, 0, []))

/-! ### Abort, activation, synchronisation (R412, R413, R415) -/

/-- An update command, by UPD_CMD or by Novvan. -/
def Dev.updCommand (d : Dev) (via : Via) (f : Dev → Dev × Nat) : Dev :=
  match via with
  | .register r => if hostOnly r || mgmtOnly r then (f d).1 else d.accessErr
  | .message m => d.request 0x71 true m (fun d => ((f d).1, (f d).2, 0, []))

/-- R412. -/
def Dev.abortUpdate (d : Dev) : Dev :=
  let mask := d.flash.stagedMask
  ((d.upFlash (fun f => { f with staged := [], syncOk := tset false f.syncOk d.stageBank false })).upUpd (fun u => { u with
    sync := u.sync || !u.recovery })).raise 0xD448 mask

def doUpdateAbort (d : Dev) (via : Via) : Dev := d.updCommand via (fun d => (d.abortUpdate, stOk))

/-- R413: an SWR L4, refused unless the packages are ready. -/
def doUpdateActivate (w : OwnerFuses) (d : Dev) (via : Via) : Dev :=
  d.updCommand via (fun d => if d.flash.stagedState = 2 then (d.sourceActs w 6, stOk) else (d, stBusy))

/-- R415 step 5: every committed image, with its folio 0, is in the other bank. -/
def doBankSyncComplete (d : Dev) : Dev :=
  if !d.upd.sync then d
  else
    let o := d.otherBank
    ((d.upFlash (fun f => { f with
      images := (List.range 6).foldl (fun t c => tset none t (o * 8 + c) (tget none f.images (d.committed * 8 + c))) f.images,
      syncOk := tset false f.syncOk o true })).upUpd (fun u => { u with sync := false })).raise 0xD445 o

end Sys2Proof.Machine
end

