-- ==== Sys2Proof/Machine/Management.lean ====
section
/-! DEFINITION. The tray controller's Novvan commands and the tray signals (R426–R433), and VMAIN's removal and return. -/

namespace Sys2Proof.Machine

/-! ### Register values that replies carry -/

/-- R359: RST_STATE. -/
def Dev.rstState (d : Dev) : Nat :=
  let bad := d.cat.ladleFail != 0 || d.cat.nmuFail != 0 || (List.range 16).any (fun s => (d.stack s).state == 4)
  d.rst.state + d.rst.step * 2 ^ 4 + b2n bad * 2 ^ 7 + d.rst.forced * 2 ^ 16

/-- R321: PWR_CAP_STATUS. -/
def Dev.capStatusReg (d : Dev) : Nat :=
  d.pwr.eff % 2 ^ 16 + d.pwr.effSrc * 2 ^ 16 + b2n d.pwr.unatt * 2 ^ 20 + b2n d.pwr.mFault * 2 ^ 21 + d.pwr.lastStat * 2 ^ 24

/-! ### Keepalive (R428, R429) -/

/-- R429: READY and one PART_STATE for every partition. -/
def Dev.reportAll (d : Dev) : Dev :=
  let d := if d.rst.state = 1 then d.notify 0x100 (leBytes 1 d.rst.l4Source) else d
  d.each parts16 (fun d p => d.notifyPart p)

/-- R428, R429: a valid KEEPALIVE of controller generation `gen`. -/
def doKeepalive (d : Dev) (m : Novvan) (gen : Nat) : Dev :=
  d.request 0x01 false m (fun d =>
    let fresh := d.mgmt.keepAt.isSome && d.mgmt.gen != gen % 2 ^ 32
    let was := d.mgmt.orphan
    let d := d.upMgmt (fun x => { x with keepEid := some m.eid, keepAt := some d.now, gen := gen % 2 ^ 32, orphan := false })
    let d := if was then (d.raiseAny 0xD481).recool else d
    let d := if fresh then (d.raiseAny 0xD482).reportAll else d
    (d, stOk, 0, leBytes 4 d.rstState ++ leBytes 4 d.capStatusReg))

/-- R428: 30 s without a KEEPALIVE. -/
def doOrphanTimeout (d : Dev) : Dev :=
  if d.mgmt.orphan then d else ((d.upMgmt (fun x => { x with orphan := true })).raiseAny 0xD480).recool

/-! ### Tray readings, binding, option block, subscription (R273, R328, R346, R430) -/

def doTraySensors (d : Dev) (m : Novvan) (inlet outlet : Int) (flow : Nat) : Dev :=
  d.request 0x02 false m (fun d => (d.traySensors inlet outlet (flow % 65536), stOk, 0, []))

/-- R273: one to four addresses, a port and the host's queue pair. -/
def doBind (d : Dev) (m : Novvan) (addrs : List Nat) (port qpn : Nat) : Dev :=
  d.request 0x20 false { m with bad := m.bad || addrs.isEmpty || decide (4 < addrs.length) || decide (4 ≤ port) } (fun d =>
    (d.applyBinding { addrs := addrs, port := port, qpn := qpn % 2 ^ 24, gen := match d.bind with | some b => b.gen | none => 0 }, stOk, 0, []))

/-- R346, R347: the block that a copy of these 4,096 bytes holds; none when its magic or CRC-32C fails. -/
def optionOf (b : Bytes) : Option OptBlock :=
  if le b 0 4 == 0x4F505442 && le b 4092 4 == crc32c (slice b 0 4092) then
    some {
      version := le b 4 2, bootBank := le b 6 1 % 2, thermal := le b 7 1 % 4, c := le b 8 1, d := le b 9 1, orphan := le b 10 2,
      fabEn := le b 12 4 % 2 ^ 18, hostEn := le b 16 1 % 16, hostSp := le b 17 1, hostMed := le b 18 1 % 16, override := le b 20 8,
      fabLanes := (slice b 64 144).map (·.toNat), hostLanes := (slice b 208 16).map (·.toNat) }
  else none

/-- R346, R426: both copies are written; refused while the ARC lock is set. -/
def doOptionWrite (d : Dev) (m : Novvan) (b : Bytes) : Dev :=
  d.request 0x21 false { m with bad := m.bad || b.length != 4096 } (fun d =>
    if d.sec.locked then (d, stDenied, 0, [])
    else (d.upFlash (fun f => { f with optA := optionOf b, optB := optionOf b }), stOk, 0, []))

def doSubscribe (d : Dev) (m : Novvan) (mask : BitVec 256) : Dev :=
  d.request 0x22 false m (fun d => (d.upMgmt (fun x => { x with subs := mask }), stOk, 0, []))

/-! ### Reset, recovery, cap (R304, R342, R369) -/

/-- R342, R343, R359, R426: the Novvan reset, in the layout of RST_CMD; above the reach of MGMT it is refused. -/
def doNovvanReset (w : OwnerFuses) (d : Dev) (m : Novvan) (level part target : Nat) (retrain : Bool) : Dev :=
  d.request 0x30 false m (fun d =>
    if 3 < level || (level = 1 && 63 < target) || (level = 0 && 1023 < target) || 15 < part then (d, stOk, 0, [])
    else (d.rstCmd w 1 level part target retrain, if d.reach w 1 ≤ level then stDenied else stOk, 0, []))

/-- R369, R426: as RST_RECOVER_CMD. -/
def doRecover (d : Dev) (m : Novvan) (mask : Nat) : Dev :=
  d.request 0x31 false m (fun d => (d.recoverMask (mask % 65536), stOk, 0, []))

/-- R304, R426. -/
def doCapSet (d : Dev) (m : Novvan) (w : Nat) : Dev :=
  d.request 0x40 false m (fun d => (d.capCommand true (w % 65536), capStatus (w % 65536), 0, []))

/-! ### EVENTS (R430) -/

/-- R430: up to 16 copied records, at most every 100 ms. -/
def doEvents (d : Dev) : Dev :=
  let due := match d.mgmt.evAt with | some t => decide (t + 10000000 ≤ d.now) | none => true
  let l := d.mgmt.copied.take 16
  if l = [] || !due || !d.rst.booted then d
  else
    (d.upMgmt (fun m => { m with copied := m.copied.drop 16, unans := m.unans + l.length, evAt := some d.now })).notify 0x104
      (l.flatMap EvRec.bytes)

/-! ### Signals (R431) -/

/-- R431: the straps as sampled: SLOT_A (bits 2:0), TRAY_B (5:3), BOOTSEL (7:6), GANG_MASTER_EN (8). -/
def doStrapSample (d : Dev) (straps : Nat) : Dev :=
  if straps % 512 = d.mgmt.straps then d else (d.upMgmt (fun m => { m with straps := straps % 512 })).raiseAny 0xD483

/-- R431: HEARTBEAT toggles while the firmware, or the recovery ROM, runs. -/
def doHeartbeat (d : Dev) : Dev := if d.mgmt.beating then d.upMgmt (fun m => { m with beat := !m.beat }) else d

/-! ### VMAIN (R31, R342, R433) -/

/-- R433: a notice of isolation: cause 0 over-current, 1 on request, 2 operator. -/
def doIsolateNotice (d : Dev) (m : Novvan) (cause : Nat) : Dev :=
  d.request 0x03 false { m with bad := m.bad || decide (2 < cause) } (fun d =>
    let late := match d.mgmt.lossAt with | some t => decide (d.now ≤ t + 100000000) | none => false
    if late then (d.upMgmt (fun x => { x with lossExp := true, lossWhy := cause + 1, lossAt := none }), stOk, 0, [])
    else if d.rst.vmain then (d.upMgmt (fun x => { x with notice := some (d.now, cause) }), stOk, 0, [])
    else (d, stOk, 0, []))

/-- R433: a notice kept for 10 s while VMAIN is present. -/
def doIsolateNoticeExpiry (d : Dev) : Dev := if d.rst.vmain then d.upMgmt (fun m => { m with notice := none }) else d

/-- R433: the record of a loss. -/
def Dev.logLoss (d : Dev) : Dev :=
  d.upMgmt (fun m => { m with
    lossP := d.pwr.power, lossCap := d.pwr.eff, lossExp := m.vmHold.isSome || m.notice.isSome,
    lossWhy := match m.notice, m.vmHold with | some (_, c), _ => c + 1 | none, some h => h + 4 | none, none => 0
    lossN := satAdd 16 m.lossN 1, lossAt := if m.vmHold.isSome || m.notice.isSome then none else some d.now, notice := none,
    notes := m.notes.filter (fun n => n.cmd != 0x102) })

/-- R31: without VMAIN every partition is unpoured, the ports are down, and the memories are lost. -/
def Dev.powerDown (d : Dev) : Dev :=
  let en := fun (p : Nat) => (d.port p).enable
  let d := d.resetShell
  let d := d.upRst (fun r => { r with vmain := false, lostV := true, state := 0, step := min r.step 2, ops := r.ops.filter (fun o => o.level == 4) })
  let d := d.each (List.range 18) (fun d p => d.upPort p (fun x => { x with state := if en p then 4 else 0 }))
  let d := d.each (List.range 4) (fun d p => d.upHPort p (fun x => { x with state := if x.enable then 3 else 0 }))
  d.upPwr (fun p => { p with quads := tmap PQuad.init (fun _ q => { q with setpoint := 0, droop := false, pulse := false, duty := 0, est := 0 }) p.quads })

/-- R433: VMAIN below 10.2 V for 10 µs. -/
def doVmainLoss (d : Dev) : Dev := if d.rst.vmain then ((d.logLoss).powerDown).raiseAny 0xD484 else d

/-- R334, R342, R349, R431, R433, R438: VMAIN is valid: bring-up goes on, or, after a loss, source VMN performs L3. -/
def doVmainRestore (w : OwnerFuses) (d : Dev) : Dev :=
  if d.rst.vmain then d
  else
    let d := d.upRst (fun r => { r with vmain := true, vmainAt := d.now })
    if !d.rst.vstby then d
    else
      let d := (d.upMgmt (fun m => { m with vmHold := none })).upThm (fun t => { t with vmReq := false, noLeave := false, cycled := t.cycled || t.tripped })
      if d.rst.lostV then ((d.upRst (fun r => { r with lostV := false })).sourceActs w 11).raiseAny 0xD485
      else if d.rst.booted && !d.upd.recovery then d.stepThree
      else d

end Sys2Proof.Machine
end

