-- ==== Sys2Proof/Machine/RegRow.lean ====
section
/-! DEFINITION. What a row of a register map says (R10–R19): where it stands, how wide it is, who may write it, what it reads as and
what a write does. The rows themselves stand in RegsCell.lean, RegsWork.lean, RegsFabric.lean, RegsPower.lean and RegsShell.lean;
the accesses in Registers.lean. -/

namespace Sys2Proof.Machine

/-- R17: whom a map names for the writes of a register. -/
inductive Who where
  | anyone
  | host        -- the bound host only
  | mgmt        -- the management port only
  | either      -- the bound host or the management port
  | archivist   -- the Archivist only
  | notMgmt     -- R111: every requester but the management port
deriving DecidableEq, Repr

/-- What a register's value and the effect of writing it depend on. -/
structure RegCtx where
  v : VendorFuses
  w : OwnerFuses
  d : Dev
  r : Requester

/-- A register, or an array of `count` registers `stride` bytes apart, of `words` 32-bit words each. `rd` gives the whole register's
value; `wr` takes the index, the value committed, and the words that the write named. -/
structure RegRow where
  base   : Nat
  stride : Nat
  count  : Nat
  words  : Nat
  who    : Who
  lock   : Bool
  ok     : Nat → Bool
  rd     : RegCtx → Nat → Nat
  wr     : RegCtx → Nat → Nat → List Nat → Dev

/-- R17: whether a requester may write. JTAG in OWNER has the management port's rights, JTAG in VENDOR everyone's, and the Archivist
writes every field that is not RO. -/
def Who.may (x : Who) (r : Requester) : Bool :=
  match x with
  | .anyone => true
  | .host => hostOnly r
  | .mgmt => mgmtOnly r
  | .either => hostOnly r || mgmtOnly r
  | .archivist => r == .archivist || r == .jtagVendor
  | .notMgmt => perfWriter r

/-- R396: a requester that learns nothing of a confidential partition's counts. -/
def outsider (r : Requester) : Bool := r == .mgmt || r == .jtagOwner || r == .jtagVendor

/-- R396: whether partition `p` hides its counts from the requester. -/
def RegCtx.hidden (c : RegCtx) (p : Nat) : Bool := outsider c.r && (c.d.part p).conf

/-- Fields laid out: (lowest bit, width, value). -/
def pack (l : List (Nat × Nat × Nat)) : Nat := l.foldl (fun a x => a + x.2.2 % 2 ^ x.2.1 * 2 ^ x.1) 0

/-- A read-only row of one register. -/
def ro1 (base words : Nat) (rd : RegCtx → Nat) : RegRow :=
  { base := base, stride := 4 * words, count := 1, words := words, who := .anyone, lock := false, ok := fun _ => true,
    rd := fun c _ => rd c, wr := fun c _ _ _ => c.d }

/-- A read-only row of an array. -/
def roN (base stride count words : Nat) (rd : RegCtx → Nat → Nat) : RegRow :=
  { base := base, stride := stride, count := count, words := words, who := .anyone, lock := false, ok := fun _ => true,
    rd := rd, wr := fun c _ _ _ => c.d }

/-- A writable 32-bit register. -/
def rw1 (base : Nat) (who : Who) (rd : RegCtx → Nat) (wr : RegCtx → Nat → Dev) : RegRow :=
  { base := base, stride := 4, count := 1, words := 1, who := who, lock := false, ok := fun _ => true,
    rd := fun c _ => rd c, wr := fun c _ v _ => wr c v }

/-- A writable array of 32-bit registers. -/
def rwN (base stride count : Nat) (who : Who) (rd : RegCtx → Nat → Nat) (wr : RegCtx → Nat → Nat → Dev) : RegRow :=
  { base := base, stride := stride, count := count, words := 1, who := who, lock := false, ok := fun _ => true,
    rd := rd, wr := fun c i v _ => wr c i v }

/-- A writable array of wider registers. -/
def rwW (base stride count words : Nat) (who : Who) (rd : RegCtx → Nat → Nat) (wr : RegCtx → Nat → Nat → List Nat → Dev) : RegRow :=
  { base := base, stride := stride, count := count, words := words, who := who, lock := false, ok := fun _ => true, rd := rd, wr := wr }

/-- R10: a block's window. -/
def winARC : Nat := 0x000000
def winRST : Nat := 0x100000
def winPWR : Nat := 0x200000
def winTHM : Nat := 0x300000
def winEVC : Nat := 0x400000
def winMLD : Nat := 0x500000
def winQUE : Nat := 0x600000
def winSYN : Nat := 0x700000
def winLDL : Nat := 0x800000
def winLNK : Nat := 0x900000
def winRTE : Nat := 0xA00000
def winMEM : Nat := 0xB00000
def winHST : Nat := 0xC00000
def winSEC : Nat := 0xD00000
def winUPD : Nat := 0xE00000
def winCAT : Nat := 0xF00000

/-- R12: an RW1C bit: written 1 it clears. -/
def w1c (old : Bool) (v i : Nat) : Bool := old && !bit v i

end Sys2Proof.Machine
end

