-- ==== Sys2Proof/Machine/RegsCell.lean ====
section
/-! DEFINITION. The register maps of the CAT window (R108, R111, R360) and the MLD window (R143). -/

namespace Sys2Proof.Machine

/-- R110: one word of a trace entry. -/
def traceWord (t : Option TraceEnt) (w : Nat) : Nat :=
  match t with
  | none => 0
  | some t => pack [(0, 8, t.kind), (8, 4, t.part), (12, 2, t.quad), (32, 48, t.ts), (80, 48, t.payload)] / 2 ^ (32 * w) % 2 ^ 32

/-- R96: CAT_LEDGER_CLEAR. -/
def ledgerClear (d : Dev) (v : Nat) : Dev :=
  d.upPart (fld v 3 0) (fun p =>
    let p := if bit v 8 then { p with sat := 0, satOvf := false } else p
    let p := if bit v 9 then { p with nan := 0, nanOvf := false } else p
    let p := if bit v 10 then { p with inv := 0, invOvf := false } else p
    let p := if bit v 11 then { p with residue := 0, resOvf := false } else p
    if bit v 12 then { p with trips := 0 } else p)

/-- R111: CAT_TRACE_CTL: a sample beyond 20 leaves the field; a new enable starts a new record of wrapping. -/
def traceCtl (d : Dev) (v : Nat) : Dev :=
  d.upCat (fun c => { c with
    trWrapped := c.trWrapped && (c.trEnable || !bit v 0),
    trEnable := bit v 0, trStop := bit v 1,
    trSample := if fld v 6 2 ≤ 20 then fld v 6 2 else c.trSample, trParts := BitVec.ofNat 16 (v / 65536) })

/-- R108, R396: whether the cell's registers are closed to JTAG. -/
def RegCtx.cellShut (c : RegCtx) (n : Nat) : Bool := (c.r == .jtagOwner || c.r == .jtagVendor) && c.d.cellConf n

def regsCat : List RegRow :=
  [ ro1 (winCAT + 0x0000) 1 (fun _ => pack [(0, 7, 64), (8, 5, 17)]),
    rw1 (winCAT + 0x0010) .anyone (fun c => pack [(0, 11, c.d.cat.testMin), (16, 16, c.d.cat.rounds)])
      (fun c v => if fld v 10 0 ≤ 1440 then c.d.upCat (fun x => { x with testMin := fld v 10 0 }) else c.d),
    rw1 (winCAT + 0x0020) .either (fun _ => 0) (fun c v => doCatSuspect c.d c.r (fld v 9 0)),
    rw1 (winCAT + 0x0024) .mgmt (fun _ => 0) (fun c v => if slotIx (fld v 10 0) then doCatSlotClear c.d c.r (fld v 10 0) else c.d),
    ro1 (winCAT + 0x0030) 1 (fun c => pack [(0, 4, c.d.cat.ladleFail.toNat), (16, 16, c.d.cat.nmuFail.toNat)]),
    roN (winCAT + 0x0100) 4 64 1 (fun c k => pack [(0, 5, tget 16 c.d.cat.spareFor k), (5, 1, b2n (c.d.short k)),
      (6, 1, b2n (c.d.cat.pendingC.contains k)),
      (16, 16, ofBits ((List.range 16).filter (fun j => (c.d.slotOf (k * 16 + j)).isNone)))]),
    { roN (winCAT + 0x1000) 4 2048 1 (fun c k =>
        let s := c.d.slot k
        pack [(0, 3, s.health), (4, 4, ((c.d.cellOf k).map (· % 16)).getD 0), (8, 1, b2n (c.d.cellOf k).isSome), (9, 3, s.cause),
          (16, 12, s.tests), (31, 1, b2n s.lastPass)]) with ok := slotIx } ]

def regsLedger : List RegRow :=
  [ ro1 (winCAT + 0x80000) 1 (fun c => pack [(0, 16, c.d.cat.arithMin), (16, 16, c.d.cat.arithMaj)]),
    rw1 (winCAT + 0x80010) .anyone (fun _ => 0) (fun c v => ledgerClear c.d v),
    roN (winCAT + 0x80100) 4 4 1 (fun c q => pack [(0, 16, tget 0 c.d.cat.quadRate q), (16, 1, b2n (c.d.pquad q).pulse),
      (17, 1, b2n (c.d.pwr.governed && !c.d.pwr.lostGov))]),
    roN (winCAT + 0x80110) 4 4 1 (fun c q => tget 0 c.d.cat.carrelCe q),
    roN (winCAT + 0x80120) 4 4 1 (fun c q => tget 0 c.d.cat.carrelUe q),
    roN (winCAT + 0x81000) 0x40 16 2 (fun c p => if c.hidden p then 0 else (c.d.part p).sat),
    roN (winCAT + 0x81008) 0x40 16 2 (fun c p => if c.hidden p then 0 else (c.d.part p).nan),
    roN (winCAT + 0x81010) 0x40 16 2 (fun c p => if c.hidden p then 0 else (c.d.part p).inv),
    roN (winCAT + 0x81018) 0x40 16 1 (fun c p => if c.hidden p then 0 else (c.d.part p).residue),
    rwN (winCAT + 0x8101C) 0x40 16 .anyone
      (fun c p =>
        let x := c.d.part p
        if c.hidden p then 0
        else pack [(0, 1, b2n x.satOvf), (1, 1, b2n x.nanOvf), (2, 1, b2n x.invOvf), (3, 1, b2n x.resOvf), (16, 16, x.trips)])
      (fun c p v => c.d.upPart p (fun x => { x with
        satOvf := w1c x.satOvf v 0, nanOvf := w1c x.nanOvf v 1, invOvf := w1c x.invOvf v 2, resOvf := w1c x.resOvf v 3 })),
    roN (winCAT + 0x84000) 4 1024 1 (fun c n => if c.cellShut n then 0 else c.d.cellStateReg n),
    rwN (winCAT + 0x85000) 4 1024 .anyone (fun c n => if c.cellShut n then 0 else c.d.cellFaultReg n)
      (fun c n v => if c.cellShut n then c.d else c.d.upCat (fun x => { x with
        faults := tup CellFault.init x.faults n (fun f => { f with valid := w1c f.valid v 31 }) })) ]

/-- R111: the management port reads these as zero. -/
def regsPerf : List RegRow :=
  [ rw1 (winCAT + 0x90000) .notMgmt (fun c => if perfWriter c.r then b2n c.d.cat.freeze else 0)
      (fun c v =>
        let d := doPerfFreeze c.d c.r (bit v 0)
        if bit v 1 then d.perfClearPart (fld v 7 4) else d),
    rw1 (winCAT + 0x90010) .notMgmt
      (fun c => if perfWriter c.r then pack [(0, 1, b2n c.d.cat.trEnable), (1, 1, b2n c.d.cat.trStop), (2, 5, c.d.cat.trSample),
        (16, 16, c.d.cat.trParts.toNat)] else 0)
      (fun c v => traceCtl c.d v),
    { ro1 (winCAT + 0x90014) 1 (fun c =>
        if perfWriter c.r then pack [(0, 12, c.d.cat.trWrite), (12, 1, b2n (c.d.cat.trStop && trUsed c.d.cat == 4095)),
          (13, 1, b2n c.d.cat.trWrapped), (16, 16, c.d.cat.trLost)] else 0) with who := .notMgmt },
    rw1 (winCAT + 0x90018) .notMgmt (fun c => if perfWriter c.r then c.d.cat.trRead else 0)
      (fun c v => doTraceReadAdvance c.d c.r (fld v 11 0)),
    { roN (winCAT + 0xA0000) 8 8192 2 (fun c k =>
        if perfWriter c.r && !c.d.cellConf (k / 8) then tget 0 c.d.cat.perf k else 0) with who := .notMgmt },
    { roN (winCAT + 0xC0000) 4 16384 1 (fun c k =>
        if perfWriter c.r then traceWord (tget none c.d.cat.trBuf (k / 4)) (k % 4) else 0) with who := .notMgmt } ]

def regsMld : List RegRow :=
  [ ro1 (winMLD + 0x0000) 1 (fun _ => pack [(0, 8, 0), (8, 8, 1), (16, 16, 128)]),
    ro1 (winMLD + 0x0004) 1 (fun c => pack [(0, 3, c.d.mld.phase), (3, 1, b2n c.d.mld.twinWait), (4, 16, c.d.mld.targets.toNat),
      (20, 8, c.d.mld.lastStat)]),
    rw1 (winMLD + 0x0008) .anyone (fun c => pack [(0, 16, c.d.mld.errCode), (16, 8, c.d.mld.errSect), (31, 1, b2n c.d.mld.errValid)])
      (fun c v => c.d.upMld (fun m => { m with errValid := w1c m.errValid v 31 })),
    ro1 (winMLD + 0x000C) 1 (fun c => c.d.mld.errIndex),
    ro1 (winMLD + 0x0010) 1 (fun c => pack [(0, 2, c.d.sec.policy), (4, 4, c.d.sec.slots.toNat)]),
    ro1 (winMLD + 0x0020) 2 (fun c => c.d.mld.pours),
    ro1 (winMLD + 0x0028) 1 (fun c => c.d.mld.fails),
    ro1 (winMLD + 0x002C) 1 (fun c => c.d.mld.lastTime),
    roN (winMLD + 0x0100) 4 16 1 (fun c p =>
      let x := c.d.part p
      pack [(0, 3, x.state), (3, 1, b2n x.conf), (4, 2, x.twin), (6, 1, b2n x.swapped), (16, 16, x.gen)]),
    roN (winMLD + 0x1000) 0x40 16 8 (fun c p => (c.d.part p).digest),
    roN (winMLD + 0x1020) 0x40 16 8 (fun c p => (c.d.part p).swapDig),
    roN (winMLD + 0x2000) 0x10 16 2 (fun c p => (c.d.part p).clusters.toNat),
    roN (winMLD + 0x2008) 0x10 16 1 (fun c p =>
      let x := c.d.part p
      pack [(0, 16, x.stackSet.toNat), (16, 10, (x.pages.filter (fun kv => decide (shelfBase / 0x200000 ≤ kv.1) && kv.2.isSome)).length)]) ]

end Sys2Proof.Machine
end

