-- ==== Sys2Proof/Machine/RegsFabric.lean ====
section
/-! DEFINITION. The register maps of the LNK window (R215), of RTE (R245), LDL (R270) and HST (R287). -/

namespace Sys2Proof.Machine

/-! ### LNK -/

/-- R215: LNK_CTL: the held lanes, then the enable, then a retrain. -/
def lnkCtl (d : Dev) (p v : Nat) : Dev :=
  let d := d.upPort p (fun x => { x with laneHold := BitVec.ofNat 8 (v / 256) })
  let d := if (d.port p).enable == bit v 0 then d else (doLinkEnable d p (bit v 0)).noteTrained
  if bit v 1 then doLinkRetrain d p else d

def lnk (off words : Nat) (rd : Port → Nat) : RegRow := roN (winLNK + 0x1000 + off) 0x100 18 words (fun c p => rd (c.d.port p))

def regsLnk : List RegRow :=
  [ ro1 winLNK 1 (fun _ => pack [(0, 5, 18), (8, 4, 8), (16, 11, 1024)]),
    rwN (winLNK + 0x1000) 0x100 18 .anyone (fun c p => pack [(0, 1, b2n (c.d.port p).enable), (8, 8, (c.d.port p).laneHold.toNat)])
      (fun c p v => lnkCtl c.d p v),
    lnk 0x04 1 (fun x => pack [(0, 3, x.state), (8, 8, x.txMask.toNat), (16, 8, x.rxMask.toNat), (24, 1, b2n (x.xoffIn != 0))]),
    lnk 0x08 1 (fun x => pack [(0, 20, x.partner), (20, 5, x.partPort), (30, 1, b2n x.partMast), (31, 1, b2n x.partVal)]),
    rwN (winLNK + 0x100C) 0x100 18 .anyone (fun c p => pack [(0, 8, (c.d.port p).failed.toNat), (8, 8, (c.d.port p).marker.toNat)])
      (fun c p v => c.d.upPort p (fun x => { x with
        failed := x.failed &&& ~~~ BitVec.ofNat 8 v, marker := x.marker &&& ~~~ BitVec.ofNat 8 (v / 256) })),
    lnk 0x10 1 (·.replays), lnk 0x18 2 (·.fecCe), lnk 0x20 1 (·.fecUe), lnk 0x24 1 (·.crcErr), lnk 0x28 1 (·.lostFl),
    lnk 0x2C 1 (·.partialRx), lnk 0x30 1 (fun x => pack [(0, 16, x.losses), (16, 16, x.degrades)]),
    rwN (winLNK + 0x1034) 0x100 18 .anyone
      (fun c p => pack [(0, 11, ((c.d.port p).retry.filter (fun f => !f.acked)).length), (16, 11, (c.d.port p).peak)])
      (fun c p v => if fld v 26 16 = 0 then c.d else c.d.upPort p (fun x => { x with peak := 0 })) ]

/-! ### RTE -/

/-- R237–R239: RTE_FABRIC_CMD. -/
def fabricCmd (d : Dev) (v : Nat) : Dev :=
  if fld v 17 16 = 1 then doDrain d (fld v 15 0) else if fld v 17 16 = 2 then doResume d (fld v 15 0) else d

/-- R237: a protected register reads what it was last written: the pending copy. -/
def prot1 (off words : Nat) (rd : Prot → Nat) : RegRow :=
  rwW (winRTE + off) (4 * words) 1 words .anyone (fun c _ => rd c.d.rte.pend) (fun c _ v _ => doProtectedRegisterWrite c.d off v)

def brkReg (b : Nat × Nat × Bool) : Nat := pack [(0, 7, b.1), (8, 7, b.2.1), (31, 1, b2n b.2.2)]

/-- R245: entry `i` of the runner table, in the table's order. -/
def runnerReg (d : Dev) (i : Nat) : Nat :=
  match d.rte.runners[i]? with
  | some (_, some r) => pack [(0, 3, r.state), (3, 1, b2n r.loc), (4, 20, r.src), (24, 16, r.runner), (40, 5, r.egress), (45, 8, r.share)]
  | _ => 0

def regsRte : List RegRow :=
  [ ro1 (winRTE + 0x00) 1 (fun _ => pack [(0, 17, 65536), (18, 14, 4096)]),
    ro1 (winRTE + 0x04) 1 (fun c => pack [(0, 20, c.d.rte.devId), (30, 1, b2n c.d.rte.eligible), (31, 1, b2n c.d.rte.valid)]),
    rw1 (winRTE + 0x10) .anyone (fun _ => 0) (fun c v => fabricCmd c.d v),
    ro1 (winRTE + 0x14) 1 (fun c => pack [(0, 16, c.d.rte.epoch), (16, 3, c.d.rte.fstate), (24, 8, c.d.rte.frefused)]),
    rw1 (winRTE + 0x18) .anyone (fun c => c.d.rte.drainMs)
      (fun c v => if fld v 15 0 = 0 then c.d else c.d.upRte (fun r => { r with drainMs := fld v 15 0 })),
    prot1 0x20 1 (fun p => p.mask.toNat),
    prot1 0x24 1 (fun p => brkReg p.brkC),
    prot1 0x28 1 (fun p => brkReg p.brkD),
    prot1 0x2C 1 (fun p => pack [(0, 8, p.detA.toNat), (8, 8, p.detB.toNat)]),
    prot1 0x30 2 (fun p => p.healthA.toNat),
    prot1 0x38 2 (fun p => p.healthB.toNat),
    ro1 (winRTE + 0x40) 1 (fun c =>
      let r := c.d.rte
      pack [(0, 3, r.master), (3, 1, b2n r.isMaster), (4, 1, b2n r.noMaster), (8, 8, r.live.toNat), (16, 16, r.changes)]),
    ro1 (winRTE + 0x50) 1 (fun c => c.d.rte.noRoute),
    ro1 (winRTE + 0x54) 1 (fun c => c.d.rte.aged),
    ro1 (winRTE + 0x58) 1 (fun c => c.d.rte.drainDis),
    ro1 (winRTE + 0x5C) 1 (fun c => c.d.rte.headOvf),
    ro1 (winRTE + 0x60) 2 (fun c => pack [(0, 32, c.d.rte.e2eDup), (32, 32, c.d.rte.e2eFull)]),
    ro1 (winRTE + 0x68) 2 (fun c => pack [(0, 32, c.d.rte.marks), (32, 16, c.d.rte.echoes), (48, 13, c.d.rte.rates.length)]),
    roN (winRTE + 0x1000) 0x10 18 1 (fun c p =>
      let x := c.d.port p
      pack [(0, 8, x.xoffOut.toNat), (8, 8, ceilDiv x.pool 1024), (16, 8, ceilDiv x.head 1024), (24, 8, x.margin)]),
    roN (winRTE + 0x80000) 8 65536 2 (fun c i => runnerReg c.d i) ]

/-! ### LDL -/

/-- R253, R270: whether Ladle `q` takes packets to another member of the current step of an instance. -/
def Dev.instIn (d : Dev) (q : Nat) (pl : Plan) : Bool :=
  match pl.inst with
  | some x => x.started && !x.sprue && decide (x.pos < pl.steps x.op) &&
      (pl.others (pl.stepAt x.op x.pos)).any (fun m => d.ladleTo (memberDev pl m) == q)
  | none => false

def Dev.instsIn (d : Dev) (q : Nat) : Nat := (d.ldl.plans.filter (fun kv => match kv.2 with | some pl => d.instIn q pl | none => false)).length

/-- R270: LDL_PLAN_STATE. -/
def Dev.planState (d : Dev) (i : Nat) : Nat :=
  match d.plan i with
  | none => 0
  | some pl =>
    match pl.inst with
    | none => pack [(0, 3, 1), (3, 4, pl.part), (8, 2, pl.lastOp)]
    | some x =>
      let st := if (d.awaited pl x).any (fun m => d.isLost (memberDev pl m)) then 5
        else if x.stalled then 3 else if x.verdict then 4 else 2
      pack [(0, 3, st), (3, 4, pl.part), (8, 2, x.op), (10, 1, b2n x.sprue), (11, 3, if x.sprue then x.spPos else pl.stepAt x.op x.pos)]

def regsLdl : List RegRow :=
  [ ro1 (winLDL + 0x00) 1 (fun _ => pack [(0, 3, 4), (4, 11, 1024), (16, 8, 4), (24, 8, 16)]),
    roN (winLDL + 0x10) 4 4 1 (fun c q => pack [(0, 1, b2n (c.d.instsIn q != 0)), (4, 10, tget 0 c.d.ldl.lastPlan q),
      (16, 11, c.d.instsIn q), (28, 4, ceilDiv (c.d.chainUsed true q) (2 ^ 20))]),
    rw1 (winLDL + 0x20) .host (fun _ => 0) (fun c v => doLdlAbort c.d c.r (fld v 9 0)),
    rw1 (winLDL + 0x24) .anyone
      (fun c => pack [(0, 10, c.d.ldl.ntPlan), (16, 8, c.d.ldl.ntStatus), (30, 1, b2n c.d.ldl.ntSent), (31, 1, b2n c.d.ldl.ntValid)])
      (fun c v => c.d.upLdl (fun l => { l with ntValid := w1c l.ntValid v 31 })),
    ro1 (winLDL + 0x28) 1 (fun c => c.d.ldl.ntMember % 2 ^ 20),
    ro1 (winLDL + 0x30) 2 (fun c => pack [(0, 32, c.d.ldl.rsCrc), (32, 32, c.d.ldl.rsTimer)]),
    ro1 (winLDL + 0x38) 2 (fun c => c.d.ldl.absorbed),
    ro1 (winLDL + 0x40) 2 (fun c => c.d.ldl.dup),
    ro1 (winLDL + 0x48) 1 (fun c => c.d.ldl.notReady),
    ro1 (winLDL + 0x4C) 1 (fun c => c.d.ldl.verFail),
    ro1 (winLDL + 0x50) 1 (fun c => c.d.ldl.stalls),
    ro1 (winLDL + 0x54) 1 (fun c => c.d.ldl.sprueNs),
    roN (winLDL + 0x10000) 0x10 1024 1 (fun c i => c.d.planState i),
    roN (winLDL + 0x10004) 0x10 1024 1 (fun c i => match c.d.plan i with | some pl => pl.count % 2 ^ 32 | none => 0),
    roN (winLDL + 0x10008) 0x10 1024 1 (fun c i =>
      match c.d.instOf i with
      | some (pl, x) => (match lowest (c.d.awaited pl x) with | some m => pack [(0, 20, m), (31, 1, 1)] | none => 0)
      | none => 0),
    roN (winLDL + 0x20000) 8 1024 2 (fun c i => match c.d.plan i with | some pl => pl.sig | none => 0) ]

/-! ### HST -/

/-- R271, R287: HST_PORT_CTL. -/
def hstPortCtl (d : Dev) (p v : Nat) : Dev :=
  let was := (d.hport p).enable
  let d := d.upHPort p (fun x => { x with
    speed := if fld v 2 1 = 3 then x.speed else fld v 2 1, medium := bit v 3, vlanEn := bit v 4, vlan := fld v 27 16,
    enable := bit v 0 })
  let d := if was && !bit v 0 then (d.linkDown p 0).noteTrained
    else if !was && bit v 0 then d.upHPort p (fun x => { x with state := 1 }) else d
  if bit v 31 then doHostPortRetrain d p else d

/-- R275, R287: HST_QP_CFG: a port only in RESET; in ERROR only the state 0. -/
def hstQpCfg (d : Dev) (n v : Nat) : Dev :=
  let was := (d.qp n).state
  let d := d.upQp n (fun q => { q with
    port := if was = 0 then fld v 3 2 else q.port, cls := fld v 5 4, addrIx := fld v 7 6, retry := fld v 10 8,
    timeout := if fld v 15 11 = 0 then q.timeout else fld v 15 11, remote := fld v 55 32 })
  if fld v 1 0 = was then d else d.qpState n (fld v 1 0)

/-- R276, R287: HST_REGION: the other fields only while valid was clear. -/
def hstRegion (d : Dev) (n v : Nat) : Dev :=
  let was := (tget HRegion.init d.hst.regions n).valid
  let d := if was then d else d.upHst (fun h => { h with regions := tup HRegion.init h.regions n (fun r => { r with
    base := fld v 43 0, length := fld v 127 64, part := fld v 131 128, kind := fld v 133 132, rd := bit v 134, wr := bit v 135 }) })
  if bit v 136 then d.regionValid n
  else d.upHst (fun h => { h with regions := tup HRegion.init h.regions n (fun r => { r with valid := false }) })

/-- R285, R287: HST_EVQ; a write that names the consumer's word passes records. -/
def hstEvq (d : Dev) (k v : Nat) (ws : List Nat) : Dev :=
  let d := d.upEvq k (fun q => { q with
    va := fld v 63 0, rkey := fld v 95 64, log2 := fld v 100 96, qp := fld v 125 112, enable := bit v 127 })
  if ws.contains 5 then d.evqConsume k (fld v 191 160) else d

def hostIdx (c : RegCtx) (i : Nat) : Nat := match c.d.bind with | some b => b.addrs.getD i 0 | none => 0

def regsHst : List RegRow :=
  [ ro1 (winHST + 0x00) 1 (fun _ => pack [(0, 3, 4), (4, 14, 8192), (18, 11, 1024)]),
    ro1 (winHST + 0x10) 1 (fun c => match c.d.bind with
      | some b => pack [(0, 4, 2 ^ b.addrs.length - 1), (16, 16, b.gen)] | none => 0),
    roN (winHST + 0x20) 0x10 4 4 hostIdx,
    rwN (winHST + 0x100) 0x40 4 .anyone
      (fun c p =>
        let x := c.d.hport p
        pack [(0, 1, b2n x.enable), (1, 2, x.speed), (3, 1, b2n x.medium), (4, 1, b2n x.vlanEn), (16, 12, x.vlan)])
      (fun c p v => hstPortCtl c.d p v),
    roN (winHST + 0x104) 0x40 4 1 (fun c p => let x := c.d.hport p; pack [(0, 2, x.state), (2, 2, x.inUse), (8, 3, x.paused.toNat)]),
    rwW (winHST + 0x110) 0x40 4 4 .anyone (fun c p => (c.d.hport p).addr)
      (fun c p v _ => c.d.upHPort p (fun x => { x with addr := v })),
    roN (winHST + 0x120) 0x40 4 2 (fun c p => (c.v.mac + p) % 2 ^ 48),
    rw1 (winHST + 0x200) .anyone
      (fun c =>
        let h := c.d.hst
        pack [(0, 3, h.prioC), (4, 3, h.prioE), (8, 3, h.prioB), (16, 6, h.dscpC), (22, 6, h.dscpE)])
      (fun c v => c.d.upHst (fun h => { h with
        prioC := fld v 2 0, prioE := fld v 6 4, prioB := fld v 10 8, dscpC := fld v 21 16, dscpE := fld v 27 22 })),
    rw1 (winHST + 0x204) .anyone (fun c => pack [(0, 6, c.d.hst.dscpB), (8, 8, c.d.hst.wtB), (16, 8, c.d.hst.wtE)])
      (fun c v => c.d.upHst (fun h =>
        let h := { h with dscpB := fld v 5 0 }
        if fld v 15 8 + fld v 23 16 = 256 then { h with wtB := fld v 15 8, wtE := fld v 23 16 } else h)),
    ro1 (winHST + 0x300) 1 (fun c => c.d.hst.foreign),
    ro1 (winHST + 0x304) 1 (fun c => pack [(0, 16, c.d.hst.nakAcc), (16, 16, c.d.hst.nakOth)]),
    ro1 (winHST + 0x308) 1 (fun c => c.d.hst.dup),
    ro1 (winHST + 0x310) 2 (fun c => pack [(0, 32, c.d.hst.cnpOut), (32, 32, c.d.hst.cnpIn)]),
    rwW (winHST + 0x10000) 0x10 8192 2 .host
      (fun c n =>
        let q := c.d.qp n
        pack [(0, 2, q.state), (2, 2, q.port), (4, 2, q.cls), (6, 2, q.addrIx), (8, 3, q.retry), (11, 5, q.timeout), (32, 24, q.remote)])
      (fun c n v _ => hstQpCfg c.d n v),
    rwW (winHST + 0x10008) 0x10 8192 2 .host (fun c n => pack [(0, 24, (c.d.qp n).sendPsn), (32, 24, (c.d.qp n).recvPsn)])
      (fun c n v _ => if (c.d.qp n).state = 0 then c.d.upQp n (fun q => { q with sendPsn := fld v 23 0, recvPsn := fld v 55 32 }) else c.d),
    rwW (winHST + 0x40000) 0x20 1024 8 .host
      (fun c n =>
        let r := tget HRegion.init c.d.hst.regions n
        pack [(0, 44, r.base), (64, 64, r.length), (128, 4, r.part), (132, 2, r.kind), (134, 1, b2n r.rd), (135, 1, b2n r.wr),
          (136, 1, b2n r.valid), (160, 16, r.gen)])
      (fun c n v _ => hstRegion c.d n v),
    rwW (winHST + 0x60000) 0x20 64 8 .host
      (fun c k =>
        let q := c.d.evq k
        pack [(0, 64, q.va), (64, 32, q.rkey), (96, 5, q.log2), (112, 14, q.qp), (127, 1, b2n q.enable), (128, 32, q.prod),
          (160, 32, q.cons)])
      (fun c k v ws => hstEvq c.d k v ws) ]

end Sys2Proof.Machine
end

