-- ==== Sys2Proof/Machine/RegsPower.lean ====
section
/-! DEFINITION. The register maps of the PWR window (R321) and of THM (R338). -/

namespace Sys2Proof.Machine

/-- R312, R321: PWR_MODE; a rate outside 110–218 leaves the field. -/
def pwrMode (d : Dev) (v : Nat) : Dev :=
  let d := d.upPwr (fun p => { p with
    governed := bit v 0, rate := if 110 ≤ fld v 11 4 && fld v 11 4 ≤ 218 then fld v 11 4 else p.rate,
    lostGov := p.lostGov && bit v 0 })
  d.governedCheck

/-- R314, R321: PWR_RISER_CTL: disabled, the riser stops at once. -/
def pwrRiser (d : Dev) (v : Nat) : Dev :=
  d.upPwr (fun p =>
    let p := { p with riserOn := bit v 0, slow := if 100 ≤ fld v 31 16 && fld v 31 16 ≤ 10000 then fld v 31 16 else p.slow }
    if bit v 0 then p else { p with floor := 0, filler := 0, short := false })

/-- R308, R321: the highest rate limit in quadrant `q`. -/
def Dev.topRate (d : Dev) (q : Nat) : Nat := (List.range 16).foldl (fun m k => max m (d.pwr.limit (16 * q + k))) 0

def regsPwr : List RegRow :=
  [ ro1 (winPWR + 0x00) 1 (fun _ => pack [(0, 16, 4500), (16, 16, 1100)]),
    rw1 (winPWR + 0x10) .host (fun c => c.d.pwr.capHost) (fun c v => doCapHostWrite c.d c.r v),
    rw1 (winPWR + 0x14) .mgmt (fun c => c.d.pwr.capMgmt) (fun c v => doCapMgmtWrite c.d c.r v),
    { rw1 (winPWR + 0x18) .anyone (fun c => c.d.pwr.emergCap)
        (fun c v => if 1100 ≤ fld v 15 0 && fld v 15 0 ≤ 4500 then c.d.upPwr (fun p => { p with emergCap := fld v 15 0 }) else c.d)
      with lock := true },
    ro1 (winPWR + 0x1C) 1 (fun c => c.d.capStatusReg),
    rw1 (winPWR + 0x20) .anyone (fun c => pack [(0, 1, b2n c.d.pwr.governed), (4, 8, c.d.pwr.rate)]) (fun c v => pwrMode c.d v),
    rw1 (winPWR + 0x24) .anyone (fun c => pack [(0, 1, b2n c.d.pwr.riserOn), (16, 16, c.d.pwr.slow)]) (fun c v => pwrRiser c.d v),
    ro1 (winPWR + 0x28) 1 (fun c => pack [(0, 15, c.d.pwr.floor), (15, 1, b2n c.d.pwr.short), (16, 16, c.d.pwr.filler)]),
    ro1 (winPWR + 0x30) 1 (fun c => pack [(0, 16, c.d.pwr.power), (16, 11, c.d.pwr.vmain), (31, 1, b2n c.d.pwr.valid)]),
    ro1 (winPWR + 0x34) 1 (fun c => pack [(0, 16, min 65535 c.d.pwr.est), (16, 16, c.d.pwr.gain)]),
    ro1 (winPWR + 0x38) 1 (fun c => pack [(0, 16, c.d.pwr.limEst), (16, 16, c.d.pwr.limMeas)]),
    rw1 (winPWR + 0x40) .mgmt (fun c => c.d.pwr.tray) (fun c v => c.d.upPwr (fun p => { p with tray := fld v 15 0 })),
    ro1 (winPWR + 0x44) 1 (fun c => pack [(0, 16, c.d.pwr.alloc), (16, 10, c.d.pwr.slack), (26, 1, b2n c.d.pwr.held)]),
    roN (winPWR + 0x100) 0x10 4 1 (fun c q =>
      let x := c.d.pquad q
      pack [(0, 10, x.setpoint), (10, 1, b2n x.droop), (11, 1, b2n x.pulse), (12, 6, x.duty), (20, 12, c.d.topRate q)]),
    roN (winPWR + 0x104) 0x10 4 1 (fun c q => pack [(0, 16, (c.d.pquad q).droops), (16, 16, (c.d.pquad q).longest)]),
    roN (winPWR + 0x200) 4 16 1 (fun c p => pack [(0, 11, (c.d.part p).share), (16, 16, (c.d.part p).allow)]),
    ro1 (winPWR + 0x400) 2 (fun c => c.d.pwr.eMeas),
    ro1 (winPWR + 0x408) 2 (fun c => c.d.pwr.eShell),
    ro1 (winPWR + 0x410) 2 (fun c => c.d.pwr.eRiser),
    roN (winPWR + 0x800) 8 16 2 (fun c p => if c.hidden p then 0 else tget 0 c.d.pwr.ePart p),
    roN (winPWR + 0x2000) 0x10 256 4 (fun c k => if c.hidden (k / 16) then 0 else tget 0 c.d.pwr.work k) ]

/-- R338: temperatures are 16-bit two's complement in 0.25 °C. -/
def temp16 (t : Int) : Nat := twos 16 t

def regsThm : List RegRow :=
  [ ro1 (winTHM + 0x00) 1 (fun _ => pack [(0, 8, 84), (8, 8, 50)]),
    ro1 (winTHM + 0x04) 1 (fun c => pack [(0, 2, c.d.thm.option), (2, 2, c.d.thm.inUse), (4, 1, b2n c.d.thm.stale), (5, 1, b2n c.d.thm.fixed)]),
    ro1 (winTHM + 0x10) 1 (fun c => pack [(0, 16, temp16 c.d.thm.inlet), (16, 16, temp16 c.d.thm.outlet)]),
    ro1 (winTHM + 0x14) 1 (fun c => pack [(0, 16, c.d.thm.flow), (16, 16, c.d.thm.flowPkg)]),
    ro1 (winTHM + 0x18) 2 (fun c => pack [(0, 16, temp16 c.d.thm.trIn), (16, 16, temp16 c.d.thm.trOut), (32, 16, c.d.thm.trFlow),
      (48, 16, c.d.trayAge)]),
    ro1 (winTHM + 0x20) 1 (fun c => pack [(0, 16, min 65535 c.d.thm.allowed), (16, 16, min 65535 c.d.thm.allow)]),
    ro1 (winTHM + 0x24) 1 (fun c =>
      let t := c.d.thm
      pack [(0, 4, t.throttle.toNat), (4, 1, b2n (c.d.mem.hbm.any (fun kv => kv.2.limit != 0))), (5, 1, b2n t.flowLoss),
        (6, 1, b2n t.hold), (7, 1, b2n t.tripped), (8, 1, b2n t.vmReq)]),
    ro1 (winTHM + 0x28) 2 (fun c => (List.range 16).foldl (fun a s => a + (c.d.stack s).limit % 16 * 16 ^ s) 0),
    ro1 (winTHM + 0x30) 1 (fun c => pack [(0, 8, c.d.thm.logSens), (8, 1, b2n c.d.thm.logFlow), (16, 16, temp16 c.d.thm.logVal)]),
    ro1 (winTHM + 0x34) 1 (fun c => pack [(0, 16, c.d.thm.trips), (16, 16, c.d.thm.losses)]),
    roN (winTHM + 0x100) 4 4 1 (fun c q => pack [(0, 3, tget 0 c.d.thm.hot q), (16, 16, temp16 (tget 0 c.d.thm.hotVal q))]),
    roN (winTHM + 0x110) 4 4 1 (fun c q => temp16 (tget 0 c.d.thm.model q)),
    roN (winTHM + 0x1000) 4 84 1 (fun c n =>
      let x := c.d.sensor n
      pack [(0, 16, temp16 x.reading), (16, 3, x.code), (20, 12, x.entries)]) ]

end Sys2Proof.Machine
end

