-- ==== Sys2Proof/Machine/RegsShell.lean ====
section
/-! DEFINITION. The register maps of the RST window (R359, R384), of ARC (R404, R434), SEC (R404) and UPD (R421). -/

namespace Sys2Proof.Machine

/-! ### RST -/

/-- R340, R359: RST_CMD. -/
def rstCmdWrite (c : RegCtx) (v : Nat) : Dev :=
  match fld v 2 0 with
  | 0 => doRstCmdL0 c.w c.d c.r (fld v 17 8)
  | 1 => if fld v 17 8 < 64 then doRstCmdL1 c.w c.d c.r (fld v 17 8) else c.d
  | 2 => doRstCmdL2 c.w c.d c.r (fld v 7 4) (bit v 3)
  | 3 => doRstCmdL3 c.w c.d c.r
  | _ => c.d

def regsRst : List RegRow :=
  [ ro1 (winRST + 0x00) 1 (fun c => c.d.rstState),
    ro1 (winRST + 0x04) 1 (fun c =>
      let r := c.d.rst
      pack [(0, 3, r.causeLv), (4, 4, r.causeSrc), (8, 4, r.causeP), (12, 10, r.causeT)]),
    rw1 (winRST + 0x10) .mgmt (fun _ => 0) rstCmdWrite,
    rw1 (winRST + 0x14) .anyone (fun c => c.d.rst.idleMs)
      (fun c v => if 1 ≤ fld v 9 0 && fld v 9 0 ≤ 1000 then c.d.upRst (fun r => { r with idleMs := fld v 9 0 }) else c.d),
    ro1 (winRST + 0x20) 2 (fun c => c.d.reachCodes c.w),
    ro1 (winRST + 0x28) 2 (fun c => c.w.reach.toNat),
    roN (winRST + 0x40) 4 7 1 (fun c i => tget 0 c.d.rst.bringup i),
    ro1 (winRST + 0x60) 1 (fun c => pack [(0, 2, c.d.rst.optCopy), (8, 8, c.d.rst.optVer), (16, 2, c.d.rst.recCopy)]),
    roN (winRST + 0x100) 4 16 1 (fun c i => pack [(0, 16, tget 0 c.d.rst.audit i), (31, 1, b2n (tget false c.d.rst.auditSat i))]),
    rwN (winRST + 0x200) 4 8 .host (fun c i => tget 0 c.d.rst.backup i)
      (fun c i v => c.d.upRst (fun r => { r with backup := tset 0 r.backup i v })),
    rwN (winRST + 0x8000) 4 2048 .archivist
      (fun c i => if Who.archivist.may c.r then tget 0 c.d.rst.retained i else 0)
      (fun c i v => c.d.upRst (fun r => { r with retained := tset 0 r.retained i v })) ]

def regsRecover : List RegRow :=
  [ rw1 (winRST + 0x10000) .anyone
      (fun c => pack [(0, 14, c.d.rst.stallMs), (16, 1, b2n c.d.rst.autoWd), (17, 1, b2n c.d.rst.autoSt)])
      (fun c v => c.d.upRst (fun r => { r with
        stallMs := if 10 ≤ fld v 13 0 && fld v 13 0 ≤ 10000 then fld v 13 0 else r.stallMs, autoWd := bit v 16, autoSt := bit v 17 })),
    rw1 (winRST + 0x10004) .mgmt (fun _ => 0) (fun c v => doRecoverCmd c.d c.r (fld v 15 0)),
    rwW (winRST + 0x10010) 0x10 1 4 .host
      (fun c _ =>
        let r := c.d.rst
        pack [(0, 64, r.expVa), (64, 32, r.expRkey), (96, 14, r.expQp), (112, 8, r.expMib), (127, 1, b2n r.expOn)])
      (fun c _ v _ => c.d.upRst (fun r => { r with
        expVa := fld v 63 0, expRkey := fld v 95 64, expQp := fld v 109 96, expMib := fld v 119 112, expOn := bit v 127 })),
    roN (winRST + 0x10100) 0x10 16 1 (fun c p =>
      let x := c.d.part p
      pack [(0, 3, x.rcStep), (4, 3, x.rcCause), (8, 8, x.rcEsc), (16, 16, x.rcCount)]),
    roN (winRST + 0x10104) 0x10 16 1 (fun c p =>
      let x := c.d.part p
      pack [(0, 11, x.hgCells), (11, 1, b2n x.hgTrunc), (12, 1, b2n x.hgScrub), (13, 1, b2n x.hgExp), (16, 16, x.hgKilled)]),
    roN (winRST + 0x10108) 0x10 16 1 (fun c p =>
      pack [(0, 13, (c.d.twin.own.filter (fun r => r.part == p)).length), (13, 1, b2n (c.d.part p).twHeld), (16, 16, (c.d.part p).twRanges)]),
    ro1 (winRST + 0x10300) 2 (fun c => pack [(0, 32, c.d.rst.twDup), (32, 16, c.d.rst.twStale), (48, 16, c.d.rst.twFull)]),
    rwW (winRST + 0x11000) 8 256 2 .host
      (fun c i =>
        let (dev, ps, on) := tget (0, 0, false) c.d.rst.twPeer i
        pack [(0, 20, dev), (32, 16, ps), (63, 1, b2n on)])
      (fun c i v _ => c.d.upRst (fun r => { r with twPeer := tset (0, 0, false) r.twPeer i (fld v 19 0, fld v 47 32, bit v 63) })) ]

/-! ### ARC -/

/-- R428: seconds since the last KEEPALIVE. -/
def Dev.keepAge (d : Dev) : Nat := match d.mgmt.keepAt with | some t => min 0xFFF ((d.now - t) / 100000000) | none => 0xFFF

def regsArc : List RegRow :=
  [ ro1 (winARC + 0x00) 1 (fun c => pack [(0, 16, c.v.part), (16, 8, c.v.step)]),
    ro1 (winARC + 0x10) 4 (fun c => c.v.unitId % 2 ^ 128),
    ro1 (winARC + 0x20) 2 (fun c => c.v.mac % 2 ^ 48),
    ro1 (winARC + 0x28) 1 (fun c => c.v.iana % 2 ^ 32),
    rw1 (winARC + 0x40) .anyone (fun c => pack [(31, 1, b2n c.d.sec.locked)]) (fun c v => if bit v 0 then doArcLock c.d c.r else c.d),
    ro1 (winARC + 0x44) 1 (fun c => c.d.sec.accessErr),
    ro1 (winARC + 0x100) 1 (fun c => pack [(0, 17, c.d.sec.report.length), (28, 3, c.d.sec.repQ.length - 1), (31, 1, b2n c.d.sec.repValid)]),
    roN (winARC + 0x10000) 4 24576 1 (fun c i => le c.d.sec.report (4 * i) 4),
    ro1 (winARC + 0x30000) 1 (fun c =>
      let m := c.d.mgmt
      pack [(0, 7, m.i3c.getD 0), (7, 1, b2n m.i3c.isSome), (8, 8, m.eid.getD 0), (16, 1, b2n m.orphan), (20, 12, c.d.keepAge)]),
    ro1 (winARC + 0x30004) 1 (fun c => c.d.mgmt.gen),
    ro1 (winARC + 0x30008) 1 (fun c =>
      let m := c.d.mgmt
      pack [(0, 1, b2n c.d.pwr.emerg), (1, 1, b2n c.d.rst.pinHeld), (2, 2, m.straps / 64), (4, 3, m.straps), (7, 3, m.straps / 8),
        (10, 1, m.straps / 256), (16, 1, b2n m.beat), (17, 1, b2n c.d.errFatal), (18, 1, b2n c.d.errWarn), (19, 1, b2n c.d.thm.tripped)]),
    ro1 (winARC + 0x30010) 1 (fun c => c.d.errCause),
    ro1 (winARC + 0x30020) 2 (fun c =>
      let m := c.d.mgmt
      pack [(0, 16, m.discard), (16, 16, m.repeated), (32, 16, m.unread), (48, 16, m.skipped)]),
    ro1 (winARC + 0x30030) 2 (fun c =>
      let m := c.d.mgmt
      pack [(0, 16, m.lossP), (16, 16, m.lossCap), (32, 1, b2n m.lossExp), (33, 3, m.lossWhy), (48, 16, m.lossN)]) ]

/-! ### SEC -/

/-- R392, R404: seconds since the last presence assertion reached 200 ms. -/
def Dev.presAge (d : Dev) : Nat := match d.sec.presAt with | some t => min 0xFFFF ((d.now - t) / 100000000) | none => 0xFFFF

def regsSec : List RegRow :=
  [ ro1 (winSEC + 0x00) 1 (fun c => pack [(0, 4, c.w.enrolled.toNat), (4, 4, c.w.revoked.toNat)]),
    ro1 (winSEC + 0x10) 1 (fun c => pack [(0, 1, c.w.conf.toNat), (16, 16, ofBits (parts16.filter (fun p => (c.d.part p).conf)))]),
    ro1 (winSEC + 0x14) 1 (fun c => pack [(0, 2, c.d.sec.debug), (2, 1, b2n c.d.upd.recovery)]),
    ro1 (winSEC + 0x18) 1 (fun c => pack [(0, 1, b2n c.d.sec.ppLow), (1, 1, b2n c.d.presence), (16, 16, c.d.presAge)]),
    ro1 (winSEC + 0x1C) 1 (fun c => pack [(0, 1, b2n c.d.sec.sealOpen), (1, 1, b2n c.d.sec.sealUnack), (16, 16, c.d.sec.sealN)]),
    ro1 (winSEC + 0x20) 2 (fun c => c.d.sec.challenge),
    ro1 (winSEC + 0x28) 1 (fun c => pack [(0, 16, c.d.sec.refPres), (16, 16, c.d.sec.refSig)]),
    roN (winSEC + 0x100) 0x20 4 8 (fun c i => (c.w.hash i).toNat),
    roN (winSEC + 0x200) 4 6 1 (fun c i => c.w.thermometer i) ]

/-! ### UPD -/

/-- R421: the package receiving or last completed. -/
def Dev.package (d : Dev) : Option Staged := tget none d.flash.staged d.flash.folio

/-- R412, R413, R421: UPD_CMD. -/
def updCmd (c : RegCtx) (v : Nat) : Dev :=
  match fld v 1 0 with
  | 1 => doUpdateAbort c.d (.register c.r)
  | 2 => doUpdateActivate c.w c.d (.register c.r)
  | _ => c.d

def regsUpd : List RegRow :=
  [ ro1 (winUPD + 0x00) 1 (fun c => pack [(0, 6, c.d.flash.stagedMask), (6, 2, c.d.flash.stagedState), (8, 1, c.d.committed),
      (9, 1, b2n c.d.upd.trialRun), (10, 1, b2n c.d.upd.sync), (11, 1, b2n c.d.upd.recovery)]),
    { rw1 (winUPD + 0x04) .anyone (fun c => b2n c.d.upd.mode) (fun c v => c.d.upUpd (fun u => { u with mode := bit v 0 }))
      with lock := true },
    rw1 (winUPD + 0x08) .anyone (fun _ => 0) updCmd,
    rw1 (winUPD + 0x0C) .anyone (fun c => pack [(0, 16, c.d.upd.errCode), (16, 8, c.d.upd.errStat), (31, 1, b2n c.d.upd.errValid)])
      (fun c v => c.d.upUpd (fun u => { u with errValid := w1c u.errValid v 31 })),
    ro1 (winUPD + 0x10) 1 (fun c => match c.d.package with
      | some s => pack [(0, 8, popCount 128 s.bitmap.toNat), (8, 8, foCount s.folio0), (16, 3, c.d.flash.folio)]
      | none => pack [(16, 3, c.d.flash.folio)]),
    ro1 (winUPD + 0x14) 1 (fun c => pack [(0, 16, c.d.upd.dups), (16, 16, c.d.upd.refused)]),
    ro1 (winUPD + 0x18) 1 (fun c => pack [(0, 1, c.d.upd.bank), (1, 3, c.d.attempts 0), (4, 3, c.d.attempts 1), (8, 2, c.d.upd.bootsel),
      (10, 2, c.d.upd.lastFail)]),
    ro1 (winUPD + 0x1C) 1 (fun c => pack [(0, 16, c.d.upd.setVer),
      (16, 16, match c.d.flash.setPrev with | some s => s.version | none => 0)]),
    ro1 (winUPD + 0x20) 4 (fun c => match c.d.package with | some s => s.bitmap.toNat | none => 0),
    ro1 (winUPD + 0x40) 8 (fun c => match c.d.package with | some s => sha256 s.folio0 | none => 0),
    roN (winUPD + 0x100) 8 6 2 (fun c i =>
      let b := c.d.flash.folio0 c.d.upd.bank i
      pack [(0, 32, foVersion b), (32, 6, foRollback b)]),
    roN (winUPD + 0x140) 8 6 2 (fun c i => match tget none c.d.flash.staged i with
      | some s => pack [(0, 32, foVersion s.folio0), (32, 2, s.state)]
      | none => 0) ]

end Sys2Proof.Machine
end

