-- ==== Sys2Proof/Machine/RegsWork.lean ====
section
/-! DEFINITION. The register maps of the QUE and SYN windows (R169, R170), of MEM (R196) and of EVC (R298). -/

namespace Sys2Proof.Machine

/-- R154, R169: the head of queue `q` is held by a wait entry. -/
def Dev.headWaiting (d : Dev) (q : Nat) : Bool :=
  match (d.anyQueue q).head with
  | some w => w != [] && d.malformed w (q == ctlQ) (d.anyQueue q).part == 0 && !d.waitsHold w
  | none => false

/-- R158, R169: QUE_CANCEL. -/
def queCancel (c : RegCtx) (v : Nat) : Dev :=
  if bit v 31 then doQueueDisable c.d c.r (fld v 14 0) else doQueueCancel c.d c.r (fld v 14 0)

def regsQue : List RegRow :=
  [ ro1 (winQUE + 0x0000) 1 (fun _ => pack [(0, 4, 4), (4, 12, 2048), (16, 8, 64), (24, 8, 16)]),
    rw1 (winQUE + 0x0010) .host (fun _ => 0) (fun c v => doCtlDoorbell c.d c.r v),
    ro1 (winQUE + 0x0014) 1 (fun c => pack [(0, 8, c.d.que.ctlProd), (8, 8, c.d.que.ctlRet),
      (16, 8, (c.d.que.ctlDisp + 2 ^ 32 - c.d.que.ctlRet) % 2 ^ 32)]),
    ro1 (winQUE + 0x0020) 1 (fun c => c.d.que.badBell),
    ro1 (winQUE + 0x0024) 1 (fun c => c.d.que.wdCount),
    rw1 (winQUE + 0x0030) .host (fun _ => 0) queCancel,
    roN (winQUE + 0x0100) 4 16 1 (fun c e => pack [
      (0, 11, (c.d.que.flights.filter (fun f => f.queue != ctlQ && engineOf f.queue == e)).length),
      (16, 12, (c.d.que.queues.filter (fun kv => engineOf kv.1 == e && c.d.headWaiting kv.1)).length)]),
    rwW (winQUE + 0x1000) 0x40 16 16 .host (fun c i => tget 0 c.d.que.ctlSlot i)
      (fun c i v _ => c.d.upQue (fun q => { q with ctlSlot := tset 0 q.ctlSlot i v })),
    roN (winQUE + 0x1400) 0x20 16 8 (fun c i => tget 0 c.d.que.ctlCompl i),
    roN (winQUE + 0x10000) 4 32768 1 (fun c n =>
      let q := c.d.queue n
      pack [(0, 3, min 3 q.state), (3, 4, q.part), (7, 2, q.prio), (9, 4, q.log2 - 4), (13, 7, (q.disp + 2 ^ 32 - q.ret) % 2 ^ 32),
        (20, 1, b2n (c.d.headWaiting n))]),
    roN (winQUE + 0x40000) 8 32768 2 (fun c n => if c.hidden (c.d.queue n).part then 0 else (c.d.queue n).uj),
    roN (winQUE + 0x80000) 8 32768 2 (fun c n => pack [(0, 32, (c.d.queue n).prod), (32, 32, (c.d.queue n).ret)]) ]

def regsSyn : List RegRow :=
  [ roN (winSYN + 0x00000) 8 16384 2 (fun c n => let x := c.d.counter n; if x.bound && x.hostRead then x.value else 0),
    rwN (winSYN + 0x20000) 4 16384 .anyone
      (fun c n =>
        let x := c.d.counter n
        pack [(0, 1, b2n x.bound), (1, 4, x.part), (5, 1, b2n x.peerIncr), (6, 1, b2n x.hostRead), (7, 1, b2n x.ovf)])
      (fun c n v => c.d.upCounter n (fun x => { x with ovf := w1c x.ovf v 7 })),
    ro1 (winSYN + 0x30000) 1 (fun c => pack [(0, 16, min 65535 c.d.syn.sent.length),
      (16, 16, min 65535 (c.d.syn.sent.filter (·.withdraw)).length)]),
    ro1 (winSYN + 0x30008) 2 (fun c => c.d.syn.undeliv),
    ro1 (winSYN + 0x30010) 2 (fun c => c.d.syn.dup),
    ro1 (winSYN + 0x30018) 2 (fun c => c.d.syn.withdrawn),
    ro1 (winSYN + 0x30020) 1 (fun c => c.d.syn.refused) ]

def regsMem : List RegRow :=
  [ ro1 (winMEM + 0x0000) 1 (fun _ => pack [(0, 5, 16), (8, 8, 96), (16, 16, 8192)]),
    rw1 (winMEM + 0x0010) .anyone (fun c => pack [(0, 8, c.d.mem.scrubH), (31, 1, b2n c.d.mem.scrubOn)])
      (fun c v => c.d.upMem (fun m => { m with
        scrubH := if 1 ≤ fld v 7 0 && fld v 7 0 ≤ 168 then fld v 7 0 else m.scrubH, scrubOn := bit v 31 })),
    ro1 (winMEM + 0x0020) 2 (fun c => c.d.mem.accDup),
    rw1 (winMEM + 0x0030) .host (fun _ => 0) (fun c v => doRegionClear c.d c.r (fld v 3 0)),
    roN (winMEM + 0x0100) 4 16 1 (fun c s =>
      let x := c.d.stack s
      pack [(0, 3, x.state), (4, 4, (c.d.stackPart s).getD 0), (8, 1, b2n (c.d.stackPart s).isSome), (9, 1, b2n x.hot),
        (16, 16, twos 16 x.temp)]),
    roN (winMEM + 0x0140) 4 16 1 (fun c s =>
      let x := c.d.stack s
      pack [(0, 16, x.passes), (16, 8, x.scrubAt * 256 / scrubUnits)]),
    roN (winMEM + 0x0200) 4 16 1 (fun c s => (c.d.stack s).ce),
    roN (winMEM + 0x0240) 4 16 1 (fun c s => (c.d.stack s).ue),
    roN (winMEM + 0x0280) 4 4 1 (fun c q => tget 0 c.d.mem.shelfCe q),
    roN (winMEM + 0x02C0) 4 4 1 (fun c q => tget 0 c.d.mem.shelfUe q),
    ro1 (winMEM + 0x0300) 1 (fun c => pack [(0, 4, c.d.mem.ueNext), (16, 16, c.d.mem.ueTotal)]),
    roN (winMEM + 0x0400) 0x10 16 3 (fun c i =>
      let x := tget UeEnt.init c.d.mem.ueLog i
      pack [(0, 44, x.addr), (64, 4, x.part), (68, 3, x.reader), (71, 1, b2n x.cleared), (95, 1, b2n x.valid)]),
    roN (winMEM + 0x0500) 4 16 1 (fun c s => pack [(0, 13, (c.d.mem.accs.filter (fun a => a.stack == s)).length),
      (16, 13, min 8191 (ceilDiv (c.d.mem.staged s) 1024))]),
    ro1 (winMEM + 0x0600) 1 (fun c => c.d.mem.refused),
    roN (winMEM + 0x10000) 0x40 1024 16 (fun c k =>
      let x := tget Region.init (c.d.part (k / 64)).regions (k % 64)
      pack [(0, 256, x.digest), (256, 44, x.addr), (320, 64, x.length), (384, 1, b2n x.valid), (385, 1, b2n x.stale),
        (386, 1, b2n x.busy)]) ]

/-- R298: the sources whose records an event queue receives have one outstanding. -/
def Dev.queueOutst (d : Dev) (k : Nat) : Bool := d.evc.srcs.any (fun kv => kv.2.outst && d.srcQueue kv.1 == k)

/-- R291, R298: a batch of group `g` is due. -/
def Dev.groupDue (d : Dev) (g : Nat) : Bool := d.evc.srcs.any (fun kv => kv.1 / 256 == g && d.eligible kv.1)

/-- R298: only the bound host and the Archivist write RW fields. -/
def RegCtx.rwOr (c : RegCtx) (d : Dev) (f : Dev → Dev) : Dev := if hostOnly c.r then f d else d.accessErr

def evcArcWake (c : RegCtx) (v : Nat) : Dev :=
  c.rwOr (c.d.upEvc (fun e => { e with wakePend := e.wakePend &&& ~~~ BitVec.ofNat 4 (v / 256) }))
    (fun d => d.upEvc (fun e => { e with wakeMask := BitVec.ofNat 4 v }))

def evcGroup (c : RegCtx) (g v : Nat) : Dev :=
  c.rwOr (c.d.upGroup g (fun x => { x with spillOvf := w1c x.spillOvf v 30 }))
    (fun d => d.upGroup g (fun x => { x with
      holdoff := fld v 15 0, queue := if 0xC4 ≤ g && g ≤ 0xD7 then fld v 18 16 else x.queue }))

/-- R294, R298: the Archivist has taken records. -/
def arcRing (d : Dev) (k v : Nat) : Dev :=
  let n := (v / 65536 + 65536 - tget 0 d.evc.arcCons k) % 65536
  d.upEvc (fun e => { e with
    arcCons := tset 0 e.arcCons k (v / 65536 % 65536), arcRecs := tup [] e.arcRecs k (fun l => l.drop n) })

def evcSource (d : Dev) (n v : Nat) : Dev :=
  if shellSrc n then
    d.upEvc (fun e => { e with srcOff := if bit v 9 then e.srcOff.filter (· != n) else insertNat n e.srcOff })
  else d.upSrc n (fun s => { s with enabled := bit v 9 })

def regsEvc : List RegRow :=
  [ ro1 (winEVC + 0x0000) 1 (fun _ => pack [(0, 7, 64), (8, 9, 256), (24, 8, 255)]),
    ro1 (winEVC + 0x0010) 1 (fun c => pack [(0, 16, c.d.evc.refBell), (16, 16, c.d.evc.refUnb)]),
    ro1 (winEVC + 0x0014) 1 (fun c => c.d.evc.stray),
    ro1 (winEVC + 0x0018) 2 (fun c => c.d.evc.cleared),
    rw1 (winEVC + 0x0020) .anyone (fun c => pack [(0, 4, c.d.evc.wakeMask.toNat), (8, 4, c.d.evc.wakePend.toNat)]) evcArcWake,
    rwN (winEVC + 0x0100) 0x10 64 .host
      (fun c k =>
        let p := if k < 8 then none else tget none c.d.evc.qPart k
        pack [(0, 1, b2n (tget false c.d.evc.auto k)), (1, 1, b2n (k < 8 || p.isSome)), (2, 4, p.getD 0), (8, 1, b2n (c.d.evFull k)),
          (16, 16, c.d.evFill k)])
      (fun c k v => if c.d.queueOutst k then c.d else c.d.upEvc (fun e => { e with auto := tset false e.auto k (bit v 0) })),
    rwN (winEVC + 0x0104) 0x10 4 .archivist
      (fun c k => pack [(0, 16, tget 0 c.d.evc.arcProd k), (16, 16, tget 0 c.d.evc.arcCons k)]) (fun c k v => arcRing c.d k v),
    rwN (winEVC + 0x1000) 8 256 .anyone
      (fun c g =>
        let x := c.d.group g
        pack [(0, 16, x.holdoff), (16, 3, if 0xC4 ≤ g && g ≤ 0xD7 then x.queue else 0), (30, 1, b2n x.spillOvf),
          (31, 1, b2n (c.d.groupDue g))])
      evcGroup,
    roN (winEVC + 0x2000) 4 256 1 (fun c g => (c.d.group g).spill),
    rwN (winEVC + 0x40000) 4 65536 .host
      (fun c n =>
        let s := c.d.src n
        let hide := !shellSrc n && s.bound && c.hidden s.part
        pack [(0, 8, if hide then 0 else s.pending), (8, 1, if hide then 0 else b2n s.outst), (9, 1, b2n (c.d.srcEnabled n)),
          (10, 1, b2n (shellSrc n || s.bound)), (11, 4, s.part), (16, 6, c.d.srcQueue n)])
      (fun c n v => evcSource c.d n v) ]

end Sys2Proof.Machine
end

