-- ==== Sys2Proof/Machine/Registers.lean ====
section
/-! DEFINITION. Register accesses: which register an address names (R10), what an access may be (R11), who may write (R17), the lock
(R14), shadows and pending writes (R16, R18); the paths by which accesses arrive (R277, R395, R426). -/

namespace Sys2Proof.Machine

/-- Every register map. -/
def regs : List RegRow :=
  regsArc ++ regsRst ++ regsRecover ++ regsPwr ++ regsThm ++ regsEvc ++ regsMld ++ regsQue ++ regsSyn ++ regsLdl ++ regsLnk ++
  regsRte ++ regsMem ++ regsHst ++ regsSec ++ regsUpd ++ regsCat ++ regsLedger ++ regsPerf

/-- R10: where the register space begins, and its size. -/
def regBase : Nat := 0xF0000000000
def regSize : Nat := 0x1000000

/-- Whether a row has a word at an offset of the register space. -/
def RegRow.has (x : RegRow) (off : Nat) : Bool :=
  decide (x.base ≤ off) && decide ((off - x.base) / x.stride < x.count) && decide ((off - x.base) % x.stride < 4 * x.words) &&
  x.ok ((off - x.base) / x.stride)

/-- A register that an address names: its row, its index, the word, and the offset of its word 0. -/
structure RegAt where
  row  : RegRow
  ix   : Nat
  word : Nat
  off  : Nat

/-- R10: the register at an address. -/
def regAt (addr : Nat) : Option RegAt :=
  if addr < regBase || regBase + regSize ≤ addr then none
  else
    let off := addr - regBase
    (regs.find? (fun x => x.has off)).map (fun x =>
      { row := x, ix := (off - x.base) / x.stride, word := (off - x.base) % x.stride / 4, off := x.base + (off - x.base) / x.stride * x.stride })

/-- R11: what an access reaches: a 32-bit access its word, a 64-bit access a whole 64-bit register. -/
def regFor (addr size : Nat) : Option RegAt :=
  if size = 4 && addr % 4 = 0 then regAt addr
  else if size = 8 && addr % 8 = 0 then
    match regAt addr with
    | some x => if x.word = 0 && x.row.words = 2 then some x else none
    | none => none
  else none

/-- R17: the requesters' shadows are kept apart. -/
def reqIx : Requester → Nat
  | .host => 0
  | .mgmt => 1
  | .archivist => 2
  | .jtagOwner => 3
  | .jtagVendor => 4

def Dev.access (d : Dev) (r : Requester) : Access := tget Access.init d.acc (reqIx r)
def Dev.upAccess (d : Dev) (r : Requester) (f : Access → Access) : Dev := { d with acc := tup Access.init d.acc (reqIx r) f }

/-- R16, R18: an access to anything but register `off` discards what the requester has pending, and counts it. -/
def Dev.dropPend (d : Dev) (r : Requester) (off : Option Nat) : Dev :=
  let a := d.access r
  if a.pdReg.isSome && a.pdReg != off then (d.upAccess r (fun a => { a with pdReg := none, pend := [] })).accessErr else d

/-- Word `k` of a register's value. -/
def wordOf (v k : Nat) : Nat := v / 2 ^ (32 * k) % 2 ^ 32

/-- R16, R18: the value that a commit makes: pending words, then current ones. -/
def mergeWords (cur : Nat) (pend : Tab (Option Nat)) (n : Nat) : Nat :=
  (List.range n).foldl (fun a k => a + ((tget none pend k).getD (wordOf cur k)) * 2 ^ (32 * k)) 0

/-- R11, R16–R18: a read. An access that reaches no register reads zero and is counted. -/
def regRead (v : VendorFuses) (w : OwnerFuses) (d : Dev) (r : Requester) (addr size : Nat) : Dev × Nat :=
  match regFor addr size with
  | none => ((d.dropPend r none).accessErr, 0)
  | some x =>
    let d := d.dropPend r (some x.off)
    let cur := x.row.rd { v := v, w := w, d := d, r := r } x.ix
    let n := x.row.words
    let a := d.access r
    let clear := fun (d : Dev) => d.upAccess r (fun a => if a.shReg = some x.off then { a with shReg := none, shadow := [] } else a)
    if size = 8 then (clear d, cur % 2 ^ 64)
    else if n = 1 then (d, cur % 2 ^ 32)
    else if x.word = 0 then
      (d.upAccess r (fun a => { a with shReg := some x.off, shadow := (List.range (n - 1)).map (fun k => wordOf cur (k + 1)) }), wordOf cur 0)
    else if a.shReg = some x.off then (if n = 2 then clear d else d, a.shadow.getD (x.word - 1) 0)
    else (d, wordOf cur x.word)

/-- R11, R14, R16–R18: a write. -/
def regWrite (v : VendorFuses) (w : OwnerFuses) (d : Dev) (r : Requester) (addr size value : Nat) : Dev :=
  match regFor addr size with
  | none => (d.dropPend r none).accessErr
  | some x =>
    let d := d.dropPend r (some x.off)
    let n := x.row.words
    let d := if n = 2 then d.upAccess r (fun a => if a.shReg = some x.off then { a with shReg := none, shadow := [] } else a) else d
    if !x.row.who.may r then d.accessErr
    else if x.row.lock && d.sec.locked then d.raise 0xD400 (addr % 2 ^ 32)
    else
      let put := fun (d : Dev) (val : Nat) (ws : List Nat) =>
        x.row.wr { v := v, w := w, d := d.upAccess r (fun a => { a with pdReg := none, pend := [] }), r := r } x.ix val ws
      let value := value % 2 ^ (8 * size)
      if size = 8 then put d value [0, 1]
      else if x.word + 1 < n then
        d.upAccess r (fun a => { a with pdReg := some x.off, pend := tset none a.pend x.word (some value) })
      else
        let p := tset none (d.access r).pend x.word (some value)
        put d (mergeWords (x.row.rd { v := v, w := w, d := d, r := r } x.ix) p n) (p.map (·.1))

/-- R395: JTAG reaches the registers in the OWNER and VENDOR debug states only. -/
def Dev.reaches (d : Dev) (r : Requester) : Bool :=
  match r with
  | .jtagOwner => decide (1 ≤ d.sec.debug)
  | .jtagVendor => d.sec.debug == 2
  | _ => true

/-- R11: a write of a register that has no row of its own. -/
def doRegisterWrite (v : VendorFuses) (w : OwnerFuses) (d : Dev) (r : Requester) (addr size value : Nat) : Dev :=
  if d.reaches r then regWrite v w d r addr size value else d

/-- R16: a read of a register. -/
def doRegisterLowWordRead (v : VendorFuses) (w : OwnerFuses) (d : Dev) (r : Requester) (addr size : Nat) : Dev :=
  if d.reaches r then
    let (d, x) := regRead v w d r addr size
    d.emit (.regData r addr x)
  else d

/-- R16, R17: a command that is a write of one register by requester `r`: JTAG must reach it, and it discards what `r` has pending. -/
def Dev.regCommand (d : Dev) (r : Requester) (f : Dev → Dev) : Dev := if d.reaches r then f (d.dropPend r none) else d

/-! ### Through a register region (R277) -/

/-- R277: the pieces of an access: 8 bytes at once where they make a 64-bit register. -/
def regCuts : Nat → Nat → Nat → List (Nat × Nat)
  | 0, _, _ => []
  | fuel + 1, a, n =>
    if n < 4 then []
    else if 8 ≤ n && (regFor a 8).isSome then (a, 8) :: regCuts fuel (a + 8) (n - 8)
    else (a, 4) :: regCuts fuel (a + 4) (n - 4)

def regWrites (v : VendorFuses) (w : OwnerFuses) (r : Requester) : List (Nat × Nat) → Bytes → Dev → Dev
  | [], _, d => d
  | (a, n) :: l, bs, d => regWrites v w r l (bs.drop n) (regWrite v w d r a n (le bs 0 n))

def regReads (v : VendorFuses) (w : OwnerFuses) (r : Requester) : List (Nat × Nat) → Dev → Dev × Bytes
  | [], d => (d, [])
  | (a, n) :: l, d =>
    let (d, x) := regRead v w d r a n
    let (d, bs) := regReads v w r l d
    (d, leBytes n x ++ bs)

/-- R277: length and alignment. -/
def regForm (addr len : Nat) : Bool := decide (len ≤ 4096) && len % 4 == 0 && addr % 4 == 0

/-- R276, R277, R279, R280: RDMA WRITE through a register region. -/
def doRdmaWriteRegister (v : VendorFuses) (w : OwnerFuses) (d : Dev) (h : Roce) (bs : Bytes) : Dev :=
  if !d.kindIs h bs.length 2 true then d
  else d.roce h (packets bs.length) .count (fun d =>
    if !regForm h.addr bs.length then (d, 0x61)
    else d.viaRegion h bs.length true (fun d _ => (regWrites v w .host (regCuts 1024 h.addr bs.length) bs d, 0))) (fun d => d.ack h)

/-- R276, R277, R279, R280: RDMA READ through a register region. -/
def doRdmaReadRegister (v : VendorFuses) (w : OwnerFuses) (d : Dev) (h : Roce) (len : Nat) : Dev :=
  if !d.kindIs h len 2 false then d
  else d.roce h (packets len) .run (fun d =>
    if !regForm h.addr len then (d, 0x61)
    else d.viaRegion h len false (fun d _ =>
      let (d, bs) := regReads v w .host (regCuts 1024 h.addr len) d
      (d.emit (.roceData h.qp h.psn bs), 0))) id

/-! ### By Novvan (R426) -/

def pathReq (m : Novvan) : Requester := if m.path then .mgmt else .host

/-- R426: consecutive 32-bit accesses. -/
def words32 (addr n : Nat) : List (Nat × Nat) := (List.range n).map (fun k => (addr + 4 * k, 4))

def regCountBad (n : Nat) : Bool := n == 0 || decide (64 < n)

/-- R426: REG_READ. -/
def doRegRead (v : VendorFuses) (w : OwnerFuses) (d : Dev) (m : Novvan) (addr n : Nat) : Dev :=
  d.request 0x10 true { m with bad := m.bad || regCountBad n } (fun d =>
    let (d, bs) := regReads v w (pathReq m) (words32 addr n) d
    (d, stOk, 0, bs))

/-- R426: REG_WRITE. -/
def doRegWrite (v : VendorFuses) (w : OwnerFuses) (d : Dev) (m : Novvan) (addr : Nat) (xs : List Nat) : Dev :=
  d.request 0x11 true { m with bad := m.bad || regCountBad xs.length } (fun d =>
    (regWrites v w (pathReq m) (words32 addr xs.length) (xs.flatMap (leBytes 4)) d, stOk, 0, []))

end Sys2Proof.Machine
end

