-- ==== Sys2Proof/Machine/Act.lean ====
section
/-! DEFINITION. How a command acts on the state: the shapes that the meanings share beside onDev (Ops.lean), onDevN and onWork
(Notify.lean). -/

namespace Sys2Proof.Machine

/-- R336: as onWork, for a command whose effect may change a partition's state or an error pin. -/
def onWorkN (s : State) (f : Dev → Dev) : Ans := onDevN s (fun d => if d.thm.hold then d else f d)

/-- R16, R17: a command that is one register write by requester `r`. -/
def onReg (s : State) (r : Requester) (f : Dev → Dev) : Ans := onDevN s (fun d => d.regCommand r f)

/-- R412, R413: an update command, by register or by message. -/
def onVia (s : State) (via : Via) (f : Dev → Dev) : Ans :=
  match via with
  | .register r => onReg s r f
  | .message _ => onDevN s f

/-- R389: a command that may program owner fuses. -/
def onOwner (s : State) (x : OwnerFuses × Dev) : Ans := .next { s with owner := x.1, dev := Dev.report s.dev x.2 }

end Sys2Proof.Machine
end

