-- ==== Sys2Proof/Machine/ExecCells.lean ====
section
/-! DEFINITION. The meanings of the commands of this family: registers, pattern instructions, streams, runs, carrels, ledger, performance and trace (R11–R29, R83–R111). Each names
the operation that its rule describes; a unit that the device does not have faults. -/

namespace Sys2Proof.Machine

/-- REGISTER_WRITE (R11). -/
def execRegisterWrite (r : Requester) (addr size value : Nat) (s : State) : Ans :=
  onDevN s (fun d => doRegisterWrite s.vendor s.owner d r addr size value)

/-- REGISTER_LOW_WORD_READ (R16). -/
def execRegisterLowWordRead (r : Requester) (addr size : Nat) (s : State) : Ans :=
  onDev s (fun d => doRegisterLowWordRead s.vendor s.owner d r addr size)

/-- REFCLK_FAILURE (R29). -/
def execRefclkFailure (s : State) : Ans := onDevN s (fun d => doRefclkFailure s.owner d)

/-- NOP (R100). -/
def execNop (cell : Nat) (o : Opds) (s : State) : Ans := unitOk (decide (cell < 1024)) (onWork s (fun d => doNop d cell o))

/-- END (R100). -/
def execEndRun (cell : Nat) (o : Opds) (s : State) : Ans := unitOk (decide (cell < 1024)) (onWork s (fun d => doEndRun d cell o))

/-- JMP (R100). -/
def execJmp (cell : Nat) (o : Opds) (s : State) : Ans := unitOk (decide (cell < 1024)) (onWork s (fun d => doJmp d cell o))

/-- LOOP (R100). -/
def execLoop (cell : Nat) (o : Opds) (s : State) : Ans := unitOk (decide (cell < 1024)) (onWork s (fun d => doLoop d cell o))

/-- BNZ (R100). -/
def execBnz (cell : Nat) (o : Opds) (s : State) : Ans := unitOk (decide (cell < 1024)) (onWork s (fun d => doBnz d cell o))

/-- WAIT (R100). -/
def execWait (cell : Nat) (o : Opds) (s : State) : Ans := unitOk (decide (cell < 1024)) (onWork s (fun d => doWait d cell o))

/-- INCR (R100). -/
def execIncr (cell : Nat) (o : Opds) (s : State) : Ans := unitOk (decide (cell < 1024)) (onWork s (fun d => doIncr d cell o))

/-- RAISE (R100). -/
def execRaise (cell : Nat) (o : Opds) (s : State) : Ans := unitOk (decide (cell < 1024)) (onWork s (fun d => doRaise d cell o))

/-- RECV (R100). -/
def execRecv (cell : Nat) (o : Opds) (e : Ecc) (s : State) : Ans := unitOk (decide (cell < 1024)) (onWork s (fun d => doRecv d cell o e))

/-- SEND (R100). -/
def execSend (cell : Nat) (o : Opds) (e : Ecc) (s : State) : Ans := unitOk (decide (cell < 1024)) (onWork s (fun d => doSend d cell o e))

/-- DMAIN (R100). -/
def execDmain (cell : Nat) (o : Opds) (e : Ecc) (s : State) : Ans := unitOk (decide (cell < 1024)) (onWork s (fun d => doDmain d cell o e))

/-- DMAOUT (R100). -/
def execDmaout (cell : Nat) (o : Opds) (e : Ecc) (s : State) : Ans := unitOk (decide (cell < 1024)) (onWork s (fun d => doDmaout d cell o e))

/-- LDW (R100). -/
def execLdw (cell : Nat) (o : Opds) (e : Ecc) (s : State) : Ans := unitOk (decide (cell < 1024)) (onWork s (fun d => doLdw d cell o e))

/-- VLD (R93). -/
def execVld (cell : Nat) (o : Opds) (e : Ecc) (s : State) : Ans := unitOk (decide (cell < 1024)) (onWork s (fun d => doVld d cell o e))

/-- VST (R100). -/
def execVst (cell : Nat) (o : Opds) (e : Ecc) (s : State) : Ans := unitOk (decide (cell < 1024)) (onWork s (fun d => doVst d cell o e))

/-- MMA (R87). -/
def execMma (cell : Nat) (o : Opds) (e : Ecc) (s : State) : Ans := unitOk (decide (cell < 1024)) (onWork s (fun d => doMma d cell o e))

/-- ACLR (R100). -/
def execAclr (cell : Nat) (o : Opds) (s : State) : Ans := unitOk (decide (cell < 1024)) (onWork s (fun d => doAclr d cell o))

/-- ACRD (R90). -/
def execAcrd (cell : Nat) (o : Opds) (s : State) : Ans := unitOk (decide (cell < 1024)) (onWork s (fun d => doAcrd d cell o))

/-- ACWR (R100). -/
def execAcwr (cell : Nat) (o : Opds) (s : State) : Ans := unitOk (decide (cell < 1024)) (onWork s (fun d => doAcwr d cell o))

/-- VADD (R91). -/
def execVadd (cell : Nat) (o : Opds) (s : State) : Ans := unitOk (decide (cell < 1024)) (onWork s (fun d => doVadd d cell o))

/-- VMUL (R91). -/
def execVmul (cell : Nat) (o : Opds) (s : State) : Ans := unitOk (decide (cell < 1024)) (onWork s (fun d => doVmul d cell o))

/-- VFMA (R91). -/
def execVfma (cell : Nat) (o : Opds) (s : State) : Ans := unitOk (decide (cell < 1024)) (onWork s (fun d => doVfma d cell o))

/-- VMAX (R91). -/
def execVmax (cell : Nat) (o : Opds) (s : State) : Ans := unitOk (decide (cell < 1024)) (onWork s (fun d => doVmax d cell o))

/-- VMIN (R91). -/
def execVmin (cell : Nat) (o : Opds) (s : State) : Ans := unitOk (decide (cell < 1024)) (onWork s (fun d => doVmin d cell o))

/-- VEXP2 (R91). -/
def execVexp2 (cell : Nat) (o : Opds) (s : State) : Ans := unitOk (decide (cell < 1024)) (onWork s (fun d => doVexp2 d cell o))

/-- VLOG2 (R91). -/
def execVlog2 (cell : Nat) (o : Opds) (s : State) : Ans := unitOk (decide (cell < 1024)) (onWork s (fun d => doVlog2 d cell o))

/-- VRCP (R91). -/
def execVrcp (cell : Nat) (o : Opds) (s : State) : Ans := unitOk (decide (cell < 1024)) (onWork s (fun d => doVrcp d cell o))

/-- VRSQRT (R91). -/
def execVrsqrt (cell : Nat) (o : Opds) (s : State) : Ans := unitOk (decide (cell < 1024)) (onWork s (fun d => doVrsqrt d cell o))

/-- VRSUM (R92). -/
def execVrsum (cell : Nat) (o : Opds) (s : State) : Ans := unitOk (decide (cell < 1024)) (onWork s (fun d => doVrsum d cell o))

/-- VRMAX (R92). -/
def execVrmax (cell : Nat) (o : Opds) (s : State) : Ans := unitOk (decide (cell < 1024)) (onWork s (fun d => doVrmax d cell o))

/-- VQNT (R93). -/
def execVqnt (cell : Nat) (o : Opds) (e : Ecc) (s : State) : Ans := unitOk (decide (cell < 1024)) (onWork s (fun d => doVqnt d cell o e))

/-- VSPLAT (R100). -/
def execVsplat (cell : Nat) (o : Opds) (s : State) : Ans := unitOk (decide (cell < 1024)) (onWork s (fun d => doVsplat d cell o))

/-- SETI (R100). -/
def execSeti (cell : Nat) (o : Opds) (s : State) : Ans := unitOk (decide (cell < 1024)) (onWork s (fun d => doSeti d cell o))

/-- ADDI (R100). -/
def execAddi (cell : Nat) (o : Opds) (s : State) : Ans := unitOk (decide (cell < 1024)) (onWork s (fun d => doAddi d cell o))

/-- ADD (R100). -/
def execAdd (cell : Nat) (o : Opds) (s : State) : Ans := unitOk (decide (cell < 1024)) (onWork s (fun d => doAdd d cell o))

/-- MULI (R100). -/
def execMuli (cell : Nat) (o : Opds) (s : State) : Ans := unitOk (decide (cell < 1024)) (onWork s (fun d => doMuli d cell o))

/-- STREAM_WORD_HOP (R103). -/
def execStreamWordHop (chan dst : Nat) (badParity : Bool) (s : State) : Ans := onWork s (fun d => doStreamWordHop d chan dst badParity)

/-- RUN_END (R83). -/
def execRunEnd (queue index : Nat) (s : State) : Ans := unitOk (decide (queue < 32768)) (onWork s (fun d => doRunEnd d queue index))

/-- CARREL_SCRUB (R107). -/
def execCarrelScrub (slot : Nat) (e : Ecc) (s : State) : Ans := unitOk (decide (slotIx slot)) (onDev s (fun d => doCarrelScrub d slot e))

/-- LEDGER_CLEAR_SAT (R108). -/
def execLedgerClearSat (r : Requester) (part : Nat) (s : State) : Ans :=
  unitOk (decide (part < 16)) (onReg s r (fun d => doLedgerClear d part (fun p => { p with sat := 0, satOvf := false })))

/-- LEDGER_CLEAR_NAN (R108). -/
def execLedgerClearNan (r : Requester) (part : Nat) (s : State) : Ans :=
  unitOk (decide (part < 16)) (onReg s r (fun d => doLedgerClear d part (fun p => { p with nan := 0, nanOvf := false })))

/-- LEDGER_CLEAR_INV (R108). -/
def execLedgerClearInv (r : Requester) (part : Nat) (s : State) : Ans :=
  unitOk (decide (part < 16)) (onReg s r (fun d => doLedgerClear d part (fun p => { p with inv := 0, invOvf := false })))

/-- LEDGER_CLEAR_RESIDUE (R108). -/
def execLedgerClearResidue (r : Requester) (part : Nat) (s : State) : Ans :=
  unitOk (decide (part < 16)) (onReg s r (fun d => doLedgerClear d part (fun p => { p with residue := 0, resOvf := false })))

/-- LEDGER_CLEAR_TRIPS (R108). -/
def execLedgerClearTrips (r : Requester) (part : Nat) (s : State) : Ans :=
  unitOk (decide (part < 16)) (onReg s r (fun d => doLedgerClear d part (fun p => { p with trips := 0 })))

/-- PERF_FREEZE (R111). -/
def execPerfFreeze (r : Requester) (freeze : Bool) (s : State) : Ans := onReg s r (fun d => doPerfFreeze d r freeze)

/-- PERF_CLEAR (R111). -/
def execPerfClear (r : Requester) (part : Nat) (s : State) : Ans := unitOk (decide (part < 16)) (onReg s r (fun d => doPerfClear d r part))

/-- TRACE_READ_ADVANCE (R111). -/
def execTraceReadAdvance (r : Requester) (read : Nat) (s : State) : Ans := onReg s r (fun d => doTraceReadAdvance d r read)

/-- TRACE_LOST_ENTRY (R110). -/
def execTraceLostEntry (s : State) : Ans := onDev s (fun d => doTraceLostEntry d)

end Sys2Proof.Machine
end

