-- ==== Sys2Proof/Machine/ExecCollectives.lean ====
section
/-! DEFINITION. The meanings of the commands of this family: chunks, sprue values, digests, notices (R246–R268). Each names
the operation that its rule describes; a unit that the device does not have faults. -/

namespace Sys2Proof.Machine

/-- CHUNK_SEND (R246). -/
def execChunkSend (plan : Nat) (e : Ecc) (s : State) : Ans := unitOk (decide (plan < 1024)) (onWorkN s (fun d => doChunkSend d plan e))

/-- CHUNK (R257). -/
def execChunk (ladle : Nat) (pkt : Packet) (e : Ecc) (s : State) : Ans := unitOk (decide (ladle < 4)) (onWorkN s (fun d => doChunk d ladle pkt e))

/-- CHUNK_ACK (R257). -/
def execChunkAck (pkt : Packet) (s : State) : Ans := onWorkN s (fun d => doChunkAck d pkt)

/-- CHUNK_RESEND (R258). -/
def execChunkResend (plan : Nat) (note : Bool) (ix : Nat) (e : Ecc) (s : State) : Ans :=
  unitOk (decide (plan < 1024)) (onWorkN s (fun d => doChunkResend d plan note ix e))

/-- SPRUE (R262). -/
def execSprue (pkt : Packet) (s : State) : Ans := onWorkN s (fun d => doSprue d pkt)

/-- DIGEST_PACKET (R260). -/
def execDigestPacket (pkt : Packet) (s : State) : Ans := onWorkN s (fun d => doDigestPacket d pkt)

/-- NOTICE (R265). -/
def execNotice (pkt : Packet) (s : State) : Ans := onWorkN s (fun d => doNotice d pkt)

/-- VERDICT_ROUND (R260). -/
def execVerdictRound (plan : Nat) (s : State) : Ans := unitOk (decide (plan < 1024)) (onWorkN s (fun d => doVerdictRound d plan))

/-- COLLECTIVE_STALL (R266). -/
def execCollectiveStall (plan : Nat) (s : State) : Ans := unitOk (decide (plan < 1024)) (onDevN s (fun d => doCollectiveStall d plan))

/-- LDL_ABORT (R268). -/
def execLdlAbort (r : Requester) (plan : Nat) (s : State) : Ans := unitOk (decide (plan < 1024)) (onReg s r (fun d => doLdlAbort d r plan))

end Sys2Proof.Machine
end

