-- ==== Sys2Proof/Machine/ExecCooling.lean ====
section
/-! DEFINITION. The meanings of the commands of this family: cooling: sensors, flow, throttles (R323–R335). Each names
the operation that its rule describes; a unit that the device does not have faults. -/

namespace Sys2Proof.Machine

/-- JUNCTION_SAMPLE (R325). -/
def execJunctionSample (readings : List Int) (bad : List Nat) (s : State) : Ans :=
  onDevN s (fun d => (doJunctionSample d readings bad).resumeTraining)

/-- PACKAGE_SENSOR_SAMPLE (R327). -/
def execPackageSensorSample (readings : List Int) (bad : List Nat) (s : State) : Ans := onDevN s (fun d => doPackageSensorSample d readings bad)

/-- FLOW_RECOVER (R335). -/
def execFlowRecover (s : State) : Ans := onDevN s (fun d => doFlowRecover d)

/-- FLOW_LOSS_TIMEOUT (R335). -/
def execFlowLossTimeout (s : State) : Ans := onDevN s (fun d => doFlowLossTimeout d)

/-- THERMAL_MODEL_UPDATE (R329). -/
def execThermalModelUpdate (watts : List Nat) (s : State) : Ans := onDevN s (fun d => doThermalModelUpdate d watts)

/-- SENSOR_IMPLAUSIBLE (R330). -/
def execSensorImplausible (sensor : Nat) (s : State) : Ans := unitOk (decide (sensor < 84)) (onDevN s (fun d => doSensorImplausible d sensor))

/-- SENSOR_PLAUSIBLE (R330). -/
def execSensorPlausible (sensor : Nat) (s : State) : Ans := unitOk (decide (sensor < 84)) (onDevN s (fun d => doSensorPlausible d sensor))

/-- SENSOR_DISAGREEING (R326). -/
def execSensorDisagreeing (pair : Nat) (s : State) : Ans := unitOk (decide (pair < 34)) (onDevN s (fun d => doSensorDisagreeing d pair))

/-- JUNCTION_THROTTLE_TICK (R332). -/
def execJunctionThrottleTick (quad : Nat) (s : State) : Ans := unitOk (decide (quad < 4)) (onDev s (fun d => doJunctionThrottleTick d quad))

/-- HBM_THROTTLE_TICK (R333). -/
def execHbmThrottleTick (stack : Nat) (s : State) : Ans := unitOk (decide (stack < 16)) (onDev s (fun d => doHbmThrottleTick d stack))

/-- ALLOWANCE_RISE (R324). -/
def execAllowanceRise (s : State) : Ans := onDevN s (fun d => doAllowanceRise d)

/-- TRAY_STALE (R328). -/
def execTrayStale (s : State) : Ans := onDevN s (fun d => doTrayStale d)

end Sys2Proof.Machine
end

