-- ==== Sys2Proof/Machine/ExecFabric.lean ====
section
/-! DEFINITION. The meanings of the commands of this family: links, routing, runners, draining, the gang (R202–R245). Each names
the operation that its rule describes; a unit that the device does not have faults. -/

namespace Sys2Proof.Machine

/-- FLIT_DATA (R205). -/
def execFlitData (port : Nat) (f : Flit) (s : State) : Ans := unitOk (decide (port < 18)) (onDev s (fun d => doFlitData d port f))

/-- FLIT_IDLE (R202). -/
def execFlitIdle (port : Nat) (f : Flit) (s : State) : Ans := unitOk (decide (port < 18)) (onDev s (fun d => doFlitIdle d port f))

/-- FLIT_NAK (R205). -/
def execFlitNak (port : Nat) (f : Flit) (s : State) : Ans := unitOk (decide (port < 18)) (onDev s (fun d => doFlitNak d port f))

/-- FLIT_HELLO (R212). -/
def execFlitHello (port : Nat) (f : Flit) (s : State) : Ans := unitOk (decide (port < 18)) (onDev s (fun d => (doFlitHello d port f).noteTrained))

/-- FLIT_LANEMAP (R208). -/
def execFlitLanemap (port : Nat) (f : Flit) (s : State) : Ans := unitOk (decide (port < 18)) (onDev s (fun d => doFlitLanemap d port f))

/-- NAK_REPEAT (R205). -/
def execNakRepeat (port : Nat) (s : State) : Ans := unitOk (decide (port < 18)) (onDev s (fun d => doNakRepeat d port))

/-- LANE_FAIL (R208). -/
def execLaneFail (port lane : Nat) (cause : LaneCause) (s : State) : Ans :=
  unitOk (decide (port < 18 ∧ lane < 8)) (onDev s (fun d => doLaneFail d port lane cause))

/-- LANEMAP_REPEAT (R208). -/
def execLanemapRepeat (port : Nat) (s : State) : Ans := unitOk (decide (port < 18)) (onDev s (fun d => doLanemapRepeat d port))

/-- LANE_MASK_SWITCH (R208). -/
def execLaneMaskSwitch (port : Nat) (s : State) : Ans := unitOk (decide (port < 18)) (onDev s (fun d => doLaneMaskSwitch d port))

/-- LANE_RETRAIN (R210). -/
def execLaneRetrain (port lane : Nat) (s : State) : Ans := unitOk (decide (port < 18 ∧ lane < 8)) (onDev s (fun d => doLaneRetrain d port lane))

/-- LANE_RESTORE (R210). -/
def execLaneRestore (port lane : Nat) (s : State) : Ans := unitOk (decide (port < 18 ∧ lane < 8)) (onDev s (fun d => doLaneRestore d port lane))

/-- PORT_TRAIN (R211). -/
def execPortTrain (port : Nat) (locked : BitVec 8) (rtt : Nat) (s : State) : Ans :=
  unitOk (decide (port < 18)) (onDev s (fun d => doPortTrain d port locked rtt))

/-- HELLO_SEND (R211). -/
def execHelloSend (port : Nat) (s : State) : Ans := unitOk (decide (port < 18)) (onDev s (fun d => doHelloSend d port))

/-- PORT_LOSS_TIMEOUT (R213). -/
def execPortLossTimeout (port : Nat) (s : State) : Ans := unitOk (decide (port < 18)) (onDev s (fun d => (doPortLossTimeout d port).noteTrained))

/-- PORT_RETRAIN (R213). -/
def execPortRetrain (port : Nat) (locked : BitVec 8) (rtt : Nat) (s : State) : Ans :=
  unitOk (decide (port < 18)) (onDev s (fun d => doPortRetrain d port locked rtt))

/-- LINK_RETRAIN (R215). -/
def execLinkRetrain (r : Requester) (port : Nat) (s : State) : Ans := unitOk (decide (port < 18)) (onReg s r (fun d => doLinkRetrain d port))

/-- LINK_ENABLE (R215). -/
def execLinkEnable (r : Requester) (port : Nat) (on : Bool) (s : State) : Ans :=
  unitOk (decide (port < 18)) (onReg s r (fun d => (doLinkEnable d port on).noteTrained))

/-- PACKET_FORWARD (R222). -/
def execPacketForward (port vc wait : Nat) (s : State) : Ans :=
  unitOk (decide (port < 19 ∧ vc < 8)) (onDevN s (fun d => doPacketForward d port vc wait))

/-- UNREACH (R225). -/
def execUnreach (pkt : Packet) (s : State) : Ans := onDevN s (fun d => doUnreach d pkt)

/-- READ_REQ (R233). -/
def execReadReq (pkt : Packet) (e : Ecc) (s : State) : Ans := onDevN s (fun d => doReadReq d pkt e)

/-- WRITE_REQ (R233). -/
def execWriteReq (pkt : Packet) (s : State) : Ans := onDevN s (fun d => doWriteReq d pkt)

/-- RESP (R233). -/
def execResp (pkt : Packet) (s : State) : Ans := onDevN s (fun d => doResp d pkt)

/-- REQUEST_RESEND (R233). -/
def execRequestResend (dev seq : Nat) (s : State) : Ans := onDev s (fun d => doRequestResend d dev seq)

/-- REQUEST_WITHDRAW_TIMEOUT (R233). -/
def execRequestWithdrawTimeout (dev seq : Nat) (s : State) : Ans := onDev s (fun d => doRequestWithdrawTimeout d dev seq)

/-- SENDER_STATE_EXPIRY (R233). -/
def execSenderStateExpiry (dev : Nat) (s : State) : Ans := onDev s (fun d => doSenderStateExpiry d dev)

/-- RATE_LIMIT_RAISE (R232). -/
def execRateLimitRaise (dev : Nat) (s : State) : Ans := onDev s (fun d => doRateLimitRaise d dev)

/-- RUN_SETUP (R234). -/
def execRunSetup (pkt : Packet) (s : State) : Ans := onDev s (fun d => doRunSetup d pkt)

/-- RUN_SETUP_ANSWER (R234). -/
def execRunSetupAnswer (runner : Nat) (ok : Bool) (s : State) : Ans := onDev s (fun d => doRunSetupAnswer d runner ok)

/-- RUN_TEARDOWN (R236). -/
def execRunTeardown (pkt : Packet) (s : State) : Ans := onDev s (fun d => doRunTeardown d pkt)

/-- RUN_DATA (R235). -/
def execRunData (port wait : Nat) (s : State) : Ans := unitOk (decide (port < 19)) (onDev s (fun d => doRunData d port wait))

/-- DRAIN (R238). -/
def execDrain (r : Requester) (epoch : Nat) (s : State) : Ans := onReg s r (fun d => doDrain d epoch)

/-- DRAIN_COMPLETE (R238). -/
def execDrainComplete (s : State) : Ans := onDev s (fun d => doDrainComplete d)

/-- DRAIN_TIMEOUT (R238). -/
def execDrainTimeout (s : State) : Ans := onDev s (fun d => doDrainTimeout d)

/-- RESUME (R239). -/
def execResume (r : Requester) (epoch : Nat) (s : State) : Ans := onReg s r (fun d => doResume d epoch)

/-- PROTECTED_REGISTER_WRITE (R237). -/
def execProtectedRegisterWrite (r : Requester) (off value : Nat) (s : State) : Ans := onReg s r (fun d => doProtectedRegisterWrite d off value)

/-- GANG_BEACON_SEND (R242). -/
def execGangBeaconSend (s : State) : Ans := onDevN s (fun d => doGangBeaconSend d)

/-- GANG_BEACON (R242). -/
def execGangBeacon (pkt : Packet) (s : State) : Ans := onDevN s (fun d => doGangBeacon d pkt)

/-- GANG_MASTER_TIMEOUT (R242). -/
def execGangMasterTimeout (s : State) : Ans := onDevN s (fun d => doGangMasterTimeout d)

/-- GANG_FOLLOW_TIMEOUT (R243). -/
def execGangFollowTimeout (s : State) : Ans := onDevN s (fun d => doGangFollowTimeout d)

end Sys2Proof.Machine
end

