-- ==== Sys2Proof/Machine/ExecHost.lean ====
section
/-! DEFINITION. The meanings of the commands of this family: Ethernet ports, RDMA, queue pairs, events (R271–R297). Each names
the operation that its rule describes; a unit that the device does not have faults. -/

namespace Sys2Proof.Machine

/-- HOST_LINK_UP (R271). -/
def execHostLinkUp (port : Nat) (s : State) : Ans := unitOk (decide (port < 4)) (onDev s (fun d => (doHostLinkUp d port).noteTrained))

/-- HOST_LINK_DOWN (R286). -/
def execHostLinkDown (port : Nat) (s : State) : Ans := unitOk (decide (port < 4)) (onDev s (fun d => doHostLinkDown d port))

/-- HOST_PORT_RETRAIN (R271). -/
def execHostPortRetrain (r : Requester) (port : Nat) (s : State) : Ans := unitOk (decide (port < 4)) (onReg s r (fun d => doHostPortRetrain d port))

/-- ARP_REQUEST (R272). -/
def execArpRequest (port addr : Nat) (s : State) : Ans := unitOk (decide (port < 4)) (onDev s (fun d => doArpRequest d port addr))

/-- NEIGHBOR_SOLICITATION (R272). -/
def execNeighborSolicitation (port addr : Nat) (s : State) : Ans := unitOk (decide (port < 4)) (onDev s (fun d => doNeighborSolicitation d port addr))

/-- PFC_FRAME (R282). -/
def execPfcFrame (port cls : Nat) (pause : Bool) (s : State) : Ans :=
  unitOk (decide (port < 4 ∧ cls < 3)) (onDev s (fun d => doPfcFrame d port cls pause))

/-- FOREIGN_FRAME (R272). -/
def execForeignFrame (s : State) : Ans := onDev s (fun d => doForeignFrame d)

/-- RDMA_WRITE_MEMORY (R276). -/
def execRdmaWriteMemory (h : Roce) (data : Bytes) (s : State) : Ans := onDev s (fun d => doRdmaWriteMemory d h data)

/-- RDMA_WRITE_DOORBELL (R278). -/
def execRdmaWriteDoorbell (h : Roce) (data : Bytes) (e : Ecc) (s : State) : Ans := onDev s (fun d => doRdmaWriteDoorbell d h data e)

/-- RDMA_WRITE_REGISTER (R277). -/
def execRdmaWriteRegister (h : Roce) (data : Bytes) (s : State) : Ans := onDevN s (fun d => doRdmaWriteRegister s.vendor s.owner d h data)

/-- RDMA_READ_MEMORY (R276). -/
def execRdmaReadMemory (h : Roce) (len : Nat) (e : Ecc) (s : State) : Ans := onDev s (fun d => doRdmaReadMemory d h len e)

/-- RDMA_READ_REGISTER (R277). -/
def execRdmaReadRegister (h : Roce) (len : Nat) (s : State) : Ans := onDev s (fun d => doRdmaReadRegister s.vendor s.owner d h len)

/-- ROCE_SEND (R281). -/
def execRoceSend (h : Roce) (len : Nat) (s : State) : Ans := onDev s (fun d => doRoceSend d h len)

/-- RDMA_READ_RESPONSE (R274). -/
def execRdmaReadResponse (qp psn : Nat) (s : State) : Ans := unitOk (decide (qp < 8192)) (onDev s (fun d => doRdmaReadResponse d qp psn))

/-- ROCE_ACK (R284). -/
def execRoceAck (qp psn syn : Nat) (s : State) : Ans := unitOk (decide (qp < 8192)) (onDevN s (fun d => doRoceAck d qp psn syn))

/-- ROCE_ACK_TIMEOUT (R284). -/
def execRoceAckTimeout (qp : Nat) (s : State) : Ans := unitOk (decide (qp < 8192)) (onDevN s (fun d => doRoceAckTimeout d qp))

/-- CNP (R283). -/
def execCnp (qp : Nat) (s : State) : Ans := unitOk (decide (qp < 8192)) (onDev s (fun d => doCnp d qp))

/-- CNP_RATE_RAISE (R283). -/
def execCnpRateRaise (qp : Nat) (s : State) : Ans := unitOk (decide (qp < 8192)) (onDev s (fun d => doCnpRateRaise d qp))

/-- QP_STATE_WRITE (R275). -/
def execQpStateWrite (r : Requester) (qp state : Nat) (s : State) : Ans :=
  unitOk (decide (qp < 8192)) (onReg s r (fun d => doQpStateWrite d r qp state))

/-- REGION_VALID_SET (R276). -/
def execRegionValidSet (r : Requester) (region : Nat) (s : State) : Ans :=
  unitOk (decide (region < 1024)) (onReg s r (fun d => doRegionValidSet d r region))

/-- EVQ_CONSUMER_WRITE (R285). -/
def execEvqConsumerWrite (r : Requester) (evq value : Nat) (s : State) : Ans :=
  unitOk (decide (evq < 64)) (onReg s r (fun d => doEvqConsumerWrite d r evq value))

/-- EVENT_RAISE (R289). -/
def execEventRaise (value : Nat) (s : State) : Ans := onDev s (fun d => doEventRaise d value)

/-- EVENT_COMPLETE (R290). -/
def execEventComplete (value : Nat) (s : State) : Ans := onDev s (fun d => doEventComplete d value)

/-- EVENT_BATCH (R291). -/
def execEventBatch (group : Nat) (s : State) : Ans := unitOk (decide (group < 256)) (onDev s (fun d => doEventBatch d group))

/-- PFC_PAUSE_EXPIRY (R282). -/
def execPfcPauseExpiry (port cls : Nat) (s : State) : Ans := unitOk (decide (port < 4 ∧ cls < 3)) (onDev s (fun d => doPfcPauseExpiry d port cls))

end Sys2Proof.Machine
end

