-- ==== Sys2Proof/Machine/ExecManagement.lean ====
section
/-! DEFINITION. The meanings of the commands of this family: I3C, MCTP, PLDM, Novvan, tray signals (R422–R433). Each names
the operation that its rule describes; a unit that the device does not have faults. -/

namespace Sys2Proof.Machine

/-- SETDASA (R422). -/
def execSetdasa (static dyn : Nat) (s : State) : Ans := onDev s (fun d => doSetdasa d static dyn)

/-- RSTDAA (R422). -/
def execRstdaa (s : State) : Ans := onDev s (fun d => doRstdaa d)

/-- SETMRL (R422). -/
def execSetmrl (n : Nat) (s : State) : Ans := onDev s (fun d => doSetmrl d n)

/-- SETMWL (R422). -/
def execSetmwl (n : Nat) (s : State) : Ans := onDev s (fun d => doSetmwl d n)

/-- SET_ENDPOINT_ID (R423). -/
def execSetEndpointId (dst eid : Nat) (s : State) : Ans := onDev s (fun d => doSetEndpointId d dst eid)

/-- GET_ENDPOINT_ID (R423). -/
def execGetEndpointId (dst : Nat) (s : State) : Ans := onDev s (fun d => doGetEndpointId d dst)

/-- GET_ENDPOINT_UUID (R423). -/
def execGetEndpointUuid (dst : Nat) (s : State) : Ans := onDev s (fun d => doGetEndpointUuid s.vendor d dst)

/-- GET_MCTP_VERSION_SUPPORT (R423). -/
def execGetMctpVersionSupport (dst type : Nat) (s : State) : Ans := onDev s (fun d => doGetMctpVersionSupport d dst type)

/-- GET_MESSAGE_TYPE_SUPPORT (R423). -/
def execGetMessageTypeSupport (dst : Nat) (s : State) : Ans := onDev s (fun d => doGetMessageTypeSupport d dst)

/-- MCTP_UNSUPPORTED_MESSAGE (R423). -/
def execMctpUnsupportedMessage (s : State) : Ans := onDev s (fun d => doMctpUnsupported d)

/-- GETTID (R424). -/
def execGetTid (s : State) : Ans := onDev s (fun d => doGetTid d)

/-- GETPLDMVERSION (R424). -/
def execGetPldmVersion (type : Nat) (s : State) : Ans := onDev s (fun d => doGetPldmVersion d type)

/-- GETPLDMTYPES (R424). -/
def execGetPldmTypes (s : State) : Ans := onDev s (fun d => doGetPldmTypes d)

/-- GETPLDMCOMMANDS (R424). -/
def execGetPldmCommands (type : Nat) (s : State) : Ans := onDev s (fun d => doGetPldmCommands d type)

/-- GETPDRREPOSITORYINFO (R424). -/
def execGetPdrRepositoryInfo (s : State) : Ans := onDev s (fun d => doGetPdrRepositoryInfo d)

/-- GETPDR (R424). -/
def execGetPdr (s : State) : Ans := onDev s (fun d => doGetPdr d)

/-- GETSENSORREADING (R424). -/
def execGetSensorReading (n : Nat) (s : State) : Ans := onDev s (fun d => doGetSensorReading d n)

/-- GETSTATESENSORREADINGS (R424). -/
def execGetStateSensorReadings (n : Nat) (s : State) : Ans := onDev s (fun d => doGetStateSensorReadings d n)

/-- PLDM_UNSUPPORTED (R424). -/
def execPldmUnsupported (cmd : Nat) (s : State) : Ans := onDev s (fun d => doPldmUnsupported d cmd)

/-- KEEPALIVE (R428). -/
def execKeepalive (m : Novvan) (gen : Nat) (s : State) : Ans := onDevN s (fun d => doKeepalive d m gen)

/-- TRAY_SENSORS (R426). -/
def execTraySensors (m : Novvan) (inlet outlet : Int) (flow : Nat) (s : State) : Ans := onDevN s (fun d => doTraySensors d m inlet outlet flow)

/-- ISOLATE_NOTICE (R433). -/
def execIsolateNotice (m : Novvan) (cause : Nat) (s : State) : Ans := onDevN s (fun d => doIsolateNotice d m cause)

/-- ISOLATE_NOTICE_EXPIRY (R433). -/
def execIsolateNoticeExpiry (s : State) : Ans := onDevN s (fun d => doIsolateNoticeExpiry d)

/-- REG_READ (R426). -/
def execRegRead (m : Novvan) (addr n : Nat) (s : State) : Ans := onDevN s (fun d => doRegRead s.vendor s.owner d m addr n)

/-- REG_WRITE (R426). -/
def execRegWrite (m : Novvan) (addr : Nat) (values : List Nat) (s : State) : Ans := onDevN s (fun d => doRegWrite s.vendor s.owner d m addr values)

/-- BIND (R273). -/
def execBind (m : Novvan) (addrs : List Nat) (port qpn : Nat) (s : State) : Ans := onDevN s (fun d => doBind d m addrs port qpn)

/-- OPTION_WRITE (R346). -/
def execOptionWrite (m : Novvan) (block : Bytes) (s : State) : Ans := onDevN s (fun d => doOptionWrite d m block)

/-- SUBSCRIBE (R430). -/
def execSubscribe (m : Novvan) (mask : BitVec 256) (s : State) : Ans := onDevN s (fun d => doSubscribe d m mask)

/-- NOVVAN_RESET (R426). -/
def execNovvanReset (m : Novvan) (level part target : Nat) (retrain : Bool) (s : State) : Ans :=
  onDevN s (fun d => doNovvanReset s.owner d m level part target retrain)

/-- RECOVER (R426). -/
def execRecover (m : Novvan) (mask : Nat) (s : State) : Ans := onDevN s (fun d => doRecover d m mask)

/-- CAP_SET (R426). -/
def execCapSet (m : Novvan) (watts : Nat) (s : State) : Ans := onDevN s (fun d => doCapSet d m watts)

/-- NOVVAN_ATTEST (R398). -/
def execNovvanAttest (m : Novvan) (kind : Nat) (nonce : Bytes) (s : State) : Ans := onDevN s (fun d => doNovvanAttest d m kind nonce)

/-- CERT_CHAIN (R387). -/
def execCertChain (m : Novvan) (s : State) : Ans := onDevN s (fun d => doCertChain s.vendor d m)

/-- NOTIFICATION_REPLY (R427). -/
def execNotificationReply (cmd tag : Nat) (s : State) : Ans := onDev s (fun d => doNotificationReply d cmd tag)

/-- NOTIFICATION_RESEND (R427). -/
def execNotificationResend (s : State) : Ans := onDev s (fun d => doNotificationResend d)

/-- REPLY_EXPIRY (R427). -/
def execReplyExpiry (cmd tag : Nat) (s : State) : Ans := onDev s (fun d => doReplyExpiry d cmd tag)

/-- ORPHAN_TIMEOUT (R428). -/
def execOrphanTimeout (s : State) : Ans := onDevN s (fun d => doOrphanTimeout d)

/-- EVENTS (R430). -/
def execEvents (s : State) : Ans := onDev s (fun d => doEvents d)

/-- STRAP_SAMPLE (R431). -/
def execStrapSample (straps : Nat) (s : State) : Ans := onDev s (fun d => doStrapSample d straps)

/-- HEARTBEAT (R431). -/
def execHeartbeat (s : State) : Ans := onDev s (fun d => doHeartbeat d)

/-- NOVVAN_RESERVED_COMMAND (R426). -/
def execNovvanReservedCommand (m : Novvan) (code : Nat) (s : State) : Ans := onDevN s (fun d => doReservedCommand d m code)

/-- REPLY_READ (R427). -/
def execReplyRead (note : Bool) (cmd tag : Nat) (s : State) : Ans := onDev s (fun d => doReplyRead d note cmd tag)

end Sys2Proof.Machine
end

