-- ==== Sys2Proof/Machine/ExecMemory.lean ====
section
/-! DEFINITION. The meanings of the commands of this family: HBM stacks, shelves and near-memory units (R172–R192). Each names
the operation that its rule describes; a unit that the device does not have faults. -/

namespace Sys2Proof.Machine

/-- STACK_TEMP_SAMPLE (R173). -/
def execStackTempSample (stack : Nat) (temp : Int) (bad : Bool) (s : State) : Ans :=
  unitOk (decide (stack < 16)) (onDevN s (fun d => (doStackTempSample d stack temp bad).resumeTraining))

/-- SCRUB_READ (R182). -/
def execScrubRead (stack : Nat) (e : Ecc) (s : State) : Ans := unitOk (decide (stack < 16)) (onDev s (fun d => doScrubRead d stack e))

/-- NMU_READ (R183). -/
def execNmuRead (part : Nat) (reader : Reader) (addr len : Nat) (e : Ecc) (s : State) : Ans :=
  unitOk (decide (part < 16)) (onWork s (fun d => doNmuRead d part reader addr len e))

/-- NMU_WRITE (R183). -/
def execNmuWrite (part : Nat) (reader : Reader) (addr : Nat) (data : Bytes) (s : State) : Ans :=
  unitOk (decide (part < 16)) (onWork s (fun d => doNmuWrite d part reader addr data))

/-- ACC_OPEN (R184). -/
def execAccOpen (stack tag addr len n fmt part plan : Nat) (s : State) : Ans :=
  unitOk (decide (stack < 16 ∧ part < 16 ∧ plan < 1024)) (onWork s (fun d => doAccOpen d { stack := stack, tag := tag, addr := addr, length := len, n := n, fmt := fmt, part := part, plan := plan, next := 0, held := [] }))

/-- ACC_APPLY (R185). -/
def execAccApply (stack tag pos : Nat) (data : Bytes) (crc : Nat) (e : Ecc) (s : State) : Ans :=
  unitOk (decide (stack < 16)) (onWorkN s (fun d => doAccApply d stack tag pos data crc e))

/-- ACC_ABORT (R187). -/
def execAccAbort (stack tag : Nat) (s : State) : Ans := unitOk (decide (stack < 16)) (onWork s (fun d => doAccAbort d stack tag))

/-- XCODE (R188). -/
def execXcode (queue index src dst n fa fb : Nat) (e : Ecc) (s : State) : Ans :=
  unitOk (decide (queue < 32768)) (onWork s (fun d => doXcode d queue index src dst n fa fb e))

/-- GROW (R190). -/
def execGrow (part table index row dst : Nat) (scatter : Bool) (e : Ecc) (s : State) : Ans :=
  unitOk (decide (part < 16)) (onWork s (fun d => doGrow d part table index row dst scatter e))

/-- DIGEST (R191). -/
def execDigest (part region addr len : Nat) (e : Ecc) (s : State) : Ans :=
  unitOk (decide (part < 16 ∧ region < 64)) (onWork s (fun d => doDigest d part region addr len e))

/-- ZERO (R183). -/
def execZero (page : Bool) (n : Nat) (s : State) : Ans := unitOk (decide (n < (if page then 512 else 16))) (onWork s (fun d => doZero d page n))

/-- REGION_CLEAR (R192). -/
def execRegionClear (r : Requester) (part : Nat) (s : State) : Ans := unitOk (decide (part < 16)) (onReg s r (fun d => doRegionClear d r part))

end Sys2Proof.Machine
end

