-- ==== Sys2Proof/Machine/ExecPower.lean ====
section
/-! DEFINITION. The meanings of the commands of this family: power: samples, caps, setpoints, the gang budget (R300–R318, R432). Each names
the operation that its rule describes; a unit that the device does not have faults. -/

namespace Sys2Proof.Machine

/-- POWER_SAMPLE (R300). -/
def execPowerSample (watts vmain avail : Nat) (s : State) : Ans := onDevN s (fun d => doPowerSample d watts vmain avail)

/-- MEASUREMENT_FAULT_CLEAR (R302). -/
def execMeasurementFaultClear (gain : Nat) (s : State) : Ans := onDevN s (fun d => doMeasurementFaultClear d gain)

/-- POWER_ESTIMATE (R301). -/
def execPowerEstimate (quads : List Nat) (other : Nat) (att : List (Consumer × Nat)) (s : State) : Ans :=
  onDevN s (fun d => doPowerEstimate d quads other att)

/-- EFFECTIVE_CAP_RECOMPUTE (R303). -/
def execEffectiveCapRecompute (s : State) : Ans := onDevN s (fun d => doEffectiveCapRecompute d)

/-- CAP_HOST_WRITE (R304). -/
def execCapHostWrite (r : Requester) (watts : Nat) (s : State) : Ans := onReg s r (fun d => doCapHostWrite d r watts)

/-- CAP_MGMT_WRITE (R304). -/
def execCapMgmtWrite (r : Requester) (watts : Nat) (s : State) : Ans := onReg s r (fun d => doCapMgmtWrite d r watts)

/-- SETPOINT_STEP (R310). -/
def execSetpointStep (quad rate : Nat) (s : State) : Ans := unitOk (decide (quad < 4)) (onDev s (fun d => doSetpointStep d quad rate))

/-- PULSE_PERIOD (R308). -/
def execPulsePeriod (quad n : Nat) (s : State) : Ans := unitOk (decide (quad < 4)) (onDev s (fun d => doPulsePeriod d quad n))

/-- DROOP_START (R311). -/
def execDroopStart (quad : Nat) (s : State) : Ans := unitOk (decide (quad < 4)) (onDev s (fun d => doDroopStart d quad))

/-- DROOP_END (R311). -/
def execDroopEnd (quad us : Nat) (s : State) : Ans := unitOk (decide (quad < 4)) (onDev s (fun d => doDroopEnd d quad us))

/-- SLACK_REPORT (R316). -/
def execSlackReport (slack : Nat) (s : State) : Ans := onDev s (fun d => doSlackReport d slack)

/-- GANG_POWER_ROUND (R316). -/
def execGangPowerRound (s : State) : Ans := onDevN s (fun d => doGangPowerRound d)

/-- SLACK (R318). -/
def execSlack (pkt : Packet) (s : State) : Ans := onDevN s (fun d => doSlack d pkt)

/-- ALLOC (R318). -/
def execAlloc (pkt : Packet) (s : State) : Ans := onDevN s (fun d => doAlloc d pkt)

/-- ALLOC_ACK (R318). -/
def execAllocAck (pkt : Packet) (s : State) : Ans := onDevN s (fun d => doAllocAck d pkt)

/-- ALLOC_ACK_TIMEOUT (R316). -/
def execAllocAckTimeout (s : State) : Ans := onDevN s (fun d => doAllocAckTimeout d)

/-- CAP_EMERG_ASSERT (R432). -/
def execCapEmergAssert (s : State) : Ans := onDevN s (fun d => doCapEmergAssert d)

/-- CAP_EMERG_RELEASE (R432). -/
def execCapEmergRelease (s : State) : Ans := onDevN s (fun d => doCapEmergRelease d)

end Sys2Proof.Machine
end

