-- ==== Sys2Proof/Machine/ExecReset.lean ====
section
/-! DEFINITION. The meanings of the commands of this family: resets, bring-up, tests, recovery (R340–R370, R433, R437). Each names
the operation that its rule describes; a unit that the device does not have faults. -/

namespace Sys2Proof.Machine

/-- POR (R342). -/
def execPor (straps : Nat) (s : State) : Ans := onDevN s (fun d => doPor s.owner d straps)

/-- BOR (R342). -/
def execBor (s : State) : Ans := onDevN s (fun d => doBor s.owner d)

/-- PIN_RESET (R342). -/
def execPinReset (s : State) : Ans := onDevN s (fun d => doPinReset s.owner d)

/-- PIN_RESET_RELEASE (R345). -/
def execPinResetRelease (s : State) : Ans := onDevN s (fun d => doPinResetRelease d)

/-- WDT_EXPIRY (R342). -/
def execWdtExpiry (limit : Bool) (s : State) : Ans := onDevN s (fun d => doWdtExpiry s.owner d limit)

/-- LOCK_UP (R342). -/
def execLockUp (s : State) : Ans := onDevN s (fun d => doLockUp s.owner d)

/-- JTAG_RESET (R342). -/
def execJtagReset (s : State) : Ans := onDevN s (fun d => doJtagReset s.owner d)

/-- RST_CMD_L0 (R359). -/
def execRstCmdL0 (r : Requester) (cell : Nat) (s : State) : Ans := unitOk (decide (cell < 1024)) (onReg s r (fun d => doRstCmdL0 s.owner d r cell))

/-- RST_CMD_L1 (R359). -/
def execRstCmdL1 (r : Requester) (cluster : Nat) (s : State) : Ans :=
  unitOk (decide (cluster < 64)) (onReg s r (fun d => doRstCmdL1 s.owner d r cluster))

/-- RST_CMD_L2 (R359). -/
def execRstCmdL2 (r : Requester) (part : Nat) (retrain : Bool) (s : State) : Ans :=
  unitOk (decide (part < 16)) (onReg s r (fun d => doRstCmdL2 s.owner d r part retrain))

/-- RST_CMD_L3 (R359). -/
def execRstCmdL3 (r : Requester) (s : State) : Ans := onReg s r (fun d => doRstCmdL3 s.owner d r)

/-- IDLE_REACHED (R344). -/
def execIdleReached (level unit : Nat) (s : State) : Ans := onDevN s (fun d => doIdleReached s.owner d level unit)

/-- IDLE_TIMEOUT (R344). -/
def execIdleTimeout (level unit : Nat) (s : State) : Ans := onDevN s (fun d => doIdleTimeout s.owner d level unit)

/-- RESET_COMPLETE (R350). -/
def execResetComplete (level unit : Nat) (s : State) : Ans := onDevN s (fun d => doResetComplete d level unit)

/-- ARCHIVIST_BOOT (R349). -/
def execArchivistBoot (s : State) : Ans := onDevN s (fun d => doArchivistBoot s.vendor s.owner d)

/-- HBM_TRAINING_DONE (R349). -/
def execHbmTrainingDone (stack : Nat) (ok : Bool) (s : State) : Ans := unitOk (decide (stack < 16)) (onDevN s (fun d => doHbmTrainingDone d stack ok))

/-- READY (R349). -/
def execReady (s : State) : Ans := onOwner s (doReady s.owner s.dev)

/-- SPARE_TEST_ROUND (R353). -/
def execSpareTestRound (s : State) : Ans := onDevN s (fun d => doSpareTestRound d)

/-- SUSPECT_SLOT_TEST (R353). -/
def execSuspectSlotTest (slot : Nat) (s : State) : Ans := unitOk (decide (slotIx slot)) (onDevN s (fun d => doSuspectSlotTest d slot))

/-- CAT_SUSPECT (R356). -/
def execCatSuspect (r : Requester) (cell : Nat) (s : State) : Ans := unitOk (decide (cell < 1024)) (onReg s r (fun d => doCatSuspect d r cell))

/-- CAT_SLOT_CLEAR (R355). -/
def execCatSlotClear (r : Requester) (slot : Nat) (s : State) : Ans := unitOk (decide (slotIx slot)) (onReg s r (fun d => doCatSlotClear d r slot))

/-- CELL_STALL (R361). -/
def execCellStall (cell : Nat) (s : State) : Ans := unitOk (decide (cell < 1024)) (onDevN s (fun d => doCellStall d cell))

/-- RECOVER_CMD (R369). -/
def execRecoverCmd (r : Requester) (mask : Nat) (s : State) : Ans := onReg s r (fun d => doRecoverCmd d r mask)

/-- FENCE_DRAIN_END (R364). -/
def execFenceDrainEnd (part : Nat) (s : State) : Ans := unitOk (decide (part < 16)) (onDevN s (fun d => doFenceDrainEnd d part))

/-- HANG_RECORD_ASSEMBLED (R366). -/
def execHangRecordAssembled (part : Nat) (s : State) : Ans := unitOk (decide (part < 16)) (onDevN s (fun d => doHangRecordAssembled d part))

/-- HANG_EXPORT_COMPLETE (R367). -/
def execHangExportComplete (part : Nat) (s : State) : Ans := unitOk (decide (part < 16)) (onDevN s (fun d => doHangExportComplete d part))

/-- HANG_EXPORT_TIMEOUT (R367). -/
def execHangExportTimeout (part n : Nat) (s : State) : Ans := unitOk (decide (part < 16)) (onDevN s (fun d => doHangExportTimeout d part n))

/-- RESET_L2_FAILURE (R370). -/
def execResetL2Failure (part : Nat) (s : State) : Ans := unitOk (decide (part < 16)) (onDevN s (fun d => doResetL2Failure s.owner d part))

/-- VMAIN_LOSS (R433). -/
def execVmainLoss (s : State) : Ans := onDevN s (fun d => doVmainLoss d)

/-- VMAIN_RESTORE (R342). -/
def execVmainRestore (s : State) : Ans := onDevN s (fun d => doVmainRestore s.owner d)

/-- REFCLK_RETURN (R29). -/
def execRefclkReturn (s : State) : Ans := onDevN s (fun d => doRefclkReturn d)

/-- VBKP_LOSS (R437). -/
def execVbkpLoss (s : State) : Ans := onDevN s (fun d => doVbkpLoss d)

/-- VBKP_RETURN (R438). -/
def execVbkpReturn (s : State) : Ans := onDevN s (fun d => doVbkpReturn d)

end Sys2Proof.Machine
end

