-- ==== Sys2Proof/Machine/ExecSecurity.lean ====
section
/-! DEFINITION. The meanings of the commands of this family: owner commands, presence, attestation, firmware update (R387–R415). Each names
the operation that its rule describes; a unit that the device does not have faults. -/

namespace Sys2Proof.Machine

/-- ENROL_KEY (R390). -/
def execEnrolKey (m : Novvan) (slot hash stuck : Nat) (sg : OwnerSig) (s : State) : Ans :=
  unitOk (decide (slot < 4)) (onOwner s (doEnrolKey s.vendor s.owner s.dev m slot hash stuck sg))

/-- REVOKE_SLOT (R390). -/
def execRevokeSlot (m : Novvan) (slot stuck : Nat) (sg : OwnerSig) (s : State) : Ans :=
  unitOk (decide (slot < 4)) (onOwner s (doRevokeSlot s.vendor s.owner s.dev m slot stuck sg))

/-- PROGRAM_OWNER_FUSE (R389). -/
def execProgramOwnerFuse (m : Novvan) (field value stuck : Nat) (sg : OwnerSig) (s : State) : Ans :=
  onOwner s (doProgramOwnerFuse s.vendor s.owner s.dev m field value stuck sg)

/-- TIGHTEN_POLICY (R394). -/
def execTightenPolicy (m : Novvan) (policy slots : Nat) (sg : OwnerSig) (s : State) : Ans :=
  onOwner s (doTightenPolicy s.vendor s.owner s.dev m policy slots sg)

/-- RELAX_POLICY (R394). -/
def execRelaxPolicy (m : Novvan) (policy slots : Nat) (sg : OwnerSig) (s : State) : Ans :=
  onOwner s (doRelaxPolicy s.vendor s.owner s.dev m policy slots sg)

/-- DEBUG_UNLOCK_OWNER (R395). -/
def execDebugUnlockOwner (m : Novvan) (sg : OwnerSig) (s : State) : Ans := onOwner s (doDebugUnlockOwner s.vendor s.owner s.dev m sg)

/-- DEBUG_UNLOCK_VENDOR (R395). -/
def execDebugUnlockVendor (m : Novvan) (key token : Bytes) (s : State) : Ans := onOwner s (doDebugUnlockVendor s.vendor s.owner s.dev m key token)

/-- RECOVERY_MODE_ENTRY (R418). -/
def execRecoveryModeEntry (m : Novvan) (sg : OwnerSig) (s : State) : Ans := onOwner s (doRecoveryModeEntry s.vendor s.owner s.dev m sg)

/-- CLEAR_AUDIT_COUNTERS (R390). -/
def execClearAuditCounters (m : Novvan) (sg : OwnerSig) (s : State) : Ans := onOwner s (doClearAuditCounters s.vendor s.owner s.dev m sg)

/-- ACKNOWLEDGE_SEAL_BREAK (R393). -/
def execAcknowledgeSealBreak (m : Novvan) (sg : OwnerSig) (s : State) : Ans := onOwner s (doAcknowledgeSealBreak s.vendor s.owner s.dev m sg)

/-- PRESENCE_ASSERTION (R392). -/
def execPresenceAssertion (s : State) : Ans := onDevN s (fun d => doPresenceAssertion d)

/-- SEAL_CHECK (R393). -/
def execSealCheck (follows : Bool) (s : State) : Ans := onDevN s (fun d => doSealCheck d follows)

/-- ATTEST_REPORT_COMPLETE (R401). -/
def execAttestReportComplete (delayed : Bool) (s : State) : Ans := onDevN s (fun d => doAttestReportComplete s.vendor s.owner d delayed)

/-- ARC_LOCK (R402). -/
def execArcLock (r : Requester) (s : State) : Ans := onReg s r (fun d => doArcLock d r)

/-- FOLIO_HEADER (R408). -/
def execFolioHeader (m : Novvan) (data : Bytes) (s : State) : Ans := onDevN s (fun d => doFolioHeader s.vendor s.owner d m data)

/-- FOLIO_DATA (R409). -/
def execFolioData (m : Novvan) (ident ix : Nat) (data : Bytes) (stuck : Bool) (s : State) : Ans :=
  onDevN s (fun d => doFolioData s.owner d m ident ix data stuck)

/-- UPDATE_ABORT (R412). -/
def execUpdateAbort (via : Via) (s : State) : Ans := onVia s via (fun d => doUpdateAbort d via)

/-- UPDATE_ACTIVATE (R413). -/
def execUpdateActivate (via : Via) (s : State) : Ans := onVia s via (fun d => doUpdateActivate s.owner d via)

/-- BANK_SYNC_COMPLETE (R415). -/
def execBankSyncComplete (s : State) : Ans := onDevN s (fun d => doBankSyncComplete d)

/-- PP_N_RELEASE (R392). -/
def execPpNRelease (s : State) : Ans := onDevN s (fun d => doPpNRelease d)

end Sys2Proof.Machine
end

