-- ==== Sys2Proof/Machine/ExecTwin.lean ====
section
/-! DEFINITION. The meanings of the commands of this family: twin operation (R373–R381). Each names
the operation that its rule describes; a unit that the device does not have faults. -/

namespace Sys2Proof.Machine

/-- TWIN_FILTER_EXPIRY (R376). -/
def execTwinFilterExpiry (pair part stream : Nat) (s : State) : Ans :=
  unitOk (decide (part < 16)) (onDev s (fun d => doTwinFilterExpiry d pair part stream))

/-- POUR_DIGEST (R139). -/
def execPourDigest (pkt : Packet) (s : State) : Ans := onDevN s (fun d => doPourDigest d pkt)

/-- RANGE (R377). -/
def execRange (pkt : Packet) (s : State) : Ans := onDevN s (fun d => doRange d pkt)

/-- BEAT (R377). -/
def execBeat (pkt : Packet) (s : State) : Ans := onDevN s (fun d => doBeat d pkt)

/-- BEAT_SEND (R377). -/
def execBeatSend (s : State) : Ans := onDev s (fun d => doBeatSend d)

/-- LEAVE (R380). -/
def execLeave (pkt : Packet) (s : State) : Ans := onDevN s (fun d => doLeave d pkt)

/-- DIVERGED (R381). -/
def execDiverged (pkt : Packet) (s : State) : Ans := onDevN s (fun d => doDiverged d pkt)

/-- TWIN_SILENCE_TIMEOUT (R380). -/
def execTwinSilenceTimeout (s : State) : Ans := onDevN s (fun d => doTwinSilenceTimeout d)

end Sys2Proof.Machine
end

