-- ==== Sys2Proof/Machine/ExecWork.lean ====
section
/-! DEFINITION. The meanings of the commands of this family: pours, queues, work orders, sync counters (R132–R170). Each names
the operation that its rule describes; a unit that the device does not have faults. -/

namespace Sys2Proof.Machine

/-- POUR (R134). -/
def execPour (index : Nat) (s : State) : Ans := onDevN s (fun d => doPour d index)

/-- POUR_FIRST_PASS (R132). -/
def execPourFirstPass (image : Option Bytes) (s : State) : Ans := onDevN s (fun d => doPourFirstPass d s.owner image)

/-- POUR_SECOND_PASS (R132). -/
def execPourSecondPass (image : Option Bytes) (s : State) : Ans := onDevN s (fun d => doPourSecondPass d s.owner image)

/-- POUR_TWIN_TIMEOUT (R139). -/
def execPourTwinTimeout (s : State) : Ans := onDevN s (fun d => doPourTwinTimeout d)

/-- POUR_COMPLETE (R136). -/
def execPourComplete (s : State) : Ans := onDevN s (fun d => doPourComplete d)

/-- PATTERN_SWAP (R141). -/
def execPatternSwap (queue index : Nat) (image : Option Bytes) (s : State) : Ans :=
  unitOk (decide (queue < 32768)) (onDevN s (fun d => doPatternSwap d s.owner queue index image))

/-- PATTERN_SWAP_WRITE (R142). -/
def execPatternSwapWrite (image : Option Bytes) (s : State) : Ans := onDevN s (fun d => doPatternSwapWrite d image)

/-- UNPOUR (R140). -/
def execUnpour (index : Nat) (s : State) : Ans := onDevN s (fun d => doUnpour d index)

/-- QUEUE_DOORBELL (R146). -/
def execQueueDoorbell (queue off value : Nat) (e : Ecc) (s : State) : Ans :=
  unitOk (decide (queue < 32768)) (onDev s (fun d => doQueueDoorbell d queue off value e))

/-- CTL_DOORBELL (R150). -/
def execCtlDoorbell (r : Requester) (value : Nat) (s : State) : Ans := onReg s r (fun d => doCtlDoorbell d r value)

/-- DISPATCH (R148). -/
def execDispatch (queue : Nat) (e : Ecc) (s : State) : Ans := unitOk (decide (queue ≤ 32768)) (onDevN s (fun d => doDispatch d queue e))

/-- NOP_WORK_ORDER (R156). -/
def execNopWorkOrder (queue index : Nat) (s : State) : Ans := unitOk (decide (queue ≤ 32768)) (onDev s (fun d => doNopWorkOrder d queue index))

/-- RUN_PATTERN (R83). -/
def execRunPattern (queue index : Nat) (s : State) : Ans := unitOk (decide (queue < 32768)) (onWork s (fun d => doRunPattern d queue index))

/-- COPY (R157). -/
def execCopy (queue index : Nat) (e : Ecc) (s : State) : Ans := unitOk (decide (queue < 32768)) (onWorkN s (fun d => doCopy d queue index e))

/-- COPY_CONVERT (R188). -/
def execCopyConvert (queue index : Nat) (e : Ecc) (s : State) : Ans :=
  unitOk (decide (queue < 32768)) (onWorkN s (fun d => doCopyConvert d queue index e))

/-- DIGEST_COPY (R191). -/
def execDigestCopy (queue index : Nat) (e : Ecc) (s : State) : Ans :=
  unitOk (decide (queue < 32768)) (onWorkN s (fun d => doDigestCopy d queue index e))

/-- GATHER (R190). -/
def execGather (queue index : Nat) (e : Ecc) (s : State) : Ans := unitOk (decide (queue < 32768)) (onWorkN s (fun d => doGather d queue index e))

/-- SCATTER (R190). -/
def execScatter (queue index : Nat) (e : Ecc) (s : State) : Ans := unitOk (decide (queue < 32768)) (onWorkN s (fun d => doScatter d queue index e))

/-- LADLE_RS (R251). -/
def execLadleRs (queue index : Nat) (e : Ecc) (s : State) : Ans := unitOk (decide (queue < 32768)) (onWorkN s (fun d => doLadleRs d queue index e))

/-- LADLE_ALL_REDUCE (R261). -/
def execLadleAllReduce (queue index : Nat) (e : Ecc) (s : State) : Ans :=
  unitOk (decide (queue < 32768)) (onWorkN s (fun d => doLadleAllReduce d queue index e))

/-- LADLE_AG (R253). -/
def execLadleAg (queue index : Nat) (e : Ecc) (s : State) : Ans := unitOk (decide (queue < 32768)) (onWorkN s (fun d => doLadleAg d queue index e))

/-- LADLE_XCHG (R254). -/
def execLadleXchg (queue index : Nat) (e : Ecc) (s : State) : Ans :=
  unitOk (decide (queue < 32768)) (onWorkN s (fun d => doLadleXchg d queue index e))

/-- SIGNAL (R156). -/
def execSignal (queue index : Nat) (s : State) : Ans := unitOk (decide (queue < 32768)) (onDev s (fun d => doSignal d queue index))

/-- WAIT_WORK_ORDER (R156). -/
def execWaitWorkOrder (queue index : Nat) (s : State) : Ans := unitOk (decide (queue ≤ 32768)) (onDev s (fun d => doWaitWorkOrder d queue index))

/-- FENCE_RECOVER (R159). -/
def execFenceRecover (index : Nat) (s : State) : Ans := onDevN s (fun d => doFenceRecover d index)

/-- FENCE_RESET_CELL (R159). -/
def execFenceResetCell (index : Nat) (s : State) : Ans := onDevN s (fun d => doFenceResetCell s.owner d index)

/-- FENCE_RESET_CLUSTER (R159). -/
def execFenceResetCluster (index : Nat) (s : State) : Ans := onDevN s (fun d => doFenceResetCluster s.owner d index)

/-- FENCE_RESET_SHELL (R159). -/
def execFenceResetShell (index : Nat) (s : State) : Ans := onDevN s (fun d => doFenceResetShell s.owner d index)

/-- TEST_BAR_CELL (R160). -/
def execTestBarCell (index : Nat) (s : State) : Ans := onDevN s (fun d => doTestBarCell d index)

/-- TEST_BAR_LADLE (R160). -/
def execTestBarLadle (index : Nat) (s : State) : Ans := onDevN s (fun d => doTestBarLadle d index)

/-- TEST_BAR_NMU (R160). -/
def execTestBarNmu (index : Nat) (s : State) : Ans := onDevN s (fun d => doTestBarNmu d index)

/-- TEST_BAR_IDLE_TIMEOUT (R160). -/
def execTestBarIdleTimeout (index : Nat) (s : State) : Ans := onDevN s (fun d => doTestBarIdleTimeout d index)

/-- TEST_BAR_COMPLETE (R352). -/
def execTestBarComplete (kind unit : Nat) (pass : Bool) (s : State) : Ans :=
  unitOk (decide ((kind = 0 ∧ slotIx unit = true) ∨ (kind = 1 ∧ unit < 4) ∨ (kind = 2 ∧ unit < 16))) (onDevN s (fun d => doTestBarComplete d kind unit pass))

/-- ATTEST (R398). -/
def execAttest (index : Nat) (s : State) : Ans := onDevN s (fun d => doAttest d index)

/-- WORK_ORDER_COMPLETE (R155). -/
def execWorkOrderComplete (queue index : Nat) (e : Ecc) (s : State) : Ans :=
  unitOk (decide (queue ≤ 32768)) (onDevN s (fun d => doWorkOrderComplete d queue index e))

/-- QUEUE_CANCEL (R158). -/
def execQueueCancel (r : Requester) (queue : Nat) (s : State) : Ans := unitOk (decide (queue < 32768)) (onReg s r (fun d => doQueueCancel d r queue))

/-- QUEUE_DISABLE (R169). -/
def execQueueDisable (r : Requester) (queue : Nat) (s : State) : Ans :=
  unitOk (decide (queue < 32768)) (onReg s r (fun d => doQueueDisable d r queue))

/-- SYNC_INCREMENT_APPLY (R164). -/
def execSyncIncrementApply (counter amount : Nat) (s : State) : Ans :=
  unitOk (decide (counter < 16384)) (onDev s (fun d => doSyncIncrementApply d counter amount))

/-- SYNC_COUNTER_DOORBELL (R164). -/
def execSyncCounterDoorbell (counter amount : Nat) (s : State) : Ans :=
  unitOk (decide (counter < 16384)) (onDev s (fun d => doSyncCounterDoorbell d counter amount))

/-- INCR_PACKET (R165). -/
def execIncrPacket (pkt : Packet) (s : State) : Ans := onDevN s (fun d => doIncrPacket d pkt)

/-- INCR_ACK (R166). -/
def execIncrAck (pkt : Packet) (s : State) : Ans := onDevN s (fun d => doIncrAck d pkt)

/-- INCR_RESEND (R165). -/
def execIncrResend (dev seq : Nat) (s : State) : Ans := onDev s (fun d => doIncrResend d dev seq)

/-- INCR_WITHDRAW_TIMEOUT (R166). -/
def execIncrWithdrawTimeout (dev seq : Nat) (s : State) : Ans := onDev s (fun d => doIncrWithdrawTimeout d dev seq)

/-- WITHDRAW (R166). -/
def execWithdraw (req : Bool) (pkt : Packet) (s : State) : Ans := onDevN s (fun d => doWithdraw d req pkt)

/-- WITHDRAW_RESEND (R166). -/
def execWithdrawResend (req : Bool) (dev seq : Nat) (s : State) : Ans := onDev s (fun d => doWithdrawResend d req dev seq)

/-- WITHDRAW_ANS (R166). -/
def execWithdrawAns (req : Bool) (pkt : Packet) (s : State) : Ans := onDevN s (fun d => doWithdrawAns d req pkt)

/-- WATCHDOG_TRIP (R167). -/
def execWatchdogTrip (queue index : Nat) (s : State) : Ans := unitOk (decide (queue ≤ 32768)) (onDevN s (fun d => doWatchdogTrip d queue index))

end Sys2Proof.Machine
end

