-- ==== Sys2Proof/Machine/Dispatch.lean ====
section
/-! DEFINITION. One arm per command, each a direct call of its meaning. -/

namespace Sys2Proof.Machine

def exec (i : Instr) (s : State) : Host.Outcome State Fault Refusal :=
  match i with
  -- registers, pattern instructions, streams, runs, carrels, ledger, performance and trace (R11–R29, R83–R111)
  | .registerWrite r addr size value => Sys2Proof.Machine.execRegisterWrite r addr size value s
  | .registerLowWordRead r addr size => Sys2Proof.Machine.execRegisterLowWordRead r addr size s
  | .refclkFailure => Sys2Proof.Machine.execRefclkFailure s
  | .nop cell o => Sys2Proof.Machine.execNop cell o s
  | .endRun cell o => Sys2Proof.Machine.execEndRun cell o s
  | .jmp cell o => Sys2Proof.Machine.execJmp cell o s
  | .loop cell o => Sys2Proof.Machine.execLoop cell o s
  | .bnz cell o => Sys2Proof.Machine.execBnz cell o s
  | .wait cell o => Sys2Proof.Machine.execWait cell o s
  | .incr cell o => Sys2Proof.Machine.execIncr cell o s
  | .raise cell o => Sys2Proof.Machine.execRaise cell o s
  | .recv cell o e => Sys2Proof.Machine.execRecv cell o e s
  | .send cell o e => Sys2Proof.Machine.execSend cell o e s
  | .dmain cell o e => Sys2Proof.Machine.execDmain cell o e s
  | .dmaout cell o e => Sys2Proof.Machine.execDmaout cell o e s
  | .ldw cell o e => Sys2Proof.Machine.execLdw cell o e s
  | .vld cell o e => Sys2Proof.Machine.execVld cell o e s
  | .vst cell o e => Sys2Proof.Machine.execVst cell o e s
  | .mma cell o e => Sys2Proof.Machine.execMma cell o e s
  | .aclr cell o => Sys2Proof.Machine.execAclr cell o s
  | .acrd cell o => Sys2Proof.Machine.execAcrd cell o s
  | .acwr cell o => Sys2Proof.Machine.execAcwr cell o s
  | .vadd cell o => Sys2Proof.Machine.execVadd cell o s
  | .vmul cell o => Sys2Proof.Machine.execVmul cell o s
  | .vfma cell o => Sys2Proof.Machine.execVfma cell o s
  | .vmax cell o => Sys2Proof.Machine.execVmax cell o s
  | .vmin cell o => Sys2Proof.Machine.execVmin cell o s
  | .vexp2 cell o => Sys2Proof.Machine.execVexp2 cell o s
  | .vlog2 cell o => Sys2Proof.Machine.execVlog2 cell o s
  | .vrcp cell o => Sys2Proof.Machine.execVrcp cell o s
  | .vrsqrt cell o => Sys2Proof.Machine.execVrsqrt cell o s
  | .vrsum cell o => Sys2Proof.Machine.execVrsum cell o s
  | .vrmax cell o => Sys2Proof.Machine.execVrmax cell o s
  | .vqnt cell o e => Sys2Proof.Machine.execVqnt cell o e s
  | .vsplat cell o => Sys2Proof.Machine.execVsplat cell o s
  | .seti cell o => Sys2Proof.Machine.execSeti cell o s
  | .addi cell o => Sys2Proof.Machine.execAddi cell o s
  | .add cell o => Sys2Proof.Machine.execAdd cell o s
  | .muli cell o => Sys2Proof.Machine.execMuli cell o s
  | .streamWordHop chan dst badParity => Sys2Proof.Machine.execStreamWordHop chan dst badParity s
  | .runEnd queue index => Sys2Proof.Machine.execRunEnd queue index s
  | .carrelScrub slot e => Sys2Proof.Machine.execCarrelScrub slot e s
  | .ledgerClearSat r part => Sys2Proof.Machine.execLedgerClearSat r part s
  | .ledgerClearNan r part => Sys2Proof.Machine.execLedgerClearNan r part s
  | .ledgerClearInv r part => Sys2Proof.Machine.execLedgerClearInv r part s
  | .ledgerClearResidue r part => Sys2Proof.Machine.execLedgerClearResidue r part s
  | .ledgerClearTrips r part => Sys2Proof.Machine.execLedgerClearTrips r part s
  | .perfFreeze r freeze => Sys2Proof.Machine.execPerfFreeze r freeze s
  | .perfClear r part => Sys2Proof.Machine.execPerfClear r part s
  | .traceReadAdvance r read => Sys2Proof.Machine.execTraceReadAdvance r read s
  | .traceLostEntry => Sys2Proof.Machine.execTraceLostEntry s
  -- pours, queues, work orders, sync counters (R132–R170)
  | .pour index => Sys2Proof.Machine.execPour index s
  | .pourFirstPass image => Sys2Proof.Machine.execPourFirstPass image s
  | .pourSecondPass image => Sys2Proof.Machine.execPourSecondPass image s
  | .pourTwinTimeout => Sys2Proof.Machine.execPourTwinTimeout s
  | .pourComplete => Sys2Proof.Machine.execPourComplete s
  | .patternSwap queue index image => Sys2Proof.Machine.execPatternSwap queue index image s
  | .patternSwapWrite image => Sys2Proof.Machine.execPatternSwapWrite image s
  | .unpour index => Sys2Proof.Machine.execUnpour index s
  | .queueDoorbell queue off value e => Sys2Proof.Machine.execQueueDoorbell queue off value e s
  | .ctlDoorbell r value => Sys2Proof.Machine.execCtlDoorbell r value s
  | .dispatch queue e => Sys2Proof.Machine.execDispatch queue e s
  | .nopWorkOrder queue index => Sys2Proof.Machine.execNopWorkOrder queue index s
  | .runPattern queue index => Sys2Proof.Machine.execRunPattern queue index s
  | .copy queue index e => Sys2Proof.Machine.execCopy queue index e s
  | .copyConvert queue index e => Sys2Proof.Machine.execCopyConvert queue index e s
  | .digestCopy queue index e => Sys2Proof.Machine.execDigestCopy queue index e s
  | .gather queue index e => Sys2Proof.Machine.execGather queue index e s
  | .scatter queue index e => Sys2Proof.Machine.execScatter queue index e s
  | .ladleRs queue index e => Sys2Proof.Machine.execLadleRs queue index e s
  | .ladleAllReduce queue index e => Sys2Proof.Machine.execLadleAllReduce queue index e s
  | .ladleAg queue index e => Sys2Proof.Machine.execLadleAg queue index e s
  | .ladleXchg queue index e => Sys2Proof.Machine.execLadleXchg queue index e s
  | .signal queue index => Sys2Proof.Machine.execSignal queue index s
  | .waitWorkOrder queue index => Sys2Proof.Machine.execWaitWorkOrder queue index s
  | .fenceRecover index => Sys2Proof.Machine.execFenceRecover index s
  | .fenceResetCell index => Sys2Proof.Machine.execFenceResetCell index s
  | .fenceResetCluster index => Sys2Proof.Machine.execFenceResetCluster index s
  | .fenceResetShell index => Sys2Proof.Machine.execFenceResetShell index s
  | .testBarCell index => Sys2Proof.Machine.execTestBarCell index s
  | .testBarLadle index => Sys2Proof.Machine.execTestBarLadle index s
  | .testBarNmu index => Sys2Proof.Machine.execTestBarNmu index s
  | .testBarIdleTimeout index => Sys2Proof.Machine.execTestBarIdleTimeout index s
  | .testBarComplete kind unit pass => Sys2Proof.Machine.execTestBarComplete kind unit pass s
  | .attest index => Sys2Proof.Machine.execAttest index s
  | .workOrderComplete queue index e => Sys2Proof.Machine.execWorkOrderComplete queue index e s
  | .queueCancel r queue => Sys2Proof.Machine.execQueueCancel r queue s
  | .queueDisable r queue => Sys2Proof.Machine.execQueueDisable r queue s
  | .syncIncrementApply counter amount => Sys2Proof.Machine.execSyncIncrementApply counter amount s
  | .syncCounterDoorbell counter amount => Sys2Proof.Machine.execSyncCounterDoorbell counter amount s
  | .incrPacket pkt => Sys2Proof.Machine.execIncrPacket pkt s
  | .incrAck pkt => Sys2Proof.Machine.execIncrAck pkt s
  | .incrResend dev seq => Sys2Proof.Machine.execIncrResend dev seq s
  | .incrWithdrawTimeout dev seq => Sys2Proof.Machine.execIncrWithdrawTimeout dev seq s
  | .withdraw req pkt => Sys2Proof.Machine.execWithdraw req pkt s
  | .withdrawResend req dev seq => Sys2Proof.Machine.execWithdrawResend req dev seq s
  | .withdrawAns req pkt => Sys2Proof.Machine.execWithdrawAns req pkt s
  | .watchdogTrip queue index => Sys2Proof.Machine.execWatchdogTrip queue index s
  -- HBM stacks, shelves and near-memory units (R172–R192)
  | .stackTempSample stack temp bad => Sys2Proof.Machine.execStackTempSample stack temp bad s
  | .scrubRead stack e => Sys2Proof.Machine.execScrubRead stack e s
  | .nmuRead part reader addr len e => Sys2Proof.Machine.execNmuRead part reader addr len e s
  | .nmuWrite part reader addr data => Sys2Proof.Machine.execNmuWrite part reader addr data s
  | .accOpen stack tag addr len n fmt part plan => Sys2Proof.Machine.execAccOpen stack tag addr len n fmt part plan s
  | .accApply stack tag pos data crc e => Sys2Proof.Machine.execAccApply stack tag pos data crc e s
  | .accAbort stack tag => Sys2Proof.Machine.execAccAbort stack tag s
  | .xcode queue index src dst n fa fb e => Sys2Proof.Machine.execXcode queue index src dst n fa fb e s
  | .grow part table index row dst scatter e => Sys2Proof.Machine.execGrow part table index row dst scatter e s
  | .digest part region addr len e => Sys2Proof.Machine.execDigest part region addr len e s
  | .zero page n => Sys2Proof.Machine.execZero page n s
  | .regionClear r part => Sys2Proof.Machine.execRegionClear r part s
  -- links, routing, runners, draining, the gang (R202–R245)
  | .flitData port f => Sys2Proof.Machine.execFlitData port f s
  | .flitIdle port f => Sys2Proof.Machine.execFlitIdle port f s
  | .flitNak port f => Sys2Proof.Machine.execFlitNak port f s
  | .flitHello port f => Sys2Proof.Machine.execFlitHello port f s
  | .flitLanemap port f => Sys2Proof.Machine.execFlitLanemap port f s
  | .nakRepeat port => Sys2Proof.Machine.execNakRepeat port s
  | .laneFail port lane cause => Sys2Proof.Machine.execLaneFail port lane cause s
  | .lanemapRepeat port => Sys2Proof.Machine.execLanemapRepeat port s
  | .laneMaskSwitch port => Sys2Proof.Machine.execLaneMaskSwitch port s
  | .laneRetrain port lane => Sys2Proof.Machine.execLaneRetrain port lane s
  | .laneRestore port lane => Sys2Proof.Machine.execLaneRestore port lane s
  | .portTrain port locked rtt => Sys2Proof.Machine.execPortTrain port locked rtt s
  | .helloSend port => Sys2Proof.Machine.execHelloSend port s
  | .portLossTimeout port => Sys2Proof.Machine.execPortLossTimeout port s
  | .portRetrain port locked rtt => Sys2Proof.Machine.execPortRetrain port locked rtt s
  | .linkRetrain r port => Sys2Proof.Machine.execLinkRetrain r port s
  | .linkEnable r port on => Sys2Proof.Machine.execLinkEnable r port on s
  | .packetForward port vc wait => Sys2Proof.Machine.execPacketForward port vc wait s
  | .unreach pkt => Sys2Proof.Machine.execUnreach pkt s
  | .readReq pkt e => Sys2Proof.Machine.execReadReq pkt e s
  | .writeReq pkt => Sys2Proof.Machine.execWriteReq pkt s
  | .resp pkt => Sys2Proof.Machine.execResp pkt s
  | .requestResend dev seq => Sys2Proof.Machine.execRequestResend dev seq s
  | .requestWithdrawTimeout dev seq => Sys2Proof.Machine.execRequestWithdrawTimeout dev seq s
  | .senderStateExpiry dev => Sys2Proof.Machine.execSenderStateExpiry dev s
  | .rateLimitRaise dev => Sys2Proof.Machine.execRateLimitRaise dev s
  | .runSetup pkt => Sys2Proof.Machine.execRunSetup pkt s
  | .runSetupAnswer runner ok => Sys2Proof.Machine.execRunSetupAnswer runner ok s
  | .runTeardown pkt => Sys2Proof.Machine.execRunTeardown pkt s
  | .runData port wait => Sys2Proof.Machine.execRunData port wait s
  | .drain r epoch => Sys2Proof.Machine.execDrain r epoch s
  | .drainComplete => Sys2Proof.Machine.execDrainComplete s
  | .drainTimeout => Sys2Proof.Machine.execDrainTimeout s
  | .resume r epoch => Sys2Proof.Machine.execResume r epoch s
  | .protectedRegisterWrite r off value => Sys2Proof.Machine.execProtectedRegisterWrite r off value s
  | .gangBeaconSend => Sys2Proof.Machine.execGangBeaconSend s
  | .gangBeacon pkt => Sys2Proof.Machine.execGangBeacon pkt s
  | .gangMasterTimeout => Sys2Proof.Machine.execGangMasterTimeout s
  | .gangFollowTimeout => Sys2Proof.Machine.execGangFollowTimeout s
  -- chunks, sprue values, digests, notices (R246–R268)
  | .chunkSend plan e => Sys2Proof.Machine.execChunkSend plan e s
  | .chunk ladle pkt e => Sys2Proof.Machine.execChunk ladle pkt e s
  | .chunkAck pkt => Sys2Proof.Machine.execChunkAck pkt s
  | .chunkResend plan note ix e => Sys2Proof.Machine.execChunkResend plan note ix e s
  | .sprue pkt => Sys2Proof.Machine.execSprue pkt s
  | .digestPacket pkt => Sys2Proof.Machine.execDigestPacket pkt s
  | .notice pkt => Sys2Proof.Machine.execNotice pkt s
  | .verdictRound plan => Sys2Proof.Machine.execVerdictRound plan s
  | .collectiveStall plan => Sys2Proof.Machine.execCollectiveStall plan s
  | .ldlAbort r plan => Sys2Proof.Machine.execLdlAbort r plan s
  -- Ethernet ports, RDMA, queue pairs, events (R271–R297)
  | .hostLinkUp port => Sys2Proof.Machine.execHostLinkUp port s
  | .hostLinkDown port => Sys2Proof.Machine.execHostLinkDown port s
  | .hostPortRetrain r port => Sys2Proof.Machine.execHostPortRetrain r port s
  | .arpRequest port addr => Sys2Proof.Machine.execArpRequest port addr s
  | .neighborSolicitation port addr => Sys2Proof.Machine.execNeighborSolicitation port addr s
  | .pfcFrame port cls pause => Sys2Proof.Machine.execPfcFrame port cls pause s
  | .foreignFrame => Sys2Proof.Machine.execForeignFrame s
  | .rdmaWriteMemory h data => Sys2Proof.Machine.execRdmaWriteMemory h data s
  | .rdmaWriteDoorbell h data e => Sys2Proof.Machine.execRdmaWriteDoorbell h data e s
  | .rdmaWriteRegister h data => Sys2Proof.Machine.execRdmaWriteRegister h data s
  | .rdmaReadMemory h len e => Sys2Proof.Machine.execRdmaReadMemory h len e s
  | .rdmaReadRegister h len => Sys2Proof.Machine.execRdmaReadRegister h len s
  | .roceSend h len => Sys2Proof.Machine.execRoceSend h len s
  | .rdmaReadResponse qp psn => Sys2Proof.Machine.execRdmaReadResponse qp psn s
  | .roceAck qp psn syn => Sys2Proof.Machine.execRoceAck qp psn syn s
  | .roceAckTimeout qp => Sys2Proof.Machine.execRoceAckTimeout qp s
  | .cnp qp => Sys2Proof.Machine.execCnp qp s
  | .cnpRateRaise qp => Sys2Proof.Machine.execCnpRateRaise qp s
  | .qpStateWrite r qp state => Sys2Proof.Machine.execQpStateWrite r qp state s
  | .regionValidSet r region => Sys2Proof.Machine.execRegionValidSet r region s
  | .evqConsumerWrite r evq value => Sys2Proof.Machine.execEvqConsumerWrite r evq value s
  | .eventRaise value => Sys2Proof.Machine.execEventRaise value s
  | .eventComplete value => Sys2Proof.Machine.execEventComplete value s
  | .eventBatch group => Sys2Proof.Machine.execEventBatch group s
  | .pfcPauseExpiry port cls => Sys2Proof.Machine.execPfcPauseExpiry port cls s
  -- power: samples, caps, setpoints, the gang budget (R300–R318, R432)
  | .powerSample watts vmain avail => Sys2Proof.Machine.execPowerSample watts vmain avail s
  | .measurementFaultClear gain => Sys2Proof.Machine.execMeasurementFaultClear gain s
  | .powerEstimate quads other att => Sys2Proof.Machine.execPowerEstimate quads other att s
  | .effectiveCapRecompute => Sys2Proof.Machine.execEffectiveCapRecompute s
  | .capHostWrite r watts => Sys2Proof.Machine.execCapHostWrite r watts s
  | .capMgmtWrite r watts => Sys2Proof.Machine.execCapMgmtWrite r watts s
  | .setpointStep quad rate => Sys2Proof.Machine.execSetpointStep quad rate s
  | .pulsePeriod quad n => Sys2Proof.Machine.execPulsePeriod quad n s
  | .droopStart quad => Sys2Proof.Machine.execDroopStart quad s
  | .droopEnd quad us => Sys2Proof.Machine.execDroopEnd quad us s
  | .slackReport slack => Sys2Proof.Machine.execSlackReport slack s
  | .gangPowerRound => Sys2Proof.Machine.execGangPowerRound s
  | .slack pkt => Sys2Proof.Machine.execSlack pkt s
  | .alloc pkt => Sys2Proof.Machine.execAlloc pkt s
  | .allocAck pkt => Sys2Proof.Machine.execAllocAck pkt s
  | .allocAckTimeout => Sys2Proof.Machine.execAllocAckTimeout s
  | .capEmergAssert => Sys2Proof.Machine.execCapEmergAssert s
  | .capEmergRelease => Sys2Proof.Machine.execCapEmergRelease s
  -- cooling: sensors, flow, throttles (R323–R335)
  | .junctionSample readings bad => Sys2Proof.Machine.execJunctionSample readings bad s
  | .packageSensorSample readings bad => Sys2Proof.Machine.execPackageSensorSample readings bad s
  | .flowRecover => Sys2Proof.Machine.execFlowRecover s
  | .flowLossTimeout => Sys2Proof.Machine.execFlowLossTimeout s
  | .thermalModelUpdate watts => Sys2Proof.Machine.execThermalModelUpdate watts s
  | .sensorImplausible sensor => Sys2Proof.Machine.execSensorImplausible sensor s
  | .sensorPlausible sensor => Sys2Proof.Machine.execSensorPlausible sensor s
  | .sensorDisagreeing pair => Sys2Proof.Machine.execSensorDisagreeing pair s
  | .junctionThrottleTick quad => Sys2Proof.Machine.execJunctionThrottleTick quad s
  | .hbmThrottleTick stack => Sys2Proof.Machine.execHbmThrottleTick stack s
  | .allowanceRise => Sys2Proof.Machine.execAllowanceRise s
  | .trayStale => Sys2Proof.Machine.execTrayStale s
  -- resets, bring-up, tests, recovery (R340–R370, R433, R437)
  | .por straps => Sys2Proof.Machine.execPor straps s
  | .bor => Sys2Proof.Machine.execBor s
  | .pinReset => Sys2Proof.Machine.execPinReset s
  | .pinResetRelease => Sys2Proof.Machine.execPinResetRelease s
  | .wdtExpiry limit => Sys2Proof.Machine.execWdtExpiry limit s
  | .lockUp => Sys2Proof.Machine.execLockUp s
  | .jtagReset => Sys2Proof.Machine.execJtagReset s
  | .rstCmdL0 r cell => Sys2Proof.Machine.execRstCmdL0 r cell s
  | .rstCmdL1 r cluster => Sys2Proof.Machine.execRstCmdL1 r cluster s
  | .rstCmdL2 r part retrain => Sys2Proof.Machine.execRstCmdL2 r part retrain s
  | .rstCmdL3 r => Sys2Proof.Machine.execRstCmdL3 r s
  | .idleReached level unit => Sys2Proof.Machine.execIdleReached level unit s
  | .idleTimeout level unit => Sys2Proof.Machine.execIdleTimeout level unit s
  | .resetComplete level unit => Sys2Proof.Machine.execResetComplete level unit s
  | .archivistBoot => Sys2Proof.Machine.execArchivistBoot s
  | .hbmTrainingDone stack ok => Sys2Proof.Machine.execHbmTrainingDone stack ok s
  | .ready => Sys2Proof.Machine.execReady s
  | .spareTestRound => Sys2Proof.Machine.execSpareTestRound s
  | .suspectSlotTest slot => Sys2Proof.Machine.execSuspectSlotTest slot s
  | .catSuspect r cell => Sys2Proof.Machine.execCatSuspect r cell s
  | .catSlotClear r slot => Sys2Proof.Machine.execCatSlotClear r slot s
  | .cellStall cell => Sys2Proof.Machine.execCellStall cell s
  | .recoverCmd r mask => Sys2Proof.Machine.execRecoverCmd r mask s
  | .fenceDrainEnd part => Sys2Proof.Machine.execFenceDrainEnd part s
  | .hangRecordAssembled part => Sys2Proof.Machine.execHangRecordAssembled part s
  | .hangExportComplete part => Sys2Proof.Machine.execHangExportComplete part s
  | .hangExportTimeout part n => Sys2Proof.Machine.execHangExportTimeout part n s
  | .resetL2Failure part => Sys2Proof.Machine.execResetL2Failure part s
  | .vmainLoss => Sys2Proof.Machine.execVmainLoss s
  | .vmainRestore => Sys2Proof.Machine.execVmainRestore s
  | .refclkReturn => Sys2Proof.Machine.execRefclkReturn s
  | .vbkpLoss => Sys2Proof.Machine.execVbkpLoss s
  | .vbkpReturn => Sys2Proof.Machine.execVbkpReturn s
  -- twin operation (R373–R381)
  | .twinFilterExpiry pair part stream => Sys2Proof.Machine.execTwinFilterExpiry pair part stream s
  | .pourDigest pkt => Sys2Proof.Machine.execPourDigest pkt s
  | .range pkt => Sys2Proof.Machine.execRange pkt s
  | .beat pkt => Sys2Proof.Machine.execBeat pkt s
  | .beatSend => Sys2Proof.Machine.execBeatSend s
  | .leave pkt => Sys2Proof.Machine.execLeave pkt s
  | .diverged pkt => Sys2Proof.Machine.execDiverged pkt s
  | .twinSilenceTimeout => Sys2Proof.Machine.execTwinSilenceTimeout s
  -- owner commands, presence, attestation, firmware update (R387–R415)
  | .enrolKey m slot hash stuck sg => Sys2Proof.Machine.execEnrolKey m slot hash stuck sg s
  | .revokeSlot m slot stuck sg => Sys2Proof.Machine.execRevokeSlot m slot stuck sg s
  | .programOwnerFuse m field value stuck sg => Sys2Proof.Machine.execProgramOwnerFuse m field value stuck sg s
  | .tightenPolicy m policy slots sg => Sys2Proof.Machine.execTightenPolicy m policy slots sg s
  | .relaxPolicy m policy slots sg => Sys2Proof.Machine.execRelaxPolicy m policy slots sg s
  | .debugUnlockOwner m sg => Sys2Proof.Machine.execDebugUnlockOwner m sg s
  | .debugUnlockVendor m key token => Sys2Proof.Machine.execDebugUnlockVendor m key token s
  | .recoveryModeEntry m sg => Sys2Proof.Machine.execRecoveryModeEntry m sg s
  | .clearAuditCounters m sg => Sys2Proof.Machine.execClearAuditCounters m sg s
  | .acknowledgeSealBreak m sg => Sys2Proof.Machine.execAcknowledgeSealBreak m sg s
  | .presenceAssertion => Sys2Proof.Machine.execPresenceAssertion s
  | .sealCheck follows => Sys2Proof.Machine.execSealCheck follows s
  | .attestReportComplete delayed => Sys2Proof.Machine.execAttestReportComplete delayed s
  | .arcLock r => Sys2Proof.Machine.execArcLock r s
  | .folioHeader m data => Sys2Proof.Machine.execFolioHeader m data s
  | .folioData m ident ix data stuck => Sys2Proof.Machine.execFolioData m ident ix data stuck s
  | .updateAbort via => Sys2Proof.Machine.execUpdateAbort via s
  | .updateActivate via => Sys2Proof.Machine.execUpdateActivate via s
  | .bankSyncComplete => Sys2Proof.Machine.execBankSyncComplete s
  | .ppNRelease => Sys2Proof.Machine.execPpNRelease s
  -- I3C, MCTP, PLDM, Novvan, tray signals (R422–R433)
  | .setdasa static dyn => Sys2Proof.Machine.execSetdasa static dyn s
  | .rstdaa => Sys2Proof.Machine.execRstdaa s
  | .setmrl n => Sys2Proof.Machine.execSetmrl n s
  | .setmwl n => Sys2Proof.Machine.execSetmwl n s
  | .setEndpointId dst eid => Sys2Proof.Machine.execSetEndpointId dst eid s
  | .getEndpointId dst => Sys2Proof.Machine.execGetEndpointId dst s
  | .getEndpointUuid dst => Sys2Proof.Machine.execGetEndpointUuid dst s
  | .getMctpVersionSupport dst type => Sys2Proof.Machine.execGetMctpVersionSupport dst type s
  | .getMessageTypeSupport dst => Sys2Proof.Machine.execGetMessageTypeSupport dst s
  | .mctpUnsupportedMessage => Sys2Proof.Machine.execMctpUnsupportedMessage s
  | .getTid => Sys2Proof.Machine.execGetTid s
  | .getPldmVersion type => Sys2Proof.Machine.execGetPldmVersion type s
  | .getPldmTypes => Sys2Proof.Machine.execGetPldmTypes s
  | .getPldmCommands type => Sys2Proof.Machine.execGetPldmCommands type s
  | .getPdrRepositoryInfo => Sys2Proof.Machine.execGetPdrRepositoryInfo s
  | .getPdr => Sys2Proof.Machine.execGetPdr s
  | .getSensorReading n => Sys2Proof.Machine.execGetSensorReading n s
  | .getStateSensorReadings n => Sys2Proof.Machine.execGetStateSensorReadings n s
  | .pldmUnsupported cmd => Sys2Proof.Machine.execPldmUnsupported cmd s
  | .keepalive m gen => Sys2Proof.Machine.execKeepalive m gen s
  | .traySensors m inlet outlet flow => Sys2Proof.Machine.execTraySensors m inlet outlet flow s
  | .isolateNotice m cause => Sys2Proof.Machine.execIsolateNotice m cause s
  | .isolateNoticeExpiry => Sys2Proof.Machine.execIsolateNoticeExpiry s
  | .regRead m addr n => Sys2Proof.Machine.execRegRead m addr n s
  | .regWrite m addr values => Sys2Proof.Machine.execRegWrite m addr values s
  | .bind m addrs port qpn => Sys2Proof.Machine.execBind m addrs port qpn s
  | .optionWrite m block => Sys2Proof.Machine.execOptionWrite m block s
  | .subscribe m mask => Sys2Proof.Machine.execSubscribe m mask s
  | .novvanReset m level part target retrain => Sys2Proof.Machine.execNovvanReset m level part target retrain s
  | .recover m mask => Sys2Proof.Machine.execRecover m mask s
  | .capSet m watts => Sys2Proof.Machine.execCapSet m watts s
  | .novvanAttest m kind nonce => Sys2Proof.Machine.execNovvanAttest m kind nonce s
  | .certChain m => Sys2Proof.Machine.execCertChain m s
  | .notificationReply cmd tag => Sys2Proof.Machine.execNotificationReply cmd tag s
  | .notificationResend => Sys2Proof.Machine.execNotificationResend s
  | .replyExpiry cmd tag => Sys2Proof.Machine.execReplyExpiry cmd tag s
  | .orphanTimeout => Sys2Proof.Machine.execOrphanTimeout s
  | .events => Sys2Proof.Machine.execEvents s
  | .strapSample straps => Sys2Proof.Machine.execStrapSample straps s
  | .heartbeat => Sys2Proof.Machine.execHeartbeat s
  | .novvanReservedCommand m code => Sys2Proof.Machine.execNovvanReservedCommand m code s
  | .replyRead note cmd tag => Sys2Proof.Machine.execReplyRead note cmd tag s

end Sys2Proof.Machine
end

