-- ==== Sys2Proof/Machine/Step.lean ====
section
/-! DEFINITION. One step of the block: the command at the front of its queue, or, with none waiting, one tick of the reference counter
(notes/assumptions/13). -/

namespace Sys2Proof.Machine

/-- R26, R293: the reference counter counts 10 ns and wraps at 48 bits. -/
def State.tick (s : State) : State := { s with dev := { s.dev with now := (s.dev.now + 1) % 2 ^ 48 } }

/-- The step: the front command acts on everything but the queue. -/
def step (s : State) : Host.Outcome State Fault Refusal :=
  match s.pending with
  | [] => .next s.tick
  | c :: rest => exec c { s with pending := rest }

/-- The state with the command that a table word spells at the front of its queue; no row of the table gives bits, so no word spells
one. -/
def State.withFetchWord (s : State) (nbits w : Nat) : State :=
  match decodeTableWord nbits w with
  | some c => { s with pending := c :: s.pending }
  | none => s

end Sys2Proof.Machine
end

