-- ==== Sys2Proof/Safety.lean ====
section
/-! DEFINITION. The terms that the claims use: the blocks of the device and what it means that a command changes only some of them;
that a command runs with a given effect; the forms and bounds that no command breaks. -/

namespace Sys2Proof.Machine

/-! ### Frames -/

/-- The blocks of the device's state: one for each field of Dev. -/
inductive Block where
  | now | free | cat | mld | que | syn | evc | mem | ports | rte | ldl | hst | bind | pwr | thm | rst | flash | upd | sec
  | mgmt | twin | acc | out
deriving DecidableEq, Repr

/-- Block `b` of device `d'` is that of `d`. -/
def Block.same (b : Block) (d d' : Dev) : Prop :=
  match b with
  | .now => d'.now = d.now
  | .free => d'.free = d.free
  | .cat => d'.cat = d.cat
  | .mld => d'.mld = d.mld
  | .que => d'.que = d.que
  | .syn => d'.syn = d.syn
  | .evc => d'.evc = d.evc
  | .mem => d'.mem = d.mem
  | .ports => d'.ports = d.ports
  | .rte => d'.rte = d.rte
  | .ldl => d'.ldl = d.ldl
  | .hst => d'.hst = d.hst
  | .bind => d'.bind = d.bind
  | .pwr => d'.pwr = d.pwr
  | .thm => d'.thm = d.thm
  | .rst => d'.rst = d.rst
  | .flash => d'.flash = d.flash
  | .upd => d'.upd = d.upd
  | .sec => d'.sec = d.sec
  | .mgmt => d'.mgmt = d.mgmt
  | .twin => d'.twin = d.twin
  | .acc => d'.acc = d.acc
  | .out => d'.out = d.out

/-- Every block of the device but those listed is unchanged. -/
def DevOnly (bs : List Block) (d d' : Dev) : Prop := ∀ b : Block, b ∉ bs → b.same d d'

/-- The fuses, the command queue and every block of the device but those listed are unchanged. -/
def Only (bs : List Block) (s t : State) : Prop :=
  t.vendor = s.vendor ∧ t.owner = s.owner ∧ t.pending = s.pending ∧ DevOnly bs s.dev t.dev

/-- Command `c` completes in state `s`: exec answers a NEXT state, in which at most the blocks listed differ from `s` and of whose
device `post` holds. -/
def Runs (c : Instr) (s : State) (bs : List Block) (post : Dev → Prop) : Prop :=
  ∃ t : State, exec c s = .next t ∧ Only bs s t ∧ post t.dev

/-- Every entry of a slot-indexed view but entry `k` is unchanged. -/
def But {α : Type} (k : Nat) (v v' : Nat → α) : Prop := ∀ j : Nat, j ≠ k → v' j = v j

/-! ### Cells (R97) -/

/-- R97: cell `cell` may issue the instruction `op o`: outside the hold state it takes part in run `r` on slot `k`, nothing has stopped
it, and the word at its program counter is that instruction's. -/
def Issues (s : State) (cell op : Nat) (o : Opds) (r : Run) (k : Nat) : Prop :=
  cell < 1024 ∧ s.dev.thm.hold = false ∧ s.dev.canIssue cell op o = some (r, k)

/-- The carrel bytes of a range, modulo 2 MiB. -/
def Slot.bytes (s : Slot) (a n : Nat) : Bytes := (carPieces a n).flatMap (fun x => tgets 0 s.carrel x.1 x.2)

/-- R100: the lanes a two-operand vector instruction reads: va, vb or the broadcast x register, vd. -/
def Slot.lanes (s : Slot) (o : Opds) : List (Nat × Nat × Nat) :=
  (s.v (regIx o.opd1)).zip
    ((if bit o.flags 0 then List.replicate 256 (s.x (regIx o.opd2)) else s.v (regIx o.opd2)).zip (s.v (regIx o.opd0)))

/-- R42, R175: partition `p` may access the `n` bytes at `va` as `need` says (`own`: for its own work orders, cells and Ladles); they
lie in the pieces `l` of HBM and shelves, none of which waits for an accumulation, and no unit of memory is uncorrectable. -/
def Admits (d : Dev) (p va n need : Nat) (own : Bool) (l : List (Nat × Nat)) : Prop :=
  (d.part p).pieces need own (pieceFuel n) va n = .ok l ∧ (∀ x ∈ l, ∀ c, locOf x.1 ≠ .carrel c) ∧ d.mem.ueUnits = [] ∧
  d.mem.accs = []

/-- As Admits, for the partition's own work orders, cells and Ladles. -/
def Reaches (d : Dev) (p va n need : Nat) (l : List (Nat × Nat)) : Prop := Admits d p va n need true l

/-- The bytes of a list of pieces of memory. -/
def memGets (t : Tab Byte) (l : List (Nat × Nat)) : Bytes := l.flatMap (fun x => tgets 0 t x.1 x.2)

/-- A memory with bytes written into a list of pieces, in order. -/
def memPuts (t : Tab Byte) : List (Nat × Nat) → Bytes → Tab Byte
  | [], _ => t
  | x :: l, bs => memPuts (tputs 0 t x.1 (bs.take x.2)) l (bs.drop x.2)

/-- A carrel with bytes written from `a` on, modulo 2 MiB. -/
def carPut (t : Tab Byte) (a : Nat) (bs : Bytes) : Tab Byte := memPuts t (carPieces a bs.length) bs

/-- Address `a` lies in none of the pieces. -/
def Outside (l : List (Nat × Nat)) (a : Nat) : Prop := ∀ x ∈ l, ¬(x.1 ≤ a ∧ a < x.1 + x.2)

/-! ### Work orders in flight (R145, R155) -/

/-- Every flight but work order `i` of queue `q`'s is unchanged. -/
def ButWork (q i : Nat) (d d' : Dev) : Prop := ∀ q' i' : Nat, ¬(q' = q ∧ i' = i) → d'.flight q' i' = d.flight q' i'

/-- R155: the unit took the work order whose flight was `f`, and ended it with a status, a detail and a result; every other flight is
as it was. -/
def Ended (q i : Nat) (f : Flight) (st detail result : Nat) (d d' : Dev) : Prop :=
  d'.flight q i = some { f with started := true, status := some st, detail := detail, result := result } ∧ ButWork q i d d'

/-- A memory after copying in order, for each (x, y) of a list, the bytes of the pieces `src x` to the pieces `dst y`. -/
def memMoves (t : Tab Byte) (src dst : Nat → List (Nat × Nat)) (l : List (Nat × Nat)) : Tab Byte :=
  l.foldl (fun t x => memPuts t (dst x.2) (memGets t (src x.1))) t

/-- No bit error has appeared. -/
def Ecc.quiet : Ecc := { ce := [], ue := [] }

/-! ### Events (R288, R290) -/

/-- R290: source `n`, of the shell or bound, with fewer than 255 raisings pending, has one more. -/
def Raises (n : Nat) (d d' : Dev) : Prop :=
  (shellSrc n = true ∨ (d.src n).bound = true) → (d.src n).pending < 255 → (d'.src n).pending = (d.src n).pending + 1

/-- R290: as Raises, with an information field; every other source is unchanged. -/
def RaisesOnly (n info : Nat) (d d' : Dev) : Prop :=
  Raises n d d' ∧ But n d.src d'.src ∧
  ((shellSrc n = true ∨ (d.src n).bound = true) → (d.src n).pending < 255 → (d'.src n).info = info % 2 ^ 48)

/-! ### Flits (R202, R203) -/

/-- R202, R203, R205: a flit of type `ty` that arrives whole: decoded, its CRC matching. -/
def GoodFlit (f : Flit) (ty : Nat) : Prop := f.badFec = false ∧ flitOk f = true ∧ fld f.word 30 28 = ty

/-- R204, R218: the flits that a port has sent or is to send, from `x` to `y`: those it had, then those of packet `k` on VC `vc`. -/
def SendsOut (vc : Nat) (k : Packet) (x y : Port) : Prop :=
  (y.retry ++ y.txq).map (fun f => (f.vc, f.bytes)) =
    (x.retry ++ x.txq).map (fun f => (f.vc, f.bytes)) ++ (pktFlits k).map (fun b => (vc, b))

/-! ### Packets (R219, R226, R257) -/

/-- One packet has joined, at the end, those that wait to enter the device's routers. -/
def Injects (d d' : Dev) (P : Packet → Prop) : Prop := ∃ p : Packet, d'.rte.heldInj = d.rte.heldInj ++ [p] ∧ P p

/-- R166, R232, R233: `p` answers the request `k`: back to its sender, with its sequence, its congestion mark echoed. -/
def Answers (k p : Packet) (kind arg0 arg1 : Nat) (payload : Bytes) : Prop :=
  p.kind = kind ∧ p.dst = k.src ∧ p.dstPart = k.srcPart ∧ p.srcPart = k.dstPart ∧ p.seq = k.seq ∧ p.arg0 = arg0 ∧ p.arg1 = arg1 ∧
  p.payload = payload ∧ p.echo = k.cong

/-- R257: `p` is the CHUNK_ACK that gives `k` the outcome `o`. -/
def ChunkAcks (k p : Packet) (o : Nat) : Prop :=
  p.kind = 0x11 ∧ p.dst = k.src ∧ p.dstPart = k.srcPart ∧ p.seq = k.seq ∧ p.addr = k.addr ∧ p.arg0 = k.arg0 ∧ p.arg1 = o ∧ p.echo = k.cong

/-- R257: packet `k`, not twin-addressed, names plan `n` of a READY partition, its signature and its current instance `x`, and comes
from the granted member `s`. -/
def ForPlan (d : Dev) (k : Packet) (n : Nat) (pl : Plan) (s : Nat) : Prop :=
  k.twin = false ∧ (d.part k.dstPart).ready = true ∧ n = k.arg0 % 1024 ∧ d.plan n = some pl ∧ pl.part = k.dstPart ∧
  k.arg0 / 2 ^ 16 % 2 ^ 16 = pl.sig % 2 ^ 16 ∧ pl.memberAt k.src k.srcPart = some s ∧ d.granted pl.part k.src k.srcPart = true

/-- R257: as ForPlan, of the plan's current instance `x`, intact, and no copy of one that was accepted. -/
def ForInstance (d : Dev) (k : Packet) (n : Nat) (pl : Plan) (x : Inst) (s : Nat) : Prop :=
  ForPlan d k n pl s ∧ pl.inst = some x ∧ x.inst = k.seq ∧ crc32c k.payload = k.arg1 ∧ x.seen.contains (colIdent k s) = false

/-! ### Resets (R339) -/

/-- The blocks that hold what partitions and the work of partitions consist of. -/
def Block.work : List Block := [.cat, .mld, .que, .syn, .evc, .mem, .rte, .ldl, .twin, .flash, .free, .out]

/-- The blocks that an L4 may change: all but the flashes and the binding in retained memory. -/
def Block.volatile : List Block :=
  [.now, .free, .cat, .mld, .que, .syn, .evc, .mem, .ports, .rte, .ldl, .hst, .pwr, .thm, .rst, .upd, .sec, .mgmt, .twin, .acc, .out]

/-- R339, R346–R348, R383: what an L4 by source `src` leaves: the work, the memories and the access rights as at reset, the option block
and the straps read, the reset record written, and what VSTBY and VBKP hold as in `d`. -/
def AfterL4 (w : OwnerFuses) (src : Nat) (d d' : Dev) : Prop :=
  d'.cat = Cat.init ∧ d'.mld = Mld.init ∧ d'.que = Que.init ∧ d'.syn = Syn.init ∧ d'.mem = Mem.init ∧ d'.ldl = Ldl.init ∧
  d'.twin = Twin.init ∧ d'.pwr = Pwr.init ∧ d'.acc = [] ∧
  d'.rst.state = 0 ∧ d'.rst.step = 0 ∧ d'.rst.causeLv = 4 ∧ d'.rst.causeSrc = src ∧ d'.rst.l4Source = src ∧ d'.rst.ops = [] ∧
  d'.rst.booted = false ∧ d'.rst.optUsed = d.flash.option.1.clean ∧ d'.rst.optCopy = d.flash.option.2 ∧
  d'.rst.backup = d.rst.backup ∧ d'.rst.retained = d.rst.retained ∧ d'.rst.audit = d.rst.audit ∧
  d'.rte.devId = devId (d.mgmt.straps % 8) (fld d.mgmt.straps 5 3) (d.flash.option.1.clean.c % 128) (d.flash.option.1.clean.d % 128) ∧
  d'.sec.policy = w.policy.toNat ∧ d'.sec.locked = false

/-- R348: an assertion of source `i` is counted. -/
def Counted (i : Nat) (d d' : Dev) : Prop :=
  (d.rst.vbkp = true → tget 0 d'.rst.audit i = satAdd 16 (tget 0 d.rst.audit i) 1) ∧
  ∀ j, j ≠ i → tget 0 d'.rst.audit j = tget 0 d.rst.audit j

/-! ### Fuses (R388) -/

/-- R388: every bit that is set in `a` is set in `b`. -/
def bitsGrew {w : Nat} (a b : BitVec w) : Prop := a ||| b = b

/-- R388: of the owner fuses, no bit has gone from 1 to 0. -/
def OwnerFuses.grew (a b : OwnerFuses) : Prop :=
  bitsGrew a.hash0 b.hash0 ∧ bitsGrew a.hash1 b.hash1 ∧ bitsGrew a.hash2 b.hash2 ∧ bitsGrew a.hash3 b.hash3 ∧
  bitsGrew a.enrolled b.enrolled ∧ bitsGrew a.revoked b.revoked ∧ bitsGrew a.rollback b.rollback ∧ bitsGrew a.reach b.reach ∧
  bitsGrew a.policy b.policy ∧ bitsGrew a.slots b.slots ∧ bitsGrew a.conf b.conf ∧ bitsGrew a.autoLock b.autoLock

/-- R388: the fuses of a device whose fuses once were `v` and `o`. -/
def FusesFrom (v : VendorFuses) (o : OwnerFuses) (s : State) : Prop := s.vendor = v ∧ o.grew s.owner

/-! ### Memory (R37) -/

/-- The canonical form of a memory: addresses strictly rising, no listed byte equal to what an unlisted address reads as. -/
def Memory.wf (m : Tab Byte) : Bool := twf 0 0 m

/-- The canonical form of HBM and shelves, and of every listed slot's carrel. -/
def Dev.memWf (d : Dev) : Prop := Memory.wf d.mem.bytes = true ∧ ∀ kv ∈ d.cat.slots, Memory.wf kv.2.carrel = true

end Sys2Proof.Machine
end

