-- ==== Sys2Proof/WellFormed.lean ====
section
/-! DEFINITION. Well-formed commands: the units that the spec gives the device (R9, R20) and operands that fit the fields that carry
them (R98, R199, R219, R274, R425). -/

namespace Sys2Proof

/-- R20, R354: a slot's index, q·512 + k·32 + slot with slot 0–16. -/
def slotNo (k : Nat) : Bool := decide (k < 2048) && decide (k % 32 ≤ 16)

/-- R98: the widths of a pattern instruction's fields. -/
def Opds.wf (o : Opds) : Bool :=
  decide (o.fmtA < 256) && decide (o.fmtB < 256) && decide (o.flags < 256) && decide (o.opd0 < 2 ^ 32) && decide (o.opd1 < 2 ^ 32) &&
  decide (o.opd2 < 2 ^ 32)

/-- R219, R374: the widths of a packet's fields, and the bytes it carries. -/
def Packet.wf (p : Packet) : Bool :=
  decide (p.dst < 2 ^ 20) && decide (p.dstPart < 16) && decide (p.kind < 32) && decide (p.src < 2 ^ 20) && decide (p.srcPart < 16) &&
  decide (p.seq < 2 ^ 32) && decide (p.age < 2 ^ 16) && decide (p.addr < 2 ^ 44) && decide (p.arg0 < 2 ^ 32) && decide (p.arg1 < 2 ^ 32) &&
  p.payload.length == p.length && decide (p.length ≤ 4096) && p.trailer.length == (if p.twin then 16 else 0)

/-- R199, R202: a flit's 256 bytes and 96-bit link word. -/
def Flit.wf (f : Flit) : Bool := f.bytes.length == 256 && decide (f.word < 2 ^ 96)

/-- R272, R274, R276: the widths of a RoCEv2 request's fields. -/
def Roce.wf (h : Roce) : Bool :=
  decide (h.srcAddr < 2 ^ 128) && decide (h.qp < 2 ^ 24) && decide (h.psn < 2 ^ 24) && decide (h.rkey < 2 ^ 32) && decide (h.addr < 2 ^ 64)

/-- R425: a request's tag is 16 bits. -/
def Novvan.wf (m : Novvan) : Bool := decide (m.tag < 2 ^ 16)

/-- Whether a command names units the device has and operands that fit. -/
def Instr.wf : Instr → Bool
  | .registerWrite _ _ _ _ => true
  | .registerLowWordRead _ _ _ => true
  | .refclkFailure => true
  | .nop cell o => decide (cell < 1024) && o.wf
  | .endRun cell o => decide (cell < 1024) && o.wf
  | .jmp cell o => decide (cell < 1024) && o.wf
  | .loop cell o => decide (cell < 1024) && o.wf
  | .bnz cell o => decide (cell < 1024) && o.wf
  | .wait cell o => decide (cell < 1024) && o.wf
  | .incr cell o => decide (cell < 1024) && o.wf
  | .raise cell o => decide (cell < 1024) && o.wf
  | .recv cell o _ => decide (cell < 1024) && o.wf
  | .send cell o _ => decide (cell < 1024) && o.wf
  | .dmain cell o _ => decide (cell < 1024) && o.wf
  | .dmaout cell o _ => decide (cell < 1024) && o.wf
  | .ldw cell o _ => decide (cell < 1024) && o.wf
  | .vld cell o _ => decide (cell < 1024) && o.wf
  | .vst cell o _ => decide (cell < 1024) && o.wf
  | .mma cell o _ => decide (cell < 1024) && o.wf
  | .aclr cell o => decide (cell < 1024) && o.wf
  | .acrd cell o => decide (cell < 1024) && o.wf
  | .acwr cell o => decide (cell < 1024) && o.wf
  | .vadd cell o => decide (cell < 1024) && o.wf
  | .vmul cell o => decide (cell < 1024) && o.wf
  | .vfma cell o => decide (cell < 1024) && o.wf
  | .vmax cell o => decide (cell < 1024) && o.wf
  | .vmin cell o => decide (cell < 1024) && o.wf
  | .vexp2 cell o => decide (cell < 1024) && o.wf
  | .vlog2 cell o => decide (cell < 1024) && o.wf
  | .vrcp cell o => decide (cell < 1024) && o.wf
  | .vrsqrt cell o => decide (cell < 1024) && o.wf
  | .vrsum cell o => decide (cell < 1024) && o.wf
  | .vrmax cell o => decide (cell < 1024) && o.wf
  | .vqnt cell o _ => decide (cell < 1024) && o.wf
  | .vsplat cell o => decide (cell < 1024) && o.wf
  | .seti cell o => decide (cell < 1024) && o.wf
  | .addi cell o => decide (cell < 1024) && o.wf
  | .add cell o => decide (cell < 1024) && o.wf
  | .muli cell o => decide (cell < 1024) && o.wf
  | .streamWordHop _ _ _ => true
  | .runEnd queue _ => decide (queue < 32768)
  | .carrelScrub slot _ => slotNo slot
  | .ledgerClearSat _ part => decide (part < 16)
  | .ledgerClearNan _ part => decide (part < 16)
  | .ledgerClearInv _ part => decide (part < 16)
  | .ledgerClearResidue _ part => decide (part < 16)
  | .ledgerClearTrips _ part => decide (part < 16)
  | .perfFreeze _ _ => true
  | .perfClear _ part => decide (part < 16)
  | .traceReadAdvance _ _ => true
  | .traceLostEntry => true
  | .pour _ => true
  | .pourFirstPass _ => true
  | .pourSecondPass _ => true
  | .pourTwinTimeout => true
  | .pourComplete => true
  | .patternSwap queue _ _ => decide (queue < 32768)
  | .patternSwapWrite _ => true
  | .unpour _ => true
  | .queueDoorbell queue _ _ _ => decide (queue < 32768)
  | .ctlDoorbell _ _ => true
  | .dispatch queue _ => decide (queue ≤ 32768)
  | .nopWorkOrder queue _ => decide (queue ≤ 32768)
  | .runPattern queue _ => decide (queue < 32768)
  | .copy queue _ _ => decide (queue < 32768)
  | .copyConvert queue _ _ => decide (queue < 32768)
  | .digestCopy queue _ _ => decide (queue < 32768)
  | .gather queue _ _ => decide (queue < 32768)
  | .scatter queue _ _ => decide (queue < 32768)
  | .ladleRs queue _ _ => decide (queue < 32768)
  | .ladleAllReduce queue _ _ => decide (queue < 32768)
  | .ladleAg queue _ _ => decide (queue < 32768)
  | .ladleXchg queue _ _ => decide (queue < 32768)
  | .signal queue _ => decide (queue < 32768)
  | .waitWorkOrder queue _ => decide (queue ≤ 32768)
  | .fenceRecover _ => true
  | .fenceResetCell _ => true
  | .fenceResetCluster _ => true
  | .fenceResetShell _ => true
  | .testBarCell _ => true
  | .testBarLadle _ => true
  | .testBarNmu _ => true
  | .testBarIdleTimeout _ => true
  | .testBarComplete kind unit _ => decide ((kind = 0 ∧ slotNo unit = true) ∨ (kind = 1 ∧ unit < 4) ∨ (kind = 2 ∧ unit < 16))
  | .attest _ => true
  | .workOrderComplete queue _ _ => decide (queue ≤ 32768)
  | .queueCancel _ queue => decide (queue < 32768)
  | .queueDisable _ queue => decide (queue < 32768)
  | .syncIncrementApply counter _ => decide (counter < 16384)
  | .syncCounterDoorbell counter _ => decide (counter < 16384)
  | .incrPacket pkt => pkt.wf
  | .incrAck pkt => pkt.wf
  | .incrResend _ _ => true
  | .incrWithdrawTimeout _ _ => true
  | .withdraw _ pkt => pkt.wf
  | .withdrawResend _ _ _ => true
  | .withdrawAns _ pkt => pkt.wf
  | .watchdogTrip queue _ => decide (queue ≤ 32768)
  | .stackTempSample stack _ _ => decide (stack < 16)
  | .scrubRead stack _ => decide (stack < 16)
  | .nmuRead part _ _ _ _ => decide (part < 16)
  | .nmuWrite part _ _ _ => decide (part < 16)
  | .accOpen stack _ _ _ _ _ part plan => decide (stack < 16 ∧ part < 16 ∧ plan < 1024)
  | .accApply stack _ _ _ _ _ => decide (stack < 16)
  | .accAbort stack _ => decide (stack < 16)
  | .xcode queue _ _ _ _ _ _ _ => decide (queue < 32768)
  | .grow part _ _ _ _ _ _ => decide (part < 16)
  | .digest part region _ _ _ => decide (part < 16 ∧ region < 64)
  | .zero page n => decide (n < (if page then 512 else 16))
  | .regionClear _ part => decide (part < 16)
  | .flitData port f => decide (port < 18) && f.wf
  | .flitIdle port f => decide (port < 18) && f.wf
  | .flitNak port f => decide (port < 18) && f.wf
  | .flitHello port f => decide (port < 18) && f.wf
  | .flitLanemap port f => decide (port < 18) && f.wf
  | .nakRepeat port => decide (port < 18)
  | .laneFail port lane _ => decide (port < 18 ∧ lane < 8)
  | .lanemapRepeat port => decide (port < 18)
  | .laneMaskSwitch port => decide (port < 18)
  | .laneRetrain port lane => decide (port < 18 ∧ lane < 8)
  | .laneRestore port lane => decide (port < 18 ∧ lane < 8)
  | .portTrain port _ _ => decide (port < 18)
  | .helloSend port => decide (port < 18)
  | .portLossTimeout port => decide (port < 18)
  | .portRetrain port _ _ => decide (port < 18)
  | .linkRetrain _ port => decide (port < 18)
  | .linkEnable _ port _ => decide (port < 18)
  | .packetForward port vc _ => decide (port < 19 ∧ vc < 8)
  | .unreach pkt => pkt.wf
  | .readReq pkt _ => pkt.wf
  | .writeReq pkt => pkt.wf
  | .resp pkt => pkt.wf
  | .requestResend _ _ => true
  | .requestWithdrawTimeout _ _ => true
  | .senderStateExpiry _ => true
  | .rateLimitRaise _ => true
  | .runSetup pkt => pkt.wf
  | .runSetupAnswer _ _ => true
  | .runTeardown pkt => pkt.wf
  | .runData port _ => decide (port < 19)
  | .drain _ _ => true
  | .drainComplete => true
  | .drainTimeout => true
  | .resume _ _ => true
  | .protectedRegisterWrite _ _ _ => true
  | .gangBeaconSend => true
  | .gangBeacon pkt => pkt.wf
  | .gangMasterTimeout => true
  | .gangFollowTimeout => true
  | .chunkSend plan _ => decide (plan < 1024)
  | .chunk ladle pkt _ => decide (ladle < 4) && pkt.wf
  | .chunkAck pkt => pkt.wf
  | .chunkResend plan _ _ _ => decide (plan < 1024)
  | .sprue pkt => pkt.wf
  | .digestPacket pkt => pkt.wf
  | .notice pkt => pkt.wf
  | .verdictRound plan => decide (plan < 1024)
  | .collectiveStall plan => decide (plan < 1024)
  | .ldlAbort _ plan => decide (plan < 1024)
  | .hostLinkUp port => decide (port < 4)
  | .hostLinkDown port => decide (port < 4)
  | .hostPortRetrain _ port => decide (port < 4)
  | .arpRequest port _ => decide (port < 4)
  | .neighborSolicitation port _ => decide (port < 4)
  | .pfcFrame port cls _ => decide (port < 4 ∧ cls < 3)
  | .foreignFrame => true
  | .rdmaWriteMemory h _ => h.wf
  | .rdmaWriteDoorbell h _ _ => h.wf
  | .rdmaWriteRegister h _ => h.wf
  | .rdmaReadMemory h _ _ => h.wf
  | .rdmaReadRegister h _ => h.wf
  | .roceSend h _ => h.wf
  | .rdmaReadResponse qp _ => decide (qp < 8192)
  | .roceAck qp _ _ => decide (qp < 8192)
  | .roceAckTimeout qp => decide (qp < 8192)
  | .cnp qp => decide (qp < 8192)
  | .cnpRateRaise qp => decide (qp < 8192)
  | .qpStateWrite _ qp _ => decide (qp < 8192)
  | .regionValidSet _ region => decide (region < 1024)
  | .evqConsumerWrite _ evq _ => decide (evq < 64)
  | .eventRaise _ => true
  | .eventComplete _ => true
  | .eventBatch group => decide (group < 256)
  | .pfcPauseExpiry port cls => decide (port < 4 ∧ cls < 3)
  | .powerSample _ _ _ => true
  | .measurementFaultClear _ => true
  | .powerEstimate _ _ _ => true
  | .effectiveCapRecompute => true
  | .capHostWrite _ _ => true
  | .capMgmtWrite _ _ => true
  | .setpointStep quad _ => decide (quad < 4)
  | .pulsePeriod quad _ => decide (quad < 4)
  | .droopStart quad => decide (quad < 4)
  | .droopEnd quad _ => decide (quad < 4)
  | .slackReport _ => true
  | .gangPowerRound => true
  | .slack pkt => pkt.wf
  | .alloc pkt => pkt.wf
  | .allocAck pkt => pkt.wf
  | .allocAckTimeout => true
  | .capEmergAssert => true
  | .capEmergRelease => true
  | .junctionSample _ _ => true
  | .packageSensorSample _ _ => true
  | .flowRecover => true
  | .flowLossTimeout => true
  | .thermalModelUpdate _ => true
  | .sensorImplausible sensor => decide (sensor < 84)
  | .sensorPlausible sensor => decide (sensor < 84)
  | .sensorDisagreeing pair => decide (pair < 34)
  | .junctionThrottleTick quad => decide (quad < 4)
  | .hbmThrottleTick stack => decide (stack < 16)
  | .allowanceRise => true
  | .trayStale => true
  | .por _ => true
  | .bor => true
  | .pinReset => true
  | .pinResetRelease => true
  | .wdtExpiry _ => true
  | .lockUp => true
  | .jtagReset => true
  | .rstCmdL0 _ cell => decide (cell < 1024)
  | .rstCmdL1 _ cluster => decide (cluster < 64)
  | .rstCmdL2 _ part _ => decide (part < 16)
  | .rstCmdL3 _ => true
  | .idleReached _ _ => true
  | .idleTimeout _ _ => true
  | .resetComplete _ _ => true
  | .archivistBoot => true
  | .hbmTrainingDone stack _ => decide (stack < 16)
  | .ready => true
  | .spareTestRound => true
  | .suspectSlotTest slot => slotNo slot
  | .catSuspect _ cell => decide (cell < 1024)
  | .catSlotClear _ slot => slotNo slot
  | .cellStall cell => decide (cell < 1024)
  | .recoverCmd _ _ => true
  | .fenceDrainEnd part => decide (part < 16)
  | .hangRecordAssembled part => decide (part < 16)
  | .hangExportComplete part => decide (part < 16)
  | .hangExportTimeout part _ => decide (part < 16)
  | .resetL2Failure part => decide (part < 16)
  | .vmainLoss => true
  | .vmainRestore => true
  | .refclkReturn => true
  | .vbkpLoss => true
  | .vbkpReturn => true
  | .twinFilterExpiry _ part _ => decide (part < 16)
  | .pourDigest pkt => pkt.wf
  | .range pkt => pkt.wf
  | .beat pkt => pkt.wf
  | .beatSend => true
  | .leave pkt => pkt.wf
  | .diverged pkt => pkt.wf
  | .twinSilenceTimeout => true
  | .enrolKey m slot _ _ sg => decide (slot < 4) && m.wf && decide (sg.slot ≤ 4)
  | .revokeSlot m slot _ sg => decide (slot < 4) && m.wf && decide (sg.slot ≤ 4)
  | .programOwnerFuse m _ _ _ sg => m.wf && decide (sg.slot ≤ 4)
  | .tightenPolicy m _ _ sg => m.wf && decide (sg.slot ≤ 4)
  | .relaxPolicy m _ _ sg => m.wf && decide (sg.slot ≤ 4)
  | .debugUnlockOwner m sg => m.wf && decide (sg.slot ≤ 4)
  | .debugUnlockVendor m _ _ => m.wf
  | .recoveryModeEntry m sg => m.wf && decide (sg.slot ≤ 4)
  | .clearAuditCounters m sg => m.wf && decide (sg.slot ≤ 4)
  | .acknowledgeSealBreak m sg => m.wf && decide (sg.slot ≤ 4)
  | .presenceAssertion => true
  | .sealCheck _ => true
  | .attestReportComplete _ => true
  | .arcLock _ => true
  | .folioHeader m _ => m.wf
  | .folioData m _ _ _ _ => m.wf
  | .updateAbort _ => true
  | .updateActivate _ => true
  | .bankSyncComplete => true
  | .ppNRelease => true
  | .setdasa _ _ => true
  | .rstdaa => true
  | .setmrl _ => true
  | .setmwl _ => true
  | .setEndpointId _ _ => true
  | .getEndpointId _ => true
  | .getEndpointUuid _ => true
  | .getMctpVersionSupport _ _ => true
  | .getMessageTypeSupport _ => true
  | .mctpUnsupportedMessage => true
  | .getTid => true
  | .getPldmVersion _ => true
  | .getPldmTypes => true
  | .getPldmCommands _ => true
  | .getPdrRepositoryInfo => true
  | .getPdr => true
  | .getSensorReading _ => true
  | .getStateSensorReadings _ => true
  | .pldmUnsupported _ => true
  | .keepalive m _ => m.wf
  | .traySensors m _ _ _ => m.wf
  | .isolateNotice m _ => m.wf
  | .isolateNoticeExpiry => true
  | .regRead m _ _ => m.wf
  | .regWrite m _ _ => m.wf
  | .bind m _ _ _ => m.wf
  | .optionWrite m _ => m.wf
  | .subscribe m _ => m.wf
  | .novvanReset m _ _ _ _ => m.wf
  | .recover m _ => m.wf
  | .capSet m _ => m.wf
  | .novvanAttest m _ _ => m.wf
  | .certChain m => m.wf
  | .notificationReply _ _ => true
  | .notificationResend => true
  | .replyExpiry _ _ => true
  | .orphanTimeout => true
  | .events => true
  | .strapSample _ => true
  | .heartbeat => true
  | .novvanReservedCommand m _ => m.wf
  | .replyRead _ _ _ => true

end Sys2Proof
end

