-- ==== Sys2Proof/Certificates/Slice0/Obligations.lean ====
section
/-! DEFINITION. The statements for the provers. Each docstring says what its statement claims; a clause names one command. -/

open Sys2Proof Sys2Proof.Machine

/-! ### The block: the step, reset, what no command breaks -/

/-- For every command c and state s, the step of s with c at the front of its queue is exec of c on s with the queue's rest. On an
empty queue the block idles while the reference counter advances by 1 modulo 2^48 (the model's choice: log entry 13). -/
def Obligations.StepRunsTheFrontCommand : Prop :=
  (∀ (c : Instr) (s : State) (rest : List Instr), step { s with pending := c :: rest } = exec c { s with pending := rest }) ∧
  (∀ s : State, step { s with pending := [] } = .next { s with pending := [], dev := { s.dev with now := (s.dev.now + 1) % 2 ^ 48 } })

/-- State.reset has an empty queue; its fuses are its own (the start of the fuse invariant); HBM, shelves and carrels are in
canonical form and list nothing; the device is not READY, has no partition in service, no work order in flight, no run, no reset
in progress, and no pending event; every cell's program counter and every counter read 0. The values that the spec states no
reset for are the model's choice (log entries marked so). -/
def Obligations.ResetStateMeetsTheInvariants : Prop :=
  State.reset.pending = [] ∧ FusesFrom VendorFuses.init OwnerFuses.init State.reset ∧ State.reset.dev.memWf ∧
  State.reset.dev.mem.bytes = [] ∧ State.reset.dev.rst.state = 0 ∧ State.reset.dev.rst.ops = [] ∧
  State.reset.dev.que.flights = [] ∧ State.reset.dev.cat.runs = [] ∧
  (∀ p, (State.reset.dev.part p).state = 0) ∧ (∀ n, (State.reset.dev.src n).pending = 0) ∧
  (∀ n, (State.reset.dev.counter n).value = 0) ∧ ∀ k, (State.reset.dev.slot k).pc = 0

/-- Every command ends in a next state or in the one fault noSuchUnit, never in a refusal; one whose units exist and whose operands
fit their fields (Instr.wf) always ends in a next state. Whatever the command, the queue and the vendor fuses of the next state
are those of the state before. -/
def Obligations.WellFormedCommandsComplete : Prop :=
  ∀ (c : Instr) (s : State),
    (c.wf = true → ∃ t : State, exec c s = .next t) ∧
    (exec c s = .fault .noSuchUnit ∨ ∃ t : State, exec c s = .next t ∧ t.pending = s.pending ∧ t.vendor = s.vendor)

/-- Where a state's vendor fuses are v and every owner fuse bit set in o is set, the same holds of the next state of any step,
whatever command stands at the front of the queue: a key hash, an enrolment, a revocation, a rollback thermometer, the reach
table, the policy floor, the confidential policy and auto-lock only ever gain bits. -/
def Obligations.FusesOnlyGrow : Prop :=
  ∀ (v : VendorFuses) (o : OwnerFuses) (s t : State), FusesFrom v o s → step s = .next t → FusesFrom v o t

/-! ### Cells: scalar, control and synchronising instructions -/

/-- Writing x register i of a slot with v: x0 still reads 0, register i (other than x0) reads v modulo 2^32, every other register
reads as before, and nothing else of the slot changes; writing x0 changes nothing at all. -/
def Obligations.ScalarRegistersReadWhatWasWritten : Prop :=
  ∀ (s : Slot) (i v : Nat),
    (∀ j, (s.setX i v).x j = if j = 0 then 0 else if j = i then v % 2 ^ 32 else s.x j) ∧
    s.setX 0 v = s ∧ (s.setX i v) = { s with xr := (s.setX i v).xr }

/-- For a cell whose sequencer may issue the instruction, exec answers a next state in which the slot holds what the opcode table
gives (the destination register written, the pc advanced or at the target) and nothing else of the slot, no other slot, and no
block but the cells' (performance counters) has changed. LOOP decrements modulo 2^32 and branches while the result is not zero;
BNZ branches while the register is not zero. Advancing past instruction 4,095 leaves the pc and marks that the sequencer issues
nothing further. -/
def Obligations.ScalarAndControlInstructions : Prop :=
  ∀ (s : State) (cell : Nat) (o : Opds) (r : Run) (k : Nat),
    (Issues s cell 0x00 o r k → Runs (.nop cell o) s [.cat] (fun d =>
      d.slot k = (s.dev.slot k).advance ∧ But k s.dev.slot d.slot)) ∧
    (Issues s cell 0x02 o r k → Runs (.jmp cell o) s [.cat] (fun d =>
      d.slot k = { s.dev.slot k with pc := o.opd0 % 4096 } ∧ But k s.dev.slot d.slot)) ∧
    (Issues s cell 0x03 o r k → Runs (.loop cell o) s [.cat] (fun d =>
      let x := regIx o.opd0
      let sl := (s.dev.slot k).setX x ((s.dev.slot k).x x + (2 ^ 32 - 1))
      d.slot k = (if sl.x x = 0 then sl.advance else { sl with pc := o.opd1 % 4096 }) ∧ But k s.dev.slot d.slot)) ∧
    (Issues s cell 0x04 o r k → Runs (.bnz cell o) s [.cat] (fun d =>
      d.slot k = (if (s.dev.slot k).x (regIx o.opd0) = 0 then (s.dev.slot k).advance
        else { s.dev.slot k with pc := o.opd1 % 4096 }) ∧ But k s.dev.slot d.slot)) ∧
    (Issues s cell 0xA0 o r k → Runs (.seti cell o) s [.cat] (fun d =>
      d.slot k = ((s.dev.slot k).setX (regIx o.opd0) o.opd1).advance ∧ But k s.dev.slot d.slot)) ∧
    (Issues s cell 0xA1 o r k → Runs (.addi cell o) s [.cat] (fun d =>
      d.slot k = ((s.dev.slot k).setX (regIx o.opd0) ((s.dev.slot k).x (regIx o.opd1) + o.opd2)).advance ∧
      But k s.dev.slot d.slot)) ∧
    (Issues s cell 0xA2 o r k → Runs (.add cell o) s [.cat] (fun d =>
      d.slot k = ((s.dev.slot k).setX (regIx o.opd0)
        ((s.dev.slot k).x (regIx o.opd1) + (s.dev.slot k).x (regIx o.opd2))).advance ∧ But k s.dev.slot d.slot)) ∧
    (Issues s cell 0xA3 o r k → Runs (.muli cell o) s [.cat] (fun d =>
      d.slot k = ((s.dev.slot k).setX (regIx o.opd0) ((s.dev.slot k).x (regIx o.opd1) * o.opd2)).advance ∧
      But k s.dev.slot d.slot))

/-- For a cell whose sequencer may issue the instruction: while a RECV or SEND of the cell has not retired the command leaves the
state as it is; once all have retired END finishes the cell's part of the run, WAIT goes on, INCR adds its amount to the counter
(saturating at 2^64 - 1), RAISE adds one pending raising with info zero to a bound source below 255 pending. No slot but the
cell's own, and no block but the cells', the counters' and the event concentrator's, changes. -/
def Obligations.DrainingInstructions : Prop :=
  ∀ (s : State) (cell : Nat) (o : Opds) (r : Run) (k : Nat),
    (Issues s cell 0x01 o r k → (s.dev.slot k).drained = true → Runs (.endRun cell o) s [.cat] (fun d =>
      (d.slot k).ended = true ∧ d.slot k = { s.dev.slot k with ended := true, pc := (d.slot k).pc } ∧
      But k s.dev.slot d.slot)) ∧
    (Issues s cell 0x01 o r k → (s.dev.slot k).drained = false → exec (.endRun cell o) s = .next s) ∧
    (Issues s cell 0x05 o r k → (s.dev.slot k).drained = true → Runs (.wait cell o) s [.cat] (fun d =>
      d.slot k = (s.dev.slot k).advance ∧ But k s.dev.slot d.slot)) ∧
    (Issues s cell 0x05 o r k → (s.dev.slot k).drained = false → exec (.wait cell o) s = .next s) ∧
    (Issues s cell 0x06 o r k → (s.dev.slot k).drained = true → Runs (.incr cell o) s [.cat, .syn, .evc] (fun d =>
      d.slot k = (s.dev.slot k).advance ∧ But k s.dev.slot d.slot ∧
      (d.counter o.opd0).value = satAdd 64 (s.dev.counter o.opd0).value o.opd1 ∧ But o.opd0 s.dev.counter d.counter)) ∧
    (Issues s cell 0x06 o r k → (s.dev.slot k).drained = false → exec (.incr cell o) s = .next s) ∧
    (Issues s cell 0x07 o r k → (s.dev.slot k).drained = true → (s.dev.src o.opd0).bound = true →
      (s.dev.src o.opd0).pending < 255 → Runs (.raise cell o) s [.cat, .evc] (fun d =>
      d.slot k = (s.dev.slot k).advance ∧ But k s.dev.slot d.slot ∧
      (d.src o.opd0).pending = (s.dev.src o.opd0).pending + 1 ∧ (d.src o.opd0).info = 0 ∧ But o.opd0 s.dev.src d.src)) ∧
    (Issues s cell 0x07 o r k → (s.dev.slot k).drained = false → exec (.raise cell o) s = .next s)

/-! ### Cells: streams and runs -/

/-- For at most 2^21 bytes written from carrel address a: the byte at (a + i) modulo 2^21 reads back as byte i, every byte at
another offset below 2^21 reads as before, and a carrel in canonical form stays in it. -/
def Obligations.CarrelBytesWrapModuloTwoMebibytes : Prop :=
  ∀ (t : Tab Byte) (a : Nat) (bs : Bytes), bs.length ≤ 2 ^ 21 →
    (∀ i, i < bs.length → tget 0 (carPut t a bs) ((a + i) % 2 ^ 21) = bs.getD i 0) ∧
    (∀ j, j < 2 ^ 21 → (∀ i, i < bs.length → (a + i) % 2 ^ 21 ≠ j) → tget 0 (carPut t a bs) j = tget 0 t j) ∧
    (Memory.wf t = true → Memory.wf (carPut t a bs) = true)

/-- RECV on an idle port whose buffer is empty puts the receive in flight at its carrel address and the pc goes on; SEND on an idle
port without failed carrel words puts its words, read from the carrel in order, on the output port; on a port that no channel
joins the cell issues nothing further. A channel's word crosses to its one destination when that has room and takes part in no
run: it joins the end of the input buffer and leaves the sender. Only the named slots and the cells' block change. -/
def Obligations.StreamInstructions : Prop :=
  (∀ (s : State) (cell : Nat) (o : Opds) (r : Run) (k : Nat), Issues s cell 0x20 o r k →
    tget none (s.dev.slot k).recv o.opd0 = none → tget [] (s.dev.slot k).inBuf o.opd0 = [] →
    (s.dev.slot k).busyCar [((s.dev.slot k).addr o.opd1, 64 * o.opd2)] = false →
    Runs (.recv cell o Ecc.quiet) s [.cat] (fun d =>
      tget none (d.slot k).recv o.opd0 = some { addr := (s.dev.slot k).addr o.opd1, total := o.opd2, done := 0 } ∧
      (d.slot k).pc = (s.dev.slot k).advance.pc ∧
      (d.slot k).ranOff = ((s.dev.slot k).advance.ranOff || !s.dev.inChan cell o.opd0) ∧
      d.slot k = { s.dev.slot k with recv := (d.slot k).recv, pc := (d.slot k).pc, ranOff := (d.slot k).ranOff } ∧
      But k s.dev.slot d.slot)) ∧
  (∀ (s : State) (cell : Nat) (o : Opds) (r : Run) (k : Nat), Issues s cell 0x21 o r k →
    tget [] (s.dev.slot k).outBuf o.opd0 = [] → (s.dev.slot k).carrelUe = [] →
    (s.dev.slot k).busyCar [((s.dev.slot k).addr o.opd1, 64 * o.opd2)] = false →
    Runs (.send cell o Ecc.quiet) s [.cat] (fun d =>
      tget [] (d.slot k).outBuf o.opd0 = (List.range o.opd2).map (fun i =>
        { data := BitVec.ofNat 512 (ofLe ((s.dev.slot k).bytes (((s.dev.slot k).addr o.opd1 + 64 * i) % 2 ^ 21) 64)),
          bad := false }) ∧
      (d.slot k).pc = (s.dev.slot k).advance.pc ∧
      (d.slot k).ranOff = ((s.dev.slot k).advance.ranOff || !s.dev.outChan cell o.opd0) ∧
      d.slot k = { s.dev.slot k with outBuf := (d.slot k).outBuf, pc := (d.slot k).pc, ranOff := (d.slot k).ranOff } ∧
      But k s.dev.slot d.slot)) ∧
  (∀ (s : State) (ch n port ks kd : Nat) (c : Chan) (w : SWord) (ws : List SWord) (bad : Bool),
    s.dev.thm.hold = false → tget none s.dev.cat.chans ch = some c → c.dst = [(n, port)] → c.taken = [] →
    s.dev.slotOf c.srcCell = some ks → s.dev.slotOf n = some kd → ks ≠ kd →
    tget [] (s.dev.slot ks).outBuf c.srcPort = w :: ws → (tget [] (s.dev.slot kd).inBuf port).length < 16 →
    s.dev.runOf n = none → s.dev.runOf c.srcCell = none →
    Runs (.streamWordHop ch 0 bad) s [.cat] (fun d =>
      tget [] (d.slot kd).inBuf port = tget [] (s.dev.slot kd).inBuf port ++ [{ data := w.data, bad := bad }] ∧
      tget [] (d.slot ks).outBuf c.srcPort = ws ∧
      (∀ j, j ≠ ks → j ≠ kd → d.slot j = s.dev.slot j)))

/-- RUN_END of a work order whose run no cause has stopped, whose cells have all retired END and whose channels hold no word that
has not arrived, removes exactly that run; its work order in flight, with no earlier status, ends with status OK. A run that is
neither finished nor stopped goes on: the command changes nothing. -/
def Obligations.RunEndReturnsItsStatus : Prop :=
  ∀ (s : State) (q i : Nat) (r : Run), q < 32768 → s.dev.thm.hold = false →
    s.dev.cat.runs.find? (fun x => x.queue == q && x.index == i) = some r → r.fault = none →
    ((∀ n ∈ r.cells, ∃ k, s.dev.slotOf n = some k ∧ (s.dev.slot k).ended = true) → s.dev.groupChans r.cells = [] →
      Runs (.runEnd q i) s [.cat, .mld, .que] (fun d =>
        d.cat.runs = s.dev.cat.runs.filter (fun x => !(x.queue == q && x.index == i)) ∧
        (∀ f, s.dev.flight q i = some f → f.status = none → (d.flight q i).map (·.status) = some (some 0)))) ∧
    ((∃ n ∈ r.cells, ∃ k, s.dev.slotOf n = some k ∧ (s.dev.slot k).ended = false) → exec (.runEnd q i) s = .next s)

/-! ### Cells: memory, matrix and vector instructions -/

/-- With the carrel range free and no uncorrectable word: DMAIN stores the granted HBM and shelf bytes at the carrel address; DMAOUT
stores the carrel bytes in the granted pieces of memory and every address outside them reads as before; LDW on an aligned
address puts the raw tile in the buffer that flags bit 0 selects; VLD on an aligned address writes the decoded lanes into its v
register; VST on a 64-byte-aligned address stores its lanes rounded to the format. Each advances its cell, and nothing else of
the slot and no other slot changes. -/
def Obligations.CarrelTransfersAndLoads : Prop :=
  ∀ (s : State) (cell : Nat) (o : Opds) (r : Run) (k : Nat), (s.dev.slot k).carrelUe = [] →
    let sl := s.dev.slot k
    (∀ l, Issues s cell 0x40 o r k → sl.busyCar [(sl.addr o.opd0, o.opd2)] = false →
      Reaches s.dev r.part (sl.xPair (regIx o.opd1) % 2 ^ 44) o.opd2 1 l →
      Runs (.dmain cell o Ecc.quiet) s [.cat] (fun d =>
        d.slot k = ({ sl with carrel := carPut sl.carrel (sl.addr o.opd0) (memGets s.dev.mem.bytes l) } : Slot).advance ∧
        But k s.dev.slot d.slot)) ∧
    (∀ l, Issues s cell 0x41 o r k → sl.busyCar [(sl.addr o.opd0, o.opd2)] = false →
      Reaches s.dev r.part (sl.xPair (regIx o.opd1) % 2 ^ 44) o.opd2 2 l →
      Runs (.dmaout cell o Ecc.quiet) s [.cat, .mld, .evc, .mem] (fun d =>
        d.slot k = sl.advance ∧ But k s.dev.slot d.slot ∧
        d.mem.bytes = memPuts s.dev.mem.bytes l (sl.bytes (sl.addr o.opd0) o.opd2) ∧
        (∀ a, Outside l a → tget 0 d.mem.bytes a = tget 0 s.dev.mem.bytes a))) ∧
    (Issues s cell 0x42 o r k → sl.busyCar [(sl.addr o.opd0, 128 * groupBytes o.fmtA)] = false →
      sl.addr o.opd0 % fmtAlign o.fmtA = 0 →
      Runs (.ldw cell o Ecc.quiet) s [.cat, .mld, .que] (fun d =>
        d.slot k = (sl.setW (bit o.flags 0) { fmt := o.fmtA, bytes := sl.bytes (sl.addr o.opd0) (128 * groupBytes o.fmtA) }).advance ∧
        But k s.dev.slot d.slot)) ∧
    (Issues s cell 0x43 o r k → sl.busyCar [(sl.addr o.opd1, groupBytes o.fmtA)] = false →
      sl.addr o.opd1 % fmtAlign o.fmtA = 0 →
      Runs (.vld cell o Ecc.quiet) s [.cat, .pwr, .mld, .que] (fun d =>
        d.slot k = (sl.setV (regIx o.opd0)
          ((dec256 o.fmtA false (sl.bytes (sl.addr o.opd1) (groupBytes o.fmtA))).1.map (fun x => (elToF32 x).1))).advance ∧
        But k s.dev.slot d.slot)) ∧
    (Issues s cell 0x44 o r k → sl.busyCar [(sl.addr o.opd1, groupBytes o.fmtB)] = false → sl.addr o.opd1 % 64 = 0 →
      Runs (.vst cell o Ecc.quiet) s [.cat, .pwr, .mld, .que] (fun d =>
        d.slot k = ({ sl with carrel := carPut sl.carrel (sl.addr o.opd1) ((sl.v (regIx o.opd0)).flatMap (fun w =>
          leBytes (groupBytes o.fmtB / 256)
            (if o.fmtB = 0x32 then w else (f32To (fmtFloat o.fmtB).1 (fmtFloat o.fmtB).2 w).1))) } : Slot).advance ∧
        But k s.dev.slot d.slot))

/-- MMA with every activation row aligned, free and correctable adds, row by row, the block sums of its activation elements and the
weight buffer's columns (zeros where the buffer was never loaded); ACLR clears the elements and compensation words of its rows
and leaves every other; ACRD writes its v register from the row pair's elements and compensation words; ACWR writes the row pair
from its v register and clears their compensation words. Each advances its cell, and no other slot changes. -/
def Obligations.AccumulatorInstructions : Prop :=
  ∀ (s : State) (cell : Nat) (o : Opds) (r : Run) (k : Nat),
    let sl := s.dev.slot k
    (∀ addrs, addrs = (List.range (rowsOf o.opd0).2.2).map (fun i => (sl.addr o.opd1 + i * o.opd2) % 2 ^ 21) →
      Issues s cell 0x60 o r k → sl.carrelUe = [] → sl.busyCar (addrs.map (fun a => (a, groupBytes o.fmtA))) = false →
      (∀ a ∈ addrs, a % fmtAlign o.fmtA = 0) →
      Runs (.mma cell o Ecc.quiet) s [.cat, .pwr, .mld, .que] (fun d =>
        let w := (sl.columns (bit o.flags 0)).getD (o.fmtA, List.replicate 128 (List.replicate 256 elZero))
        let acts := addrs.map (fun a => (dec256 o.fmtA true (sl.bytes a (groupBytes o.fmtA))).1)
        d.slot k = (sl.mmaRows (bit o.flags 1) (fmtOwnTerm o.fmtA || fmtOwnTerm w.1) (rowsOf o.opd0).1 w.2 (rowsOf o.opd0).2.1
          acts).1.advance ∧
        But k s.dev.slot d.slot)) ∧
    (Issues s cell 0x61 o r k → Runs (.aclr cell o) s [.cat] (fun d =>
      (∀ key, (tget 0 (d.slot k).acc key, tget 0 (d.slot k).comp key) =
        (if accKey (rowsOf o.opd0).1 (rowsOf o.opd0).2.1 0 ≤ key ∧
            key < accKey (rowsOf o.opd0).1 ((rowsOf o.opd0).2.1 + (rowsOf o.opd0).2.2) 0
         then (0, 0) else (tget 0 sl.acc key, tget 0 sl.comp key))) ∧
      d.slot k = ({ sl with acc := (d.slot k).acc, comp := (d.slot k).comp } : Slot).advance ∧ But k s.dev.slot d.slot)) ∧
    (Issues s cell 0x62 o r k → Runs (.acrd cell o) s [.cat, .mld, .que] (fun d =>
      let key := accKey (sl.rowPair o.opd1).1 (2 * (sl.rowPair o.opd1).2) 0
      d.slot k = (sl.setV (regIx o.opd0) ((List.range 256).map (fun i =>
        (accRead (tget 0 sl.acc (key + i)).toNat (tget 0 sl.comp (key + i)).toNat).1))).advance ∧
      But k s.dev.slot d.slot)) ∧
    (Issues s cell 0x63 o r k → Runs (.acwr cell o) s [.cat] (fun d =>
      let key := accKey (sl.rowPair o.opd1).1 (2 * (sl.rowPair o.opd1).2) 0
      (∀ i, i < 256 → tget 0 (d.slot k).acc (key + i) = tget 0 sl.vr (regIx o.opd0 * 256 + i) ∧ tget 0 (d.slot k).comp (key + i) = 0) ∧
      (∀ j, j < key ∨ key + 256 ≤ j → tget 0 (d.slot k).acc j = tget 0 sl.acc j ∧ tget 0 (d.slot k).comp j = tget 0 sl.comp j) ∧
      d.slot k = ({ sl with acc := (d.slot k).acc, comp := (d.slot k).comp } : Slot).advance ∧ But k s.dev.slot d.slot))

/-- For a cell whose sequencer may issue the instruction, each of VADD, VMUL, VFMA, VMAX, VMIN, VEXP2, VLOG2, VRCP, VRSQRT, VRSUM,
VRMAX and VSPLAT writes its destination v register with the lane results of its operation (reductions by the eight-level tree,
in every lane), advances its cell, changes no other slot, and adds the saturations of its lanes to the partition's count. -/
def Obligations.VectorInstructions : Prop :=
  ∀ (s : State) (cell : Nat) (o : Opds) (r : Run) (k : Nat),
    let sl := s.dev.slot k
    let a := sl.v (regIx o.opd1)
    let gives := fun (c : Instr) (ws : List (Nat × Bool)) => Runs c s [.cat, .pwr, .mld, .que] (fun d =>
      d.slot k = (sl.setV (regIx o.opd0) (ws.map (·.1))).advance ∧ But k s.dev.slot d.slot ∧
      (d.part r.part).sat = satAdd 64 (s.dev.part r.part).sat (ws.filter (·.2)).length)
    (Issues s cell 0x80 o r k → gives (.vadd cell o) ((sl.lanes o).map (fun x => f32Add x.1 x.2.1))) ∧
    (Issues s cell 0x81 o r k → gives (.vmul cell o) ((sl.lanes o).map (fun x => f32Mul x.1 x.2.1))) ∧
    (Issues s cell 0x82 o r k → gives (.vfma cell o) ((sl.lanes o).map (fun x => f32Fma x.1 x.2.1 x.2.2))) ∧
    (Issues s cell 0x83 o r k → gives (.vmax cell o) ((sl.lanes o).map (fun x => (f32Max x.1 x.2.1, false)))) ∧
    (Issues s cell 0x84 o r k → gives (.vmin cell o) ((sl.lanes o).map (fun x => (f32Min x.1 x.2.1, false)))) ∧
    (Issues s cell 0x86 o r k → gives (.vexp2 cell o) (a.map f32Exp2)) ∧
    (Issues s cell 0x87 o r k → gives (.vlog2 cell o) (a.map f32Log2)) ∧
    (Issues s cell 0x88 o r k → gives (.vrcp cell o) (a.map f32Rcp)) ∧
    (Issues s cell 0x89 o r k → gives (.vrsqrt cell o) (a.map f32Rsqrt)) ∧
    (Issues s cell 0x8A o r k → Runs (.vrsum cell o) s [.cat, .pwr, .mld, .que] (fun d =>
      d.slot k = (sl.setV (regIx o.opd0) (List.replicate 256 (treeFold f32Add 8 a false).1)).advance ∧ But k s.dev.slot d.slot ∧
      (d.part r.part).sat = satAdd 64 (s.dev.part r.part).sat (if (treeFold f32Add 8 a false).2 then 1 else 0))) ∧
    (Issues s cell 0x8B o r k → Runs (.vrmax cell o) s [.cat, .pwr, .mld, .que] (fun d =>
      d.slot k = (sl.setV (regIx o.opd0)
        (List.replicate 256 (treeFold (fun x y => (f32Max x y, false)) 8 a false).1)).advance ∧ But k s.dev.slot d.slot)) ∧
    (Issues s cell 0x8E o r k → Runs (.vsplat cell o) s [.cat, .pwr] (fun d =>
      d.slot k = (sl.setV (regIx o.opd0) (List.replicate 256 (sl.x (regIx o.opd1)))).advance ∧ But k s.dev.slot d.slot))

/-- VQNT on an aligned address with its ranges free and no uncorrectable word stores the bytes that quantising the 256 lanes gives:
the group as one, or, for an MX format with a scale-address register, the codes at the address and the eight scales at the scale
address. It advances its cell; nothing else of the slot and no other slot changes. -/
def Obligations.QuantisingStore : Prop :=
  ∀ (s : State) (cell : Nat) (o : Opds) (r : Run) (k : Nat),
    let sl := s.dev.slot k
    let f := o.fmtB
    let a := sl.addr o.opd1
    let sreg := fld o.opd2 19 16
    let sr : Option Sr := if bit o.flags 0 then
      some { seed := (s.dev.part r.part).seed, tensor := sl.x (fld o.opd2 3 0), base := sl.xPair (fld o.opd2 11 8) % 2 ^ 40 }
      else none
    let z := quantise f (vqntRatio o.flags) ((sl.v (regIx o.opd0)).map f32) sr
    Issues s cell 0x8C o r k → sl.carrelUe = [] → a % fmtAlign f = 0 →
    ((fmtMx f && sreg != 0) = false → sl.busyCar [(a, groupBytes f)] = false →
      Runs (.vqnt cell o Ecc.quiet) s [.cat, .pwr, .mld, .que] (fun d =>
        d.slot k = ({ sl with carrel := carPut sl.carrel a (if fmtMx f then mxGroup z.1 z.2.1 else z.1) } : Slot).advance ∧
        But k s.dev.slot d.slot)) ∧
    ((fmtMx f && sreg != 0) = true → sl.busyCar [(a, 32 * fmtBits f), (sl.x sreg % 2 ^ 21, 8)] = false →
      Runs (.vqnt cell o Ecc.quiet) s [.cat, .pwr, .mld, .que] (fun d =>
        d.slot k = ({ sl with carrel := carPut (carPut sl.carrel a z.1) (sl.x sreg % 2 ^ 21) z.2.1 } : Slot).advance ∧
        But k s.dev.slot d.slot))

/-! ### Registers -/

/-- An access by a requester that reaches the registers names a register exactly when it is a naturally aligned 32-bit access to a
word that a map defines, or a naturally aligned 64-bit access to a 64-bit register. Any other access reads as zero and writes
nothing: only the requester's pending words (discarded), the access-error counter and what the device hands out or reports
change; with no write pending the counter goes up by one, saturating. -/
def Obligations.UndefinedAccessReadsZeroAndIsCounted : Prop :=
  (∀ addr size : Nat, (regFor addr size).isSome = true ↔
    (size = 4 ∧ addr % 4 = 0 ∧ (regAt addr).isSome = true) ∨
    (size = 8 ∧ addr % 8 = 0 ∧ ∃ x, regAt addr = some x ∧ x.word = 0 ∧ x.row.words = 2)) ∧
  ∀ (s : State) (r : Requester) (addr size value : Nat), s.dev.reaches r = true → regFor addr size = none →
    Runs (.registerLowWordRead r addr size) s [.acc, .sec, .out] (fun d =>
      d.out = .regData r addr 0 :: s.dev.out ∧ d.sec = { s.dev.sec with accessErr := d.sec.accessErr } ∧
      ((s.dev.access r).pdReg = none → d.sec.accessErr = satAdd 32 s.dev.sec.accessErr 1)) ∧
    Runs (.registerWrite r addr size value) s [.acc, .sec, .mgmt, .out] (fun d =>
      d.sec = { s.dev.sec with accessErr := d.sec.accessErr } ∧
      ((s.dev.access r).pdReg = none → d.sec.accessErr = satAdd 32 s.dev.sec.accessErr 1))

/-- A write by a requester that may write it to a register that its map marks lockable, while the lock is set, leaves every block of
the device as it is but the requester's shadow and pending words, the access-error counter, and the event concentrator, where
source 0xD400, below 255 pending, has one more raising; what the device reports may follow. -/
def Obligations.LockedRegistersKeepTheirValue : Prop :=
  ∀ (s : State) (r : Requester) (addr size value : Nat) (x : RegAt), s.dev.reaches r = true → regFor addr size = some x →
    x.row.who.may r = true → x.row.lock = true → s.dev.sec.locked = true → (s.dev.src 0xD400).pending < 255 →
    Runs (.registerWrite r addr size value) s [.acc, .sec, .evc, .mgmt, .out] (fun d =>
      d.sec = { s.dev.sec with accessErr := d.sec.accessErr } ∧
      (d.src 0xD400).pending = (s.dev.src 0xD400).pending + 1 ∧ But 0xD400 s.dev.src d.src)

/-- A 32-bit read of word 0 of a 64-bit register hands out the low word of its value and latches the high word in the requester's
shadow. In any later state in which that requester's shadow still stands, a 32-bit read of word 1 hands out the high word as it
was at the first read, whatever the register holds by then. -/
def Obligations.LowWordReadLatchesTheHighWord : Prop :=
  ∀ (s : State) (r : Requester) (a b : Nat) (x y : RegAt), s.dev.reaches r = true → (s.dev.access r).pdReg = none →
    regFor a 4 = some x → x.row.words = 2 → x.word = 0 → regFor b 4 = some y → y.row.words = 2 → y.word = 1 → y.off = x.off →
    let cur := x.row.rd { v := s.vendor, w := s.owner, d := s.dev, r := r } x.ix
    Runs (.registerLowWordRead r a 4) s [.acc, .out] (fun d =>
      d.out = .regData r a (cur % 2 ^ 32) :: s.dev.out ∧ (d.access r).shReg = some x.off ∧
      ∀ t : State, t.dev.reaches r = true → (t.dev.access r) = (d.access r) →
        Runs (.registerLowWordRead r b 4) t [.acc, .out] (fun e => e.out = .regData r b (cur / 2 ^ 32 % 2 ^ 32) :: t.dev.out))

/-- A 32-bit write by a requester that may write it to a one-word register that is not locked has exactly the effect of the
register's row on the device with the requester's pending words gone, followed by the report. For MEM_SCRUB_CTL: a value whose
interval lies in 1 to 168 sets interval and enable, and nothing but MEM, the access bookkeeping and the reports changes. -/
def Obligations.WritesOfOneWordRegistersCommit : Prop :=
  (∀ (s : State) (r : Requester) (addr value : Nat) (x : RegAt), s.dev.reaches r = true → (s.dev.access r).pdReg = none →
    (s.dev.access r).pend = [] →
    regFor addr 4 = some x → x.row.words = 1 → x.row.who.may r = true → (x.row.lock && s.dev.sec.locked) = false →
    ∃ d : Dev, DevOnly [.acc] s.dev d ∧ (d.access r).pdReg = none ∧
      exec (.registerWrite r addr 4 value) s =
        .next { s with dev := Dev.report s.dev (x.row.wr { v := s.vendor, w := s.owner, d := d, r := r } x.ix (value % 2 ^ 32) [0]) }) ∧
  (∀ (s : State) (r : Requester) (hours : Nat) (on : Bool), s.dev.reaches r = true → (s.dev.access r).pdReg = none →
    (s.dev.access r).pend = [] →
    1 ≤ hours → hours ≤ 168 →
    Runs (.registerWrite r (regBase + winMEM + 0x10) 4 (hours + (if on then 2 ^ 31 else 0))) s [.mem, .acc, .mgmt, .out] (fun d =>
      d.mem = { s.dev.mem with scrubH := hours, scrubOn := on }))

/-! ### Cells: upkeep, ledger, performance counters, trace -/

/-- CARREL_SCRUB of an existing slot without failed words: with no error every slot is as it was; with one corrected error the
quadrant's corrected count goes up by one, saturating, and every slot is as it was; with one uncorrectable word the quadrant's
uncorrectable count goes up by one, the word is marked failed, source 0xC824 + q, below 255 pending, has one more raising, and
no byte changes. -/
def Obligations.CarrelScrubFindsErrors : Prop :=
  ∀ (s : State) (k u : Nat), slotIx k = true → (s.dev.slot k).carrelUe = [] →
    Runs (.carrelScrub k Ecc.quiet) s [.cat] (fun d => ∀ j, d.slot j = s.dev.slot j) ∧
    Runs (.carrelScrub k { ce := [u], ue := [] }) s [.cat] (fun d => (∀ j, d.slot j = s.dev.slot j) ∧
      tget 0 d.cat.carrelCe (k / 512) = satAdd 32 (tget 0 s.dev.cat.carrelCe (k / 512)) 1) ∧
    ((s.dev.src (0xC824 + k / 512)).pending < 255 →
      Runs (.carrelScrub k { ce := [], ue := [u] }) s [.cat, .evc] (fun d =>
        d.slot k = { s.dev.slot k with carrelUe := [u % 2 ^ 21 / 8 * 8] } ∧ But k s.dev.slot d.slot ∧
        tget 0 d.cat.carrelUe (k / 512) = satAdd 32 (tget 0 s.dev.cat.carrelUe (k / 512)) 1 ∧
        (d.src (0xC824 + k / 512)).pending = (s.dev.src (0xC824 + k / 512)).pending + 1))

/-- A ledger clear by a requester that reaches the registers sets its counter, with its overflow flag where it has one, to zero for
the partition named; the partition's other counters and every other partition keep theirs; beside the partitions' block only
access bookkeeping and reports change. -/
def Obligations.LedgerClears : Prop :=
  ∀ (s : State) (r : Requester) (p : Nat), s.dev.reaches r = true → p < 16 →
    let gives := fun (c : Instr) (x : Part) => Runs c s [.mld, .acc, .sec, .mgmt, .out] (fun d =>
      d.part p = x ∧ But p s.dev.part d.part)
    gives (.ledgerClearSat r p) { s.dev.part p with sat := 0, satOvf := false } ∧
    gives (.ledgerClearNan r p) { s.dev.part p with nan := 0, nanOvf := false } ∧
    gives (.ledgerClearInv r p) { s.dev.part p with inv := 0, invOvf := false } ∧
    gives (.ledgerClearResidue r p) { s.dev.part p with residue := 0, resOvf := false } ∧
    gives (.ledgerClearTrips r p) { s.dev.part p with trips := 0 }

/-- A requester other than the management port that reaches the registers: PERF_FREEZE sets the freeze bit; PERF_CLEAR zeroes
exactly the counters of the cells in the partition's clusters; TRACE_READ_ADVANCE sets the read pointer modulo 4,096. From the
management port each leaves the counters, the bit and the pointer as they are and is counted. TRACE_LOST_ENTRY, while tracing
with entries missed and room in the buffer, writes the LOST entry with the count missed at the write pointer, advances it and
clears the count. -/
def Obligations.PerformanceCountersAndTrace : Prop :=
  (∀ (s : State) (r : Requester) (b : Bool) (p n : Nat), s.dev.reaches r = true → r ≠ .mgmt → p < 16 →
    Runs (.perfFreeze r b) s [.cat, .acc, .sec, .mgmt, .out] (fun d => d.cat = { s.dev.cat with freeze := b }) ∧
    Runs (.perfClear r p) s [.cat, .acc, .sec, .mgmt, .out] (fun d =>
      d.cat = { s.dev.cat with perf := d.cat.perf } ∧
      ∀ cell i, i < 8 → tget 0 d.cat.perf (cell * 8 + i) =
        if bit (s.dev.part p).clusters.toNat (cell / 16) then 0 else tget 0 s.dev.cat.perf (cell * 8 + i)) ∧
    Runs (.traceReadAdvance r n) s [.cat, .acc, .sec, .mgmt, .out] (fun d => d.cat = { s.dev.cat with trRead := n % 4096 })) ∧
  (∀ (s : State) (b : Bool) (p n : Nat), p < 16 → (s.dev.access .mgmt).pdReg = none →
    ∀ c ∈ [Instr.perfFreeze .mgmt b, .perfClear .mgmt p, .traceReadAdvance .mgmt n],
      Runs c s [.sec, .mgmt, .out] (fun d => d.sec = { s.dev.sec with accessErr := satAdd 32 s.dev.sec.accessErr 1 })) ∧
  (∀ (s : State), s.dev.cat.trEnable = true → s.dev.cat.trMissed ≠ 0 → (s.dev.cat.trStop && trUsed s.dev.cat == 4095) = false →
    Runs .traceLostEntry s [.cat] (fun d =>
      tget none d.cat.trBuf s.dev.cat.trWrite =
        some { kind := 0x07, part := 0, quad := 0, ts := s.dev.now, payload := s.dev.cat.trMissed } ∧
      d.cat.trWrite = (s.dev.cat.trWrite + 1) % 4096 ∧ d.cat.trMissed = 0))

/-! ### Queues, doorbells, work orders -/

/-- A queue doorbell whose value is ahead of the produced count and no more than the ring's size past the retired count sets the
produced count; a head that this makes available is read from the ring (or, of the control queue, from its slot). A value
outside those bounds only counts as a bad doorbell. An increment of a bound counter of a READY partition by a nonzero amount
adds it, saturating at 2^64 - 1, and raises the counter's bound source; any other increment is only counted as refused. No other
queue, counter or source, and no other block, changes. -/
def Obligations.DoorbellsAndCounterIncrements : Prop :=
  (∀ (s : State) (q v : Nat), q < 32768 → (s.dev.queue q).state = 1 → (s.dev.part (s.dev.queue q).part).state ≠ 1 →
    let x := s.dev.queue q
    let ahead := (v % 2 ^ 32 + 2 ^ 32 - x.prod) % 2 ^ 32
    let back := (v % 2 ^ 32 + 2 ^ 32 - x.ret) % 2 ^ 32
    ahead ≠ 0 →
    (∀ e, ahead ≤ back → back ≤ x.size → x.head.isSome = true → Runs (.queueDoorbell q 0 v e) s [.que] (fun d =>
      d.queue q = { x with prod := v % 2 ^ 32 } ∧ But q s.dev.queue d.queue)) ∧
    (∀ l, ahead ≤ back → back ≤ x.size → x.head = none → v % 2 ^ 32 ≠ x.disp →
      Reaches s.dev x.part (x.ring + 64 * (x.disp % x.size)) 64 1 l →
      Runs (.queueDoorbell q 0 v Ecc.quiet) s [.que] (fun d =>
        d.queue q = { x with prod := v % 2 ^ 32, head := some (memGets s.dev.mem.bytes l) } ∧ But q s.dev.queue d.queue)) ∧
    (∀ e, ¬(ahead ≤ back ∧ back ≤ x.size) → Runs (.queueDoorbell q 0 v e) s [.que] (fun d =>
      d.que = { s.dev.que with badBell := satAdd 32 s.dev.que.badBell 1 }))) ∧
  (∀ (s : State) (v : Nat), s.dev.reaches .host = true →
    let m := s.dev.que
    let ahead := (v % 2 ^ 32 + 2 ^ 32 - m.ctlProd) % 2 ^ 32
    let back := (v % 2 ^ 32 + 2 ^ 32 - m.ctlRet) % 2 ^ 32
    ahead ≠ 0 → ahead ≤ back → back ≤ 16 → Runs (.ctlDoorbell .host v) s [.acc, .sec, .mgmt, .out, .que] (fun d =>
      d.que = { m with
        ctlProd := v % 2 ^ 32,
        ctlHead := if m.ctlHead.isSome || v % 2 ^ 32 == m.ctlDisp then m.ctlHead
          else some (leBytes 64 (tget 0 m.ctlSlot (m.ctlDisp % 16))) })) ∧
  (∀ (s : State) (n a : Nat), n < 16384 →
    let c := s.dev.counter n
    (c.bound = true → (s.dev.part c.part).ready = true → a ≠ 0 → ∀ cmd ∈ [Instr.syncIncrementApply n a, Instr.syncCounterDoorbell n a],
      Runs cmd s [.syn, .evc] (fun d =>
        d.counter n = { c with value := satAdd 64 c.value a, ovf := c.ovf || satOver 64 c.value a } ∧ But n s.dev.counter d.counter ∧
        ((s.dev.src (0x8000 + n)).bound = true → (s.dev.src (0x8000 + n)).pending < 255 →
          (d.src (0x8000 + n)).pending = (s.dev.src (0x8000 + n)).pending + 1 ∧
          (d.src (0x8000 + n)).info = (d.counter n).value % 2 ^ 48) ∧ But (0x8000 + n) s.dev.src d.src)) ∧
    (¬(c.bound = true ∧ (s.dev.part c.part).ready = true ∧ a ≠ 0) → Runs (.syncIncrementApply n a) s [.syn] (fun d =>
      d.syn = { s.dev.syn with refused := satAdd 32 s.dev.syn.refused 1 })))

/-- The engine takes the head of the queue that engine order chooses: the dispatched count goes up by one modulo 2^32, and one
flight with the queue, the head's index and its words joins those in flight, after them. A head that could not be read ends with
UNCORRECTABLE, a malformed one with MOULD_MISMATCH and the lowest detail that applies; a well-formed one, apart from a copy, a
collective or a run on a failed group, is in flight without a status. A queue that engine order does not choose keeps
everything. -/
def Obligations.DispatchTakesTheHead : Prop :=
  ∀ (s : State) (q : Nat) (e : Ecc), q ≤ 32768 →
    (s.dev.chosen q = false → exec (.dispatch q e) s = .next s) ∧
    (s.dev.chosen q = true →
      let x := s.dev.anyQueue q
      let w := x.head.getD []
      let p := if q = ctlQ then 0 else x.part
      Runs (.dispatch q e) s [.que, .mld, .ldl, .twin, .cat, .evc, .mem, .mgmt, .out] (fun d =>
        (d.anyQueue q).disp = (x.disp + 1) % 2 ^ 32 ∧ (d.anyQueue q).prod = x.prod ∧ (d.anyQueue q).ret = x.ret ∧
        (∀ j, j ≠ q → d.queue j = s.dev.queue j) ∧
        ∃ f, d.que.flights = s.dev.que.flights ++ [f] ∧ f.queue = q ∧ f.index = x.disp ∧ f.part = p ∧ f.started = false ∧
          (w = [] → f.status = some stUe ∧ f.wo = List.replicate 64 0) ∧ (w ≠ [] → f.wo = w) ∧
          (w ≠ [] → s.dev.malformed w (q == ctlQ) p ≠ 0 →
            f.status = some stMould ∧ f.detail = s.dev.malformed w (q == ctlQ) p) ∧
          (w ≠ [] → s.dev.malformed w (q == ctlQ) p = 0 → woOp w ≠ 0x02 → isCol w = false →
            (woOp w = 0x01 → s.dev.groupFailed p (woOpd w 0 2) = false) → f.status = none)))

/-- Taken by their unit, a NOP, a WAIT and a SIGNAL work order end with OK; SIGNAL of a bound source below 255 pending adds one
raising with info zero to it and to no other, and SIGNAL of 0xFFFF raises nothing. RUN_PATTERN on a cell group none of whose
cells is in a run, under a swap or marked by a failed swap, and whose waiting words carry no parity mark, adds one run of the
group; every cell's slot takes the run's start values with its rank, and no other slot changes. -/
def Obligations.WorkOrdersThatNeedNoOtherUnit : Prop :=
  ∀ (s : State) (q i : Nat) (f : Flight), q < 32768 →
    (s.dev.take q i 0x00 = some f → Runs (.nopWorkOrder q i) s [.que] (Ended q i f 0 0 0 s.dev)) ∧
    (s.dev.take q i 0x21 = some f → Runs (.waitWorkOrder q i) s [.que] (Ended q i f 0 0 0 s.dev)) ∧
    (s.dev.take q i 0x20 = some f → woOpd f.wo 0 2 = 0xFFFF → Runs (.signal q i) s [.que] (Ended q i f 0 0 0 s.dev)) ∧
    (s.dev.take q i 0x20 = some f → woOpd f.wo 0 2 ≠ 0xFFFF → (s.dev.src (woOpd f.wo 0 2)).bound = true →
      (s.dev.src (woOpd f.wo 0 2)).pending < 255 → Runs (.signal q i) s [.que, .evc] (fun d =>
        Ended q i f 0 0 0 s.dev d ∧ (d.src (woOpd f.wo 0 2)).pending = (s.dev.src (woOpd f.wo 0 2)).pending + 1 ∧
        (d.src (woOpd f.wo 0 2)).info = 0 ∧ But (woOpd f.wo 0 2) s.dev.src d.src)) ∧
    (∀ g, s.dev.take q i 0x01 = some f → s.dev.thm.hold = false → s.dev.groupOf f.part (woOpd f.wo 0 2) = some g →
      (∀ r ∈ s.dev.cat.runs, ∀ n ∈ r.cells, n ∉ g.list) → s.dev.swapCovers g.list = false →
      (∀ n ∈ g.list, bit s.dev.cat.swapBad n = false ∧ ∃ k, s.dev.slotOf n = some k ∧
        (∀ kv ∈ (s.dev.slot k).inBuf, ∀ w ∈ kv.2, w.bad = false)) →
      (∀ n ∈ g.list, ∀ m ∈ g.list, s.dev.slotOf n = s.dev.slotOf m → n = m) →
      Runs (.runPattern q i) s [.cat, .que] (fun d =>
        d.cat.runs = s.dev.cat.runs ++ [(⟨q, i, woOpd f.wo 0 2, f.part, g.list, woOpd f.wo 2 2, none⟩ : Run)] ∧
        d.flight q i = some { f with started := true } ∧ ButWork q i s.dev d ∧
        (∀ n rank k, (n, rank) ∈ g.list.zipIdx → s.dev.slotOf n = some k → d.slot k = (s.dev.slot k).startRun f.wo n rank) ∧
        (∀ k, (∀ n ∈ g.list, s.dev.slotOf n ≠ some k) → d.slot k = s.dev.slot k)))

/-- With both sides on this device, every piece granted in memory and no unit uncorrectable: COPY and DIGEST_COPY move their pieces
in ascending offset and end OK with the bytes moved; COPY_CONVERT and XCODE store the transcoder's bytes and add its counts to
the partition's ledger, COPY_CONVERT ending OK with the destination's length; GATHER and SCATTER move one row for each index in
list order and end OK with the bytes moved; GROW moves one row; DIGEST writes the range's digest, address and length into its
region slot as valid. Bytes outside the destination, other work orders and other blocks are as before. -/
def Obligations.CopiesConversionsGathersAndScatters : Prop :=
  (∀ (s : State) (q i : Nat) (f : Flight) (dg : Bool) (ls ld : Nat → List (Nat × Nat)), q < 32768 → s.dev.thm.hold = false →
    let a := woOpd f.wo 0 8
    let b := woOpd f.wo 8 8
    s.dev.take q i 0x02 = some f → woFmtA f.wo = 0 → bit (woFlags f.wo) 4 = dg → s.dev.far a = false → s.dev.far b = false →
    (dg = true → s.dev.nmuBad f.part = false ∧ a ≠ b) → s.dev.copyDenied f.part a b (woOpd f.wo 16 4) (a == b) dg = none →
    (∀ x ∈ copyPieces f.wo, Reaches s.dev f.part (a % 2 ^ 44 + x.1) x.2 1 (ls x.1) ∧
      Reaches s.dev f.part (b % 2 ^ 44 + x.1) x.2 2 (ld x.1)) →
    Runs (if dg then .digestCopy q i Ecc.quiet else .copy q i Ecc.quiet) s [.que, .mem, .mld, .evc, .mgmt, .out] (fun d =>
      d.mem.bytes = memMoves s.dev.mem.bytes ls ld ((copyPieces f.wo).map (fun x => (x.1, x.1))) ∧
      (∀ adr, (∀ x ∈ copyPieces f.wo, Outside (ld x.1) adr) → tget 0 d.mem.bytes adr = tget 0 s.dev.mem.bytes adr) ∧
      Ended q i f 0 0 ((copyPieces f.wo).map (fun x => x.2)).sum s.dev d)) ∧
  (∀ (s : State) (q i : Nat) (f : Flight) (ls lc ld : List (Nat × Nat)), q < 32768 → s.dev.thm.hold = false →
    let fa := woFmtA f.wo
    let fb := woFmtB f.wo
    let n := woOpd f.wo 16 4
    let out := transcode fa fb n (memGets s.dev.mem.bytes ls)
    s.dev.take q i 0x02 = some f → fa ≠ 0 → s.dev.nmuBad f.part = false →
    Reaches s.dev f.part (woOpd f.wo 0 8 % 2 ^ 44) (tensorBytes fa n) 0x21 ls →
    Reaches s.dev f.part (woOpd f.wo 8 8 % 2 ^ 44) (tensorBytes fb n) 0x22 lc →
    Reaches s.dev f.part (woOpd f.wo 8 8 % 2 ^ 44) out.1.length 0x22 ld →
    Runs (.copyConvert q i Ecc.quiet) s [.que, .mem, .mld, .evc, .mgmt, .out] (fun d =>
      d.mem.bytes = memPuts s.dev.mem.bytes ld out.1 ∧
      (∀ adr, Outside ld adr → tget 0 d.mem.bytes adr = tget 0 s.dev.mem.bytes adr) ∧
      (d.part f.part).sat = satAdd 64 (s.dev.part f.part).sat out.2.sat ∧
      (d.flight q i).map (fun g => (g.status, g.result)) = some (some 0, tensorBytes fb n) ∧ ButWork q i s.dev d)) ∧
  (∀ (s : State) (q i src dst n fa fb : Nat) (f : Flight) (ls lc ld : List (Nat × Nat)), q < 32768 → s.dev.thm.hold = false →
    let out := transcode fa fb n (memGets s.dev.mem.bytes ls)
    s.dev.flight q i = some f → f.status = none → xcodeOk fa fb = true → n % 256 = 0 →
    Reaches s.dev f.part src (tensorBytes fa n) 0x21 ls → Reaches s.dev f.part dst (tensorBytes fb n) 0x22 lc →
    Reaches s.dev f.part dst out.1.length 0x22 ld →
    Runs (.xcode q i src dst n fa fb Ecc.quiet) s [.que, .mem, .mld, .evc] (fun d =>
      d.mem.bytes = memPuts s.dev.mem.bytes ld out.1 ∧
      (∀ adr, Outside ld adr → tget 0 d.mem.bytes adr = tget 0 s.dev.mem.bytes adr) ∧
      (d.part f.part).sat = satAdd 64 (s.dev.part f.part).sat out.2.sat ∧ ButWork q i s.dev d)) ∧
  (∀ (s : State) (q i : Nat) (f : Flight) (sc : Bool) (lx : List (Nat × Nat)) (ls ld : Nat → List (Nat × Nat)),
    q < 32768 → s.dev.thm.hold = false →
    let w := if bit (woFlags f.wo) 5 then 8 else 4
    let n := woOpd f.wo 18 2
    let row := (woFmtA f.wo + 256 * woFmtB f.wo) * 16
    let table := woOpd f.wo 0 6 % 2 ^ 44
    let buf := woOpd f.wo 12 6 % 2 ^ 44
    let rows := ((chunksOf w n (memGets s.dev.mem.bytes lx)).map ofLe).zipIdx
    s.dev.take q i 0x03 = some f → bit (woFlags f.wo) 4 = sc → s.dev.nmuBad f.part = false →
    Reaches s.dev f.part (woOpd f.wo 6 6 % 2 ^ 44) (w * n) 0x21 lx →
    (∀ x ∈ rows, Reaches s.dev f.part (if sc then buf + x.2 * row else table + x.1 * row) row 0x21 (ls (if sc then x.2 else x.1)) ∧
      Reaches s.dev f.part (if sc then table + x.1 * row else buf + x.2 * row) row 0x22 (ld (if sc then x.1 else x.2))) →
    Runs (if sc then .scatter q i Ecc.quiet else .gather q i Ecc.quiet) s [.que, .mem, .mld, .evc, .mgmt, .out] (fun d =>
      d.mem.bytes = memMoves s.dev.mem.bytes ls ld (rows.map (fun x => if sc then (x.2, x.1) else x)) ∧
      (∀ adr, (∀ x ∈ rows, Outside (ld (if sc then x.1 else x.2)) adr) → tget 0 d.mem.bytes adr = tget 0 s.dev.mem.bytes adr) ∧
      Ended q i f 0 0 (n * row) s.dev d)) ∧
  (∀ (s : State) (p table ix row dst : Nat) (sc : Bool) (ls ld : List (Nat × Nat)), p < 16 → s.dev.thm.hold = false →
    Reaches s.dev p (if sc then dst else table + ix * row) row 0x21 ls →
    Reaches s.dev p (if sc then table + ix * row else dst) row 0x22 ld →
    Runs (.grow p table ix row dst sc Ecc.quiet) s [.mem, .mld, .evc] (fun d =>
      d.mem.bytes = memPuts s.dev.mem.bytes ld (memGets s.dev.mem.bytes ls) ∧
      (∀ adr, Outside ld adr → tget 0 d.mem.bytes adr = tget 0 s.dev.mem.bytes adr))) ∧
  (∀ (s : State) (p r va n : Nat) (l : List (Nat × Nat)), p < 16 → r < 64 → s.dev.thm.hold = false → Reaches s.dev p va n 0x21 l →
    Runs (.digest p r va n Ecc.quiet) s [.mld] (fun d =>
      tget Region.init (d.part p).regions r =
        { digest := rangeDigest (memGets s.dev.mem.bytes l), addr := va, length := n, valid := true, stale := false, busy := false } ∧
      (∀ j, j ≠ r → tget Region.init (d.part p).regions j = tget Region.init (s.dev.part p).regions j) ∧ But p s.dev.part d.part))

/-! ### Collectives -/

/-- A Ladle that takes a collective whose Ladles are sound starts its instance where the first step has chunks for it to start: AG
and XCHG first copy the member's own block into the destination buffer. LADLE_ALL_REDUCE of a member whose group's root is
another reads its value and keeps it. CHUNK_SEND reads the next chunk that the step starts, counts it as sent and puts one CHUNK
with those bytes, their CRC-32C, its step's address and the plan's signature among the packets that wait to be injected. -/
def Obligations.LadleWorkOrdersAndChunks : Prop :=
  (∀ (s : State) (q i : Nat) (f : Flight) (n : Nat) (pl : Plan) (x : Inst), q < 32768 → s.dev.thm.hold = false →
    s.dev.takeCol q i 0 false = some (f, n, pl, x) → s.dev.ladleShort pl 0 = false → x.op = 0 →
    x.hold = [] → x.pos ≠ pl.steps 0 → x.out ≠ pl.startsIn 0 x.bytes (pl.stepAt 0 x.pos) →
    Runs (.ladleRs q i Ecc.quiet) s [.que, .ldl, .twin, .mgmt, .out] (fun d =>
      d.flight q i = some { f with started := true } ∧ ButWork q i s.dev d ∧
      (d.instOf n).map (fun y => (y.2.started, y.2.pos, y.2.out)) = some (true, x.pos, x.out) ∧ But n s.dev.plan d.plan)) ∧
  (∀ (s : State) (q i op : Nat) (f : Flight) (n : Nat) (pl : Plan) (x : Inst) (ls ld : List (Nat × Nat)),
    q < 32768 → s.dev.thm.hold = false → (op = 1 ∨ op = 2) →
    s.dev.takeCol q i op false = some (f, n, pl, x) → s.dev.ladleShort pl op = false → x.op = op →
    Reaches s.dev pl.part (if op = 1 then x.src else x.src + pl.self * x.bytes) x.bytes 1 ls →
    Reaches s.dev pl.part (x.dst + pl.self * x.bytes) x.bytes 2 ld →
    x.hold = [] → x.pos ≠ pl.steps op → x.out ≠ pl.startsIn op x.bytes (pl.stepAt op x.pos) →
    Runs (if op = 1 then .ladleAg q i Ecc.quiet else .ladleXchg q i Ecc.quiet) s [.que, .ldl, .twin, .mem, .mld, .evc, .mgmt, .out] (fun d =>
      d.mem.bytes = memPuts s.dev.mem.bytes ld (memGets s.dev.mem.bytes ls) ∧
      d.flight q i = some { f with started := true } ∧ ButWork q i s.dev d ∧
      (d.instOf n).map (fun y => (y.2.started, y.2.pos, y.2.out)) = some (true, x.pos, x.out) ∧ But n s.dev.plan d.plan)) ∧
  (∀ (s : State) (q i : Nat) (f : Flight) (n : Nat) (pl : Plan) (x : Inst) (l : List (Nat × Nat)),
    q < 32768 → s.dev.thm.hold = false → s.dev.takeCol q i 0 true = some (f, n, pl, x) → s.dev.ladleShort pl 0 = false →
    x.bytes ≠ 0 → Reaches s.dev pl.part x.src x.bytes 1 l →
    pl.dims ≠ 0 → x.spPos = 0 → pl.ring 0 = false → s.dev.sprueRoot pl 0 ≠ pl.self → x.final = none →
    Runs (.ladleAllReduce q i Ecc.quiet) s [.que, .ldl, .twin, .rte, .mld, .evc, .mgmt, .out] (fun d =>
      d.flight q i = some { f with started := true } ∧ ButWork q i s.dev d ∧
      (d.instOf n).map (fun y => (y.2.started, y.2.mine)) = some (true, some (memGets s.dev.mem.bytes l)) ∧ But n s.dev.plan d.plan)) ∧
  (∀ (s : State) (n : Nat) (pl : Plan) (x : Inst) (b k r : Nat) (l : List (Nat × Nat)), n < 1024 → s.dev.thm.hold = false →
    s.dev.instOf n = some (pl, x) → x.started = true → x.sprue = false → s.dev.twinned pl.part = false →
    s.dev.twinPeer (memberDev pl r) (memberPart pl r) = false → s.dev.isLost (memberDev pl r) = false →
    x.fwd = [] → x.hold = [] → x.pos ≠ pl.steps x.op →
    let j := pl.stepAt x.op x.pos
    nthStart (pl.starts x.op j) (chunksIn x.bytes) pl.blocks x.out = some (b, k, r) →
    x.out + 1 ≠ pl.startsIn x.op x.bytes j →
    Reaches s.dev pl.part ((if x.op = 1 then x.dst else x.src) + b * x.bytes + 4096 * k) (chunkLen x.bytes k) 1 l →
    Runs (.chunkSend n Ecc.quiet) s [.ldl, .rte, .mgmt, .out] (fun d =>
      (∃ p, d.rte.heldInj = s.dev.rte.heldInj ++ [p] ∧ p.kind = 0x10 ∧ p.dst = memberDev pl r ∧ p.dstPart = memberPart pl r ∧
        p.srcPart = pl.part ∧ p.payload = memGets s.dev.mem.bytes l ∧ p.arg1 = crc32c p.payload ∧
        p.addr = pl.targetOff x.op j b k x.bytes (pl.chains x.op j r) ∧ p.arg0 / 2 ^ 16 = pl.sig % 2 ^ 16) ∧
      (d.instOf n).map (fun y => (y.2.out, y.2.sent.length)) = some (x.out + 1, x.sent.length + 1) ∧ But n s.dev.plan d.plan))

/-- Of an intact first copy for the current instance: a CHUNK of an all-gather or exchange writes its payload into the destination
buffer, is noted as accepted and, in an all-gather, enters the result digest; a DIGEST is compared with the digest of what came
from its sender; a SPRUE towards the root of a clique step, before this member has its own value, is kept. A NOTICE for an
instance yet to be dispatched is kept with its status unless an earlier one is. Each gets one CHUNK_ACK with outcome ACCEPTED. A
CHUNK_ACK with ACCEPTED takes its packet off those without an outcome and, of a chunk, counts it. -/
def Obligations.CollectivePacketsAreAppliedAndAcknowledged : Prop :=
  (∀ (s : State) (q : Nat) (k : Packet) (n m : Nat) (pl : Plan) (x : Inst) (ld : List (Nat × Nat)), q < 4 → s.dev.thm.hold = false →
    ForInstance s.dev k n pl x m → x.op ≠ 0 → x.inRange pl k m = true →
    Admits s.dev pl.part (x.dst + k.addr) k.payload.length 8 false ld →
    x.hold = [] → x.pos ≠ pl.steps x.op → x.out ≠ pl.startsIn x.op x.bytes (pl.stepAt x.op x.pos) →
    Runs (.chunk q k Ecc.quiet) s [.ldl, .rte, .mem, .mld, .evc, .mgmt, .out] (fun d =>
      d.mem.bytes = memPuts s.dev.mem.bytes ld k.payload ∧
      (d.instOf n).map (fun y => y.2.seen) = some (x.seen ++ [colIdent k m]) ∧
      (x.op = 1 → (d.instOf n).map (fun y => y.2.resDig) = some (Nat.xor x.resDig (digTerm k.addr (crc32c k.payload)))) ∧
      But n s.dev.plan d.plan ∧ Injects s.dev d (fun p => ChunkAcks k p 0))) ∧
  (∀ (s : State) (k : Packet) (n m : Nat) (pl : Plan) (x : Inst), s.dev.thm.hold = false → ForInstance s.dev k n pl x m →
    let j := fld k.arg0 11 10
    Runs (.digestPacket k) s [.ldl, .rte, .mgmt, .out] (fun d =>
      (d.instOf n).map (fun y => (y.2.seen, y.2.digIn, y.2.badDig)) = some (x.seen ++ [colIdent k m], x.digIn ++ [(j, m)],
        x.badDig || tget 0 x.rxDig (j * 2 ^ 20 + m) != le k.payload 0 8) ∧
      But n s.dev.plan d.plan ∧ Injects s.dev d (fun p => ChunkAcks k p 0))) ∧
  (∀ (s : State) (k : Packet) (n m : Nat) (pl : Plan) (x : Inst), s.dev.thm.hold = false → ForInstance s.dev k n pl x m →
    let j := fld k.arg0 11 10
    j < pl.dims → bit k.arg0 14 ≠ x.sprue → k.length ≤ 128 → pl.ring j = false → bit k.arg0 12 = false →
    x.mine = none → x.started = false →
    Runs (.sprue k) s [.ldl, .rte, .mgmt, .out] (fun d =>
      (d.instOf n).map (fun y => (y.2.seen, tget none y.2.spVals (spKey j (pl.digit j (k.addr % 2 ^ 20)) (fld k.arg0 13 13)))) =
        some (x.seen ++ [colIdent k m], some k.payload) ∧
      But n s.dev.plan d.plan ∧ Injects s.dev d (fun p => ChunkAcks k p 0))) ∧
  (∀ (s : State) (k : Packet) (n m : Nat) (pl : Plan), s.dev.thm.hold = false → ForPlan s.dev k n pl m →
    pl.instState k.seq = (none, true) →
    Runs (.notice k) s [.ldl, .rte, .evc, .mgmt, .out] (fun d =>
      d.plan n = some { pl with note := some (pl.note.getD (k.seq, k.arg1 % 256, m)) } ∧ d.ldl.ntStatus = k.arg1 % 256 ∧
      d.ldl.ntMember = m ∧ But n s.dev.plan d.plan ∧ Injects s.dev d (fun p => ChunkAcks k p 0))) ∧
  (∀ (s : State) (k : Packet) (n : Nat) (pl : Plan) (x : Inst) (c : ColSent), s.dev.thm.hold = false →
    n = k.arg0 % 1024 → s.dev.plan n = some pl → pl.inst = some x → x.sent.find? (fun c => c.answers k) = some c →
    k.arg1 % 256 = 0 → c.copy = false → bit pl.flags.toNat 1 = false → x.endSt = none →
    x.hold = [] → x.sprue = false → x.pos ≠ pl.steps x.op → x.out ≠ pl.startsIn x.op x.bytes (pl.stepAt x.op x.pos) →
    Runs (.chunkAck k) s [.ldl, .rte, .mgmt, .out] (fun d =>
      (d.instOf n).map (fun y => (y.2.sent, y.2.acked)) = some (dropFirst (fun y => y.answers k) x.sent,
        if c.pkt.kind = 0x10 then tup 0 x.acked (fld c.pkt.arg0 11 10 * 2 ^ 20 + c.member) (· + 1) else x.acked) ∧
      But n s.dev.plan d.plan))

/-- A packet without an outcome goes out again, counted: as kept, or with the bytes and CRC-32C of its source read again.
VERDICT_ROUND of a whole instance whose group's root is another contributes its record. COLLECTIVE_STALL counts, marks the
instance stalled and raises the plan's source with reason 1 and the lowest member awaited. LDL_ABORT by the bound host ends the
instance, its work order with CANCELLED, or UNREACHABLE where a member is lost. -/
def Obligations.CollectiveTimersAndAborts : Prop :=
  (∀ (s : State) (n ix : Nat) (pl : Plan) (x : Inst) (c : ColSent), n < 1024 → s.dev.thm.hold = false → s.dev.plan n = some pl →
    pl.inst = some x → x.sent[ix]? = some c → s.dev.isLost c.pkt.dst = false →
    (c.src = none → Runs (.chunkResend n false ix Ecc.quiet) s [.ldl, .rte, .mgmt, .out] (fun d =>
      d.ldl = { s.dev.ldl with rsTimer := satAdd 32 s.dev.ldl.rsTimer 1 } ∧ Injects s.dev d (fun p => p = c.pkt))) ∧
    (∀ va l, c.src = some va → Reaches s.dev pl.part va c.pkt.length 1 l →
      Runs (.chunkResend n false ix Ecc.quiet) s [.ldl, .rte, .mgmt, .out] (fun d =>
        d.ldl = { s.dev.ldl with rsTimer := satAdd 32 s.dev.ldl.rsTimer 1 } ∧
        Injects s.dev d (fun p => p =
          { c.pkt with payload := memGets s.dev.mem.bytes l, arg1 := crc32c (memGets s.dev.mem.bytes l) })))) ∧
  (∀ (s : State) (n : Nat) (pl : Plan) (x : Inst), n < 1024 → s.dev.thm.hold = false → s.dev.instOf n = some (pl, x) →
    x.started = true → pl.wantsVerdict x = true → x.pos = pl.steps x.op → x.sent = [] → x.fwd = [] → x.verdict = false →
    pl.digestsIn x = true → pl.dims ≠ 0 → x.spPos = 0 → pl.ring 0 = false → s.dev.sprueRoot pl 0 ≠ pl.self → x.final = none →
    Runs (.verdictRound n) s [.ldl, .twin, .rte, .mld, .evc, .mgmt, .out] (fun d =>
      let r := if x.op = 1 then x.resDig else 0
      (d.instOf n).map (fun y => (y.2.verdict, y.2.mine)) =
        some (true, some (leBytes 8 r ++ leBytes 8 r ++ leBytes 8 (b2n x.badDig))) ∧ But n s.dev.plan d.plan)) ∧
  (∀ (s : State) (n : Nat) (pl : Plan) (x : Inst), n < 1024 → s.dev.instOf n = some (pl, x) →
    Runs (.collectiveStall n) s [.ldl, .evc, .mgmt, .out] (fun d =>
      d.ldl.stalls = satAdd 32 s.dev.ldl.stalls 1 ∧ (d.instOf n).map (fun y => y.2) = some { x with stalled := true } ∧
      But n s.dev.plan d.plan ∧
      ((s.dev.src (0xC000 + n)).bound = true → (s.dev.src (0xC000 + n)).pending < 255 →
        (d.src (0xC000 + n)).pending = (s.dev.src (0xC000 + n)).pending + 1 ∧
        (d.src (0xC000 + n)).info = 1 + (lowest (s.dev.awaited pl x)).getD 0 % 2 ^ 20 * 256))) ∧
  (∀ (s : State) (n : Nat) (pl : Plan) (x : Inst) (f : Flight), n < 1024 → s.dev.reaches .host = true → s.dev.instOf n = some (pl, x) →
    s.dev.flight x.queue x.index = some f → f.status = none →
    Runs (.ldlAbort .host n) s [.acc, .sec, .free, .cat, .mem, .ldl, .que, .twin, .mld, .rte, .evc, .mgmt, .out] (fun d =>
      (d.plan n).map (fun y => y.inst) = some none ∧
      (d.flight x.queue x.index).map (fun g => g.status) = some (some (if s.dev.planLost pl then stUnreachable else stCancelled)) ∧
      ButWork x.queue x.index s.dev d))

/-- WORK_ORDER_COMPLETE of an ended work order of an unpaired partition that digests nothing and has no remote increment entry: a
first local increment entry is applied if its counter is the partition's and increments issue; the 32-byte record with the
outcomes is stored at the queue's completion slot and nowhere else; the flight is gone; the retired count passes the work order
if it was next and nothing was written ahead. QUEUE_CANCEL and QUEUE_DISABLE put every undispatched work order of the queue in
flight with CANCELLED, leaving none undispatched; QUEUE_DISABLE also disables the queue. WATCHDOG_TRIP counts, ends a work order
that no run, pour or collective holds with WATCHDOG, raises 0xD090 + p with cause 1, and with automatic recovery fences the
READY partition. -/
def Obligations.CompletionCancelAndWatchdog : Prop :=
  (∀ (s : State) (q i : Nat) (e : Ecc) (f : Flight) (l : List (Nat × Nat)), q < 32768 →
    let x := s.dev.queue q
    let n := entryCounter (woSig f.wo 0)
    let inc := entryValid (woSig f.wo 0) && f.issues
    let g := { f with issued := true, out0 := if inc then 0 else 0xFF, out1 := 0xFF }
    s.dev.flight q i = some f → f.status.isSome = true → f.issued = false → f.region = 64 → (s.dev.part f.part).twin ≠ 1 →
    entryValid (woSig f.wo 1) = false → (inc = true → sigRemote (woSig f.wo 0) = false ∧ sigAmount (woSig f.wo 0) ≠ 0 ∧
      s.dev.counterOf f.part n = true ∧ (s.dev.part f.part).ready = true) →
    Reaches s.dev x.part (x.compl + 32 * (i % x.size)) 32 2 l →
    Runs (.workOrderComplete q i e) s [.que, .syn, .evc, .mem, .mld, .cat, .mgmt, .out] (fun d =>
      (g.record x.size).length = 32 ∧ d.mem.bytes = memPuts s.dev.mem.bytes l (g.record x.size) ∧
      (∀ a, Outside l a → tget 0 d.mem.bytes a = tget 0 s.dev.mem.bytes a) ∧
      d.flight q i = none ∧ ButWork q i s.dev d ∧
      (s.dev.que.doneAhead = [] → d.queue q = { x with ret := if i = x.ret then (i + 1) % 2 ^ 32 else x.ret }) ∧ But q s.dev.queue d.queue ∧
      (inc = true → (d.counter n).value = satAdd 64 (s.dev.counter n).value (sigAmount (woSig f.wo 0))) ∧
      (inc = false → d.syn = s.dev.syn) ∧ But n s.dev.counter d.counter)) ∧
  (∀ (s : State) (q : Nat), q < 32768 → (s.dev.queue q).state = 1 ∨ (s.dev.queue q).state = 2 →
    let x := s.dev.queue q
    let n := (x.prod + 2 ^ 32 - x.disp) % 2 ^ 32
    let ends := fun (st : Nat) (d : Dev) =>
      d.queue q = { x with disp := (x.disp + n) % 2 ^ 32, head := if n = 0 then x.head else none, state := st } ∧ But q s.dev.queue d.queue ∧
      ∃ l : List Flight, l.length = n ∧ d.que.flights = s.dev.que.flights ++ l ∧
        ∀ k f, l[k]? = some f → f.queue = q ∧ f.index = (x.disp + k) % 2 ^ 32 ∧ f.part = x.part ∧ f.status = some 0x06 ∧ f.issued = false
    x.disp < 2 ^ 32 → s.dev.reaches .host = true →
    Runs (.queueCancel .host q) s [.que, .cat, .mem, .evc, .acc, .sec, .mgmt, .out] (ends x.state) ∧
    Runs (.queueDisable .host q) s [.que, .cat, .mem, .evc, .acc, .sec, .mgmt, .out] (ends 2)) ∧
  (∀ (s : State) (q i : Nat) (f : Flight), q < 32768 → s.dev.flight q i = some f → f.status = none → f.watch = false →
    (∀ r ∈ s.dev.cat.runs, ¬(r.queue = q ∧ r.index = i)) → s.dev.mld.op = none → isCol f.wo = false →
    (s.dev.src (0xD090 + f.part)).pending < 255 → f.part < 16 →
    Runs (.watchdogTrip q i) s [.que, .evc, .mld, .rte, .mgmt, .out] (fun d =>
      d.que.wdCount = satAdd 32 s.dev.que.wdCount 1 ∧
      d.flight q i = some { f with status := some 0x07, detail := 0, watch := true } ∧ ButWork q i s.dev d ∧
      (d.src (0xD090 + f.part)).pending = (s.dev.src (0xD090 + f.part)).pending + 1 ∧
      (d.src (0xD090 + f.part)).info = 1 + q * 256 ∧
      (s.dev.rst.autoWd = true → s.dev.rst.state ≠ 2 → (s.dev.part f.part).state = 2 →
        (d.part f.part).state = 3 ∧ (d.part f.part).rcCause = 1 ∧ (d.part f.part).rcQueue = q) ∧
      (s.dev.rst.autoWd = false → d.mld = s.dev.mld)))

/-- A first INCR packet, not twin-addressed, in time, of a granted peer, nonzero, for a bound peer-open counter of a READY partition
is added to the counter and acknowledged 0x00; a copy of one with a recorded outcome is acknowledged with that outcome and only
counted. INCR_ACK, and WITHDRAW_ANS with 1 applied or 0 withdrawn, settle the increment they name: it leaves the list and its
outcome (OK, UNREACHABLE) is the entry's; a request's withdrawal answer ends its last piece. INCR_RESEND sends it again;
INCR_WITHDRAW_TIMEOUT marks it and sends a withdrawal, WITHDRAW_RESEND again. WITHDRAW of an unseen sequence records it
withdrawn and answers 0; of an applied one, answers 1. -/
def Obligations.RemoteIncrementsAndWithdrawals : Prop :=
  (∀ (s : State) (k : Packet), k.twin = false → k.age ≤ 50000 →
    let x := (tget none s.dev.syn.senders k.src).getD Sender.init
    let n := k.arg0 % 2 ^ 14
    let c := s.dev.counter n
    (tget none x.seen k.seq = none → (x.seen = [] ∨ seqStale k.seq x.highest = false) → c.bound = true → c.peerIncr = true →
      (s.dev.part c.part).ready = true → s.dev.granted c.part k.src k.srcPart = true → k.arg1 ≠ 0 →
      Runs (.incrPacket k) s [.rte, .syn, .evc, .mgmt, .out] (fun d =>
        (d.counter n).value = satAdd 64 c.value k.arg1 ∧ But n s.dev.counter d.counter ∧
        d.syn.senders = tset none s.dev.syn.senders k.src (some (x.record k.seq 0 s.dev.now)) ∧
        Injects s.dev d (fun p => Answers k p 0x09 k.arg0 0 []))) ∧
    (∀ o, tget none x.seen k.seq = some o → o ≠ stWithdrawn → Runs (.incrPacket k) s [.rte, .syn, .mgmt, .out] (fun d =>
      d.syn = { s.dev.syn with dup := satAdd 64 s.dev.syn.dup 1 } ∧ Injects s.dev d (fun p => Answers k p 0x09 k.arg0 o [])))) ∧
  (∀ (s : State) (k : Packet) (r : RInc) (f : Flight), r.killed = false → s.dev.flight r.queue r.index = some f →
    let settled := fun (o : Nat) (d : Dev) =>
      d.syn = { s.dev.syn with
        sent := s.dev.syn.sent.filter (fun x => !(x.dev == r.dev && x.seq == r.seq)),
        undeliv := if o = 0 then s.dev.syn.undeliv else satAdd 64 s.dev.syn.undeliv 1 } ∧
      d.flight r.queue r.index = some (if r.sig = 0 then { f with out0 := o } else { f with out1 := o }) ∧ ButWork r.queue r.index s.dev d
    (s.dev.incOf k.src k.seq = some r → k.cong = false → k.echo = false →
      Runs (.incrAck k) s [.rte, .syn, .que, .mgmt, .out] (settled (k.arg1 % 256))) ∧
    (s.dev.incOf k.src k.arg0 = some r →
      Runs (.withdrawAns false k) s [.rte, .syn, .que, .mgmt, .out] (settled (if k.arg1 = 0 then 0x09 else 0)))) ∧
  (∀ (s : State) (k : Packet) (r : Req) (f : Flight), r.killed = false → r.queue ≠ 0xFFFF → r.pkt.kind ≠ 0x01 →
    s.dev.reqOf k.src k.arg0 = some r → s.dev.flight r.queue r.index = some f → f.status = none → f.pieces = 1 → f.fail = 0 →
    Runs (.withdrawAns true k) s [.rte, .que, .mgmt, .out] (fun d =>
      d.rte.reqs = s.dev.rte.reqs.filter (fun x => !(x.dev == r.dev && x.seq == r.seq)) ∧
      (d.flight r.queue r.index).map (fun g => (g.pieces, g.status, g.result)) =
        some (0, if k.arg1 = 0 then (some 0x09, f.result) else (some 0, f.result + r.pkt.length)) ∧
      ButWork r.queue r.index s.dev d)) ∧
  (∀ (s : State) (dev seq : Nat) (r : RInc), s.dev.incOf dev seq = some r →
    let wd := fun (p : Packet) => p.kind = 0x0A ∧ p.dst = r.pkt.dst ∧ p.dstPart = r.pkt.dstPart ∧ p.seq = r.pkt.seq ∧ p.arg0 = r.pkt.seq
    (r.withdraw = false → Runs (.incrResend dev seq) s [.rte, .out] (fun d => Injects s.dev d (fun p => p = r.pkt)) ∧
      Runs (.incrWithdrawTimeout dev seq) s [.rte, .out, .syn] (fun d =>
        d.incOf dev seq = some { r with withdraw := true } ∧ Injects s.dev d wd)) ∧
    (r.withdraw = true → Runs (.withdrawResend false dev seq) s [.rte, .out] (fun d => Injects s.dev d wd))) ∧
  (∀ (s : State) (dev seq : Nat) (r : Req), s.dev.reqOf dev seq = some r → r.withdraw = true →
    Runs (.withdrawResend true dev seq) s [.rte, .out] (fun d =>
      Injects s.dev d (fun p => p.kind = 0x0A ∧ p.dst = r.pkt.dst ∧ p.seq = r.pkt.seq ∧ p.arg0 = r.pkt.seq))) ∧
  (∀ (s : State) (k : Packet) (req : Bool),
    let x := (tget none (if req then s.dev.rte.senders else s.dev.syn.senders) k.src).getD Sender.init
    (tget none x.seen k.arg0 = none → Runs (.withdraw req k) s [.rte, .syn, .mgmt, .out] (fun d =>
      (if req then d.rte.senders = tset none s.dev.rte.senders k.src (some (x.record k.arg0 stWithdrawn s.dev.now)) ∧ d.syn = s.dev.syn
       else d.syn = { s.dev.syn with
         senders := tset none s.dev.syn.senders k.src (some (x.record k.arg0 stWithdrawn s.dev.now)),
         withdrawn := satAdd 64 s.dev.syn.withdrawn 1 }) ∧
      Injects s.dev d (fun p => Answers k p 0x0B k.arg0 0 []))) ∧
    (tget none x.seen k.arg0 = some 0 → Runs (.withdraw req k) s [.rte, .mgmt, .out] (fun d =>
      d.rte.senders = s.dev.rte.senders ∧ Injects s.dev d (fun p => Answers k p 0x0B k.arg0 1 []))))

/-- Taken from the control queue: FENCE action 0 fences every named READY partition with cause 3 and no other, staying in flight,
and ends RESOURCE_BUSY where one is pouring or recovering so; actions 1 to 3 end RESOURCE_BUSY where the cell or cluster is in a
run, DENIED where source 0 does not reach the level, and else record their reset with this FENCE, which L3 enters at once.
TEST_BAR of an idle slot puts it under test, of a Ladle or near-memory unit waits for its test, ending RESOURCE_BUSY at the
timeout; the result ends it with OK or CHECKSUM, and sets a slot's health. ATTEST queues its report if fewer than five wait. -/
def Obligations.ControlQueueWorkOrders : Prop :=
  (∀ (s : State) (i : Nat) (f : Flight), s.dev.take ctlQ i 0x32 = some f → woOpd f.wo 2 1 = 0 →
    let ps := bitsOf 16 (woOpd f.wo 0 2)
    (∀ p ∈ ps, (s.dev.part p).state = 1 ∨ (s.dev.part p).state = 5 →
      Runs (.fenceRecover i) s [.que, .mgmt, .out] (Ended ctlQ i f 0x0E 0 0 s.dev)) ∧
    (ps ≠ [] → s.dev.rst.state ≠ 2 → (∀ p ∈ ps, (s.dev.part p).state = 2) →
      (∀ g ∈ s.dev.que.flights, g.queue = ctlQ → g.index = i → g = f) →
      Runs (.fenceRecover i) s [.que, .mld, .evc, .rte, .mgmt, .out] (fun d =>
        (∀ p ∈ ps, (d.part p).state = 3 ∧ (d.part p).rcCause = 3 ∧ (d.part p).fencedAt = s.dev.now) ∧
        (∀ p, p ∉ ps → d.part p = s.dev.part p) ∧ d.flight ctlQ i = some { f with started := true }))) ∧
  (∀ (s : State) (i : Nat) (f : Flight) (cmd : Instr) (a lv : Nat),
    (cmd, a, lv) ∈ [(Instr.fenceResetCell i, 1, 0), (Instr.fenceResetCluster i, 2, 1), (Instr.fenceResetShell i, 3, 3)] →
    s.dev.take ctlQ i 0x32 = some f → woOpd f.wo 2 1 = a →
    let u := if a = 3 then 0 else woOpd f.wo 4 2
    (lv < 2 → s.dev.inRun lv u = true → Runs cmd s [.que, .rst, .mgmt, .out] (Ended ctlQ i f 0x0E 0 0 s.dev)) ∧
    ((lv < 2 → s.dev.inRun lv u = false) → s.dev.reach s.owner 0 ≤ lv → Runs cmd s [.que, .rst, .mgmt, .out] (Ended ctlQ i f 0x08 0 0 s.dev)) ∧
    ((lv < 2 → s.dev.inRun lv u = false) → lv < s.dev.reach s.owner 0 → s.dev.rst.ops = [] → s.dev.mld.op = none →
      Runs cmd s [.que, .rst, .mgmt, .out] (fun d =>
        d.rst.ops = [(⟨lv, 0, 0, u, false, false, [i], s.dev.now⟩ : ResetOp)] ∧ (lv = 3 → d.rst.state = 2) ∧
        d.flight ctlQ i = some { f with started := true } ∧ ButWork ctlQ i s.dev d))) ∧
  (∀ (s : State) (i : Nat) (f : Flight), s.dev.take ctlQ i 0x33 = some f →
    let u := woOpd f.wo 2 2
    (woOpd f.wo 0 1 = 0 → s.dev.slotIdle u = true → (s.dev.slot u).health ≠ 4 → Runs (.testBarCell i) s [.que, .cat, .mgmt, .out] (fun d =>
      d.slot u = { s.dev.slot u with before := (s.dev.slot u).health, health := 4 } ∧ But u s.dev.slot d.slot ∧
      d.flight ctlQ i = some { f with started := true } ∧ ButWork ctlQ i s.dev d)) ∧
    (woOpd f.wo 0 1 = 0 → (s.dev.slotIdle u = false ∨ (s.dev.slot u).health = 4) →
      Runs (.testBarCell i) s [.que, .mgmt, .out] (Ended ctlQ i f 0x0E 0 0 s.dev)) ∧
    (∀ kc ∈ [(1, Instr.testBarLadle i), (2, Instr.testBarNmu i)], woOpd f.wo 0 1 = kc.1 → Runs kc.2 s [.que, .mgmt, .out] (fun d =>
      d.flight ctlQ i = some { f with started := true } ∧ ButWork ctlQ i s.dev d))) ∧
  (∀ (s : State) (i : Nat) (f : Flight), s.dev.flight ctlQ i = some f → woOp f.wo = 0x33 → f.started = true → f.status = none →
    (woOpd f.wo 0 1 ≠ 0 → Runs (.testBarIdleTimeout i) s [.que, .mgmt, .out] (Ended ctlQ i f 0x0E 0 0 s.dev)) ∧
    (∀ k ps, slotIx k = true → s.dev.testBarOf 0 k = some f → (s.dev.slot k).health = 4 → s.dev.catRec.failed.contains k = false →
      s.dev.cat.cleared.contains k = false → s.dev.testedByReset k = false → (s.dev.slot k).failRow = 0 →
      Runs (.testBarComplete 0 k ps) s [.que, .cat, .mgmt, .out] (fun d =>
        d.slot k = { s.dev.slot k with
          carrel := [], carrelUe := [], tests := min 4095 ((s.dev.slot k).tests + 1), lastPass := ps,
          health := if ps then 1 else (s.dev.slot k).before, failRow := if ps then 0 else 1 } ∧
        But k s.dev.slot d.slot ∧ Ended ctlQ i f (if ps then 0 else 0x03) 0 0 s.dev d)) ∧
    (∀ k, k < 4 → s.dev.testBarOf 1 k = some f → (s.dev.src 0xD034).pending < 255 →
      Runs (.testBarComplete 1 k false) s [.que, .cat, .evc, .mgmt, .out] (fun d =>
        bit d.cat.ladleFail.toNat k = true ∧ (d.src 0xD034).pending = (s.dev.src 0xD034).pending + 1 ∧ (d.src 0xD034).info = k ∧
        Ended ctlQ i f 0x03 0 0 s.dev d))) ∧
  (∀ (s : State) (i : Nat) (f : Flight), s.dev.take ctlQ i 0x34 = some f → s.dev.sec.repQ.length < 5 →
    Runs (.attest i) s [.que, .sec, .mgmt, .out] (fun d =>
      d.sec = { s.dev.sec with repQ := s.dev.sec.repQ ++ [⟨woOpd f.wo 0 1, slice f.wo 48 16, some i, none⟩] } ∧
      d.flight ctlQ i = some { f with started := true } ∧ ButWork ctlQ i s.dev d))

/-- POUR with the loader free asks the host for the image and, the targets being quiet, marks each POURING. The first pass keeps an
image without error and its digest, or ends the work order with the worst error's status and code, recorded. The second pass,
its digest the same, gives every partition entry's fields to its partition. Completion makes each target READY with one more
generation and the mould's digest, binds its counters and queues, and ends OK. UNPOUR fences its READY targets, marked. A twin
wait that times out leaves twin partitions solo. A swap without error is kept, and once no covered cell runs writes its stores
and ends OK. -/
def Obligations.PoursUnpoursAndPatternSwaps : Prop :=
  (∀ (s : State) (i : Nat) (f : Flight), s.dev.mld.op = none →
    (s.dev.upd.recovery = false → s.dev.take ctlQ i 0x30 = some f →
      let ps := bitsOf 16 (woOpd f.wo 16 2)
      let quiet := ps.all (fun p => (s.dev.part p).state == 0 || ((s.dev.part p).state == 2 && s.dev.quiescent p))
      Runs (.pour i) s [.que, .mld, .mgmt, .out] (fun d =>
        (∃ o, d.mld.op = some o ∧ o.queue = ctlQ ∧ o.index = i ∧ o.mode = 0 ∧ o.length = woOpd f.wo 12 4 ∧ o.quiet = quiet ∧
          o.targets = BitVec.ofNat 16 (woOpd f.wo 16 2)) ∧ d.mld.phase = 2 ∧
        (∀ p, (d.part p).state = if quiet = true ∧ p ∈ ps then 1 else (s.dev.part p).state) ∧
        Out.hostRead (woOpd f.wo 4 8) (woOpd f.wo 0 4) (woOpd f.wo 12 4) ∈ d.out ∧
        d.flight ctlQ i = some { f with started := true } ∧ ButWork ctlQ i s.dev d)) ∧
    (s.dev.take ctlQ i 0x31 = some f →
      let ps := bitsOf 16 (woOpd f.wo 0 2)
      ps ≠ [] → (∀ p ∈ ps, (s.dev.part p).state = 2) →
      Runs (.unpour i) s [.que, .mld, .evc, .rte, .mgmt, .out] (fun d =>
        (∃ o, d.mld.op = some o ∧ o.mode = 2 ∧ o.index = i ∧ o.targets = BitVec.ofNat 16 (woOpd f.wo 0 2)) ∧ d.mld.phase = 6 ∧
        (∀ p ∈ ps, (d.part p).state = 3 ∧ (d.part p).unpour = true) ∧ (∀ p, p ∉ ps → d.part p = s.dev.part p) ∧
        d.flight ctlQ i = some { f with started := true } ∧ ButWork ctlQ i s.dev d))) ∧
  (∀ (s : State) (q i : Nat) (f : Flight) (m : Bytes), s.dev.mld.op = none → q < 32768 → s.dev.take q i 0x30 = some f →
    let c : MCtx := { d := s.dev, o := s.owner, swap := true, part := f.part, mask := woOpd f.wo 16 2, length := woOpd f.wo 12 4 }
    let bad := fun (e : MErr) (d : Dev) => d.mld.errCode = e.code ∧ d.mld.errValid = true ∧ d.mld.op = none ∧ Ended q i f (mStatus e.code) e.code 0 s.dev d
    Runs (.patternSwap q i none) s [.que, .mld, .mgmt, .out] (bad ⟨0x0E02, 0, 0⟩) ∧
    (∀ e, mWorst (chkSwap c m) = some e →
      Runs (.patternSwap q i (some m)) s [.que, .mld, .mgmt, .out] (bad e)) ∧
    (mWorst (chkSwap c m) = none →
      Runs (.patternSwap q i (some m)) s [.que, .mld, .mgmt, .out] (fun d =>
        (∃ o, d.mld.op = some o ∧ o.mode = 1 ∧ o.queue = q ∧ o.index = i ∧ o.image = m ∧ o.digest = mDigest m ∧
          o.cells = cellsOf ((mPats m).foldl (fun a t => Nat.lor a t.cells) 0)) ∧ d.mld.phase = 7 ∧
        d.flight q i = some { f with started := true } ∧ ButWork q i s.dev d))) ∧
  (∀ (s : State) (o : LoadOp) (f : Flight) (m : Bytes), s.dev.mld.op = some o → s.dev.flight o.queue o.index = some f →
    f.started = true → f.status = none →
    (o.mode = 0 → s.dev.mld.phase = 2 →
      let c : MCtx := { d := s.dev, o := s.owner, swap := false, part := 0, mask := o.targets.toNat, length := o.length }
      (mWorst (chkStructure c m ++ chkPour o) = none → Runs (.pourFirstPass (some m)) s [.mld, .cat, .mgmt, .out] (fun d =>
        d.mld.phase = 4 ∧ ∃ o', d.mld.op = some o' ∧ o'.image = m ∧ o'.digest = mDigest m ∧ o'.targets = o.targets)) ∧
      (∀ e, mWorst (chkStructure c m ++ chkPour o) = some e → Runs (.pourFirstPass (some m)) s [.mld, .que, .mgmt, .out] (fun d =>
        d.mld.errCode = e.code ∧ d.mld.errSect = e.sect ∧ d.mld.errIndex = e.idx ∧ d.mld.op = none ∧
        Ended o.queue o.index f (mStatus e.code) e.code 0 s.dev d))) ∧
    (o.mode = 0 → s.dev.mld.phase = 4 → o.changed = false → mDigest m = o.digest → mTwin o.image = none →
      ((mParts o.image).map (fun x => x.part)).Nodup →
      Runs (.pourSecondPass (some m)) s [.free, .cat, .mld, .que, .syn, .evc, .mem, .rte, .ldl, .twin, .flash, .mgmt, .out] (fun d =>
        d.mld.phase = 5 ∧ ∀ x ∈ mParts o.image, (d.part x.part).clusters = BitVec.ofNat 64 x.clusters ∧
          (d.part x.part).stackSet = BitVec.ofNat 16 x.stk ∧ (d.part x.part).seed = BitVec.ofNat 64 x.seed ∧
          (d.part x.part).peerLo = x.lo ∧ (d.part x.part).peerHi = x.hi ∧ (d.part x.part).conf = (mConf o.image || s.owner.conf == 1))) ∧
    (s.dev.mld.twinWait = true →
      let ps := (bitsOf 16 o.targets.toNat).filter (fun p => (s.dev.part p).twScope != 0)
      Runs .pourTwinTimeout s [.mld, .evc, .mgmt, .out] (fun d =>
        d.mld.twinWait = false ∧ (∀ p ∈ ps, (d.part p).twin = 2) ∧ ∀ p, p ∉ ps → d.part p = s.dev.part p)) ∧
    (o.mode = 0 → s.dev.mld.phase = 5 → s.dev.mld.twinWait = false → o.kept.length = (bitsOf 16 o.targets.toNat).length →
      o.keptSh.length = (bitsOf 16 o.targets.toNat).length → ((mCounters o.image).map (fun c => c.counter)).Nodup →
      ((mQueues o.image).map (fun x => x.queue)).Nodup →
      Runs .pourComplete s [.cat, .mld, .que, .syn, .mem, .mgmt, .out] (fun d =>
        d.mld.op = none ∧ d.mld.phase = 0 ∧ d.mld.pours = (s.dev.mld.pours + 1) % 2 ^ 64 ∧
        (∀ p ∈ bitsOf 16 o.targets.toNat, (d.part p).state = 2 ∧ (d.part p).gen = ((s.dev.part p).gen + 1) % 2 ^ 16 ∧
          (d.part p).digest = o.digest ∧ (d.part p).sat = 0) ∧
        (∀ p, p ∉ bitsOf 16 o.targets.toNat → d.part p = s.dev.part p) ∧
        (∀ c ∈ mCounters o.image, (d.counter c.counter).bound = true ∧ (d.counter c.counter).part = c.part ∧ (d.counter c.counter).value = c.initial) ∧
        (∀ x ∈ mQueues o.image, (d.queue x.queue).state = 1 ∧ (d.queue x.queue).part = x.part ∧ (d.queue x.queue).ring = x.ring ∧
          (d.queue x.queue).compl = x.compl ∧ (d.queue x.queue).prod = 0) ∧ Ended o.queue o.index f 0 0 0 s.dev d)) ∧
    (∀ t p, o.mode = 1 → (∀ r ∈ s.dev.cat.runs, ∀ n ∈ r.cells, n ∉ o.cells) → mDigest m = o.digest → mPats m = [t] → bitsOf 16 o.targets.toNat = [p] →
      Runs (.patternSwapWrite (some m)) s [.cat, .mld, .que, .mgmt, .out] (fun d =>
        d.mld.op = none ∧ (d.part p).swapped = true ∧ (d.part p).swapDig = o.digest ∧ Ended o.queue o.index f 0 0 0 s.dev d ∧
        (∀ n ∈ cellsOf t.cells, ∀ k, s.dev.slotOf n = some k → (d.slot k).store = tputs 0 [] 0 ((mCode m t).map (BitVec.ofNat 128))) ∧
        (∀ k, (∀ n ∈ cellsOf t.cells, s.dev.slotOf n ≠ some k) → d.slot k = s.dev.slot k))))

/-! ### Memory base dies -/

/-- With no unit uncorrectable: a read of a READY partition's admitted range answers its bytes, a write stores them, and an access
of a partition not READY fails and changes nothing. ACC_OPEN opens a sequence that may open; ACC_APPLY at the expected position
merges its contribution into the destination, ahead of it is held, behind it is only counted as a duplicate; ACC_ABORT closes
the sequence, counts what it held and changes no byte outside its destination. ZERO clears a stack or shelf page that no
partition in service holds, and no other byte. SCRUB_READ moves the scrubber one unit on, counting a pass at the end. A stack's
temperature sets its refresh rate at 85 degrees C and its throttle. REGION_CLEAR by the host empties the partition's weight
regions. -/
def Obligations.MemoryAccessesScrubAndAccumulation : Prop :=
  (∀ (s : State) (p : Nat) (r : Reader) (va : Nat) (n : Nat) (bs : Bytes), p < 16 → s.dev.thm.hold = false →
    (∀ l, (s.dev.part p).ready = true → Admits s.dev p va n (readNeed r) (readerOwn r) l →
      Runs (.nmuRead p r va n Ecc.quiet) s [.out] (fun d => d.out = .memData (memGets s.dev.mem.bytes l) :: s.dev.out)) ∧
    (∀ l, (s.dev.part p).ready = true → Admits s.dev p va bs.length (writeNeed r) (readerOwn r) l →
      Runs (.nmuWrite p r va bs) s [.mem, .mld, .evc] (fun d => d.mem.bytes = memPuts s.dev.mem.bytes l bs ∧
        ∀ a, Outside l a → tget 0 d.mem.bytes a = tget 0 s.dev.mem.bytes a)) ∧
    ((s.dev.part p).ready = false → ∀ c ∈ [Instr.nmuRead p r va n Ecc.quiet, Instr.nmuWrite p r va bs],
      Runs c s [.out] (fun d => d.out = .memFail :: s.dev.out))) ∧
  (∀ (s : State) (st tag addr len n fmt p plan : Nat), st < 16 → p < 16 → plan < 1024 → s.dev.thm.hold = false →
    let a : AccSeq := ⟨st, tag, addr, len, n, fmt, p, plan, 0, []⟩
    s.dev.mem.waiting = [] → s.dev.mem.canOpen a = true →
    Runs (.accOpen st tag addr len n fmt p plan) s [.mem] (fun d => d.mem = { s.dev.mem with accs := s.dev.mem.accs ++ [a] })) ∧
  (∀ (s : State) (st tag pos : Nat) (data : Bytes) (a : AccSeq), st < 16 → s.dev.thm.hold = false → s.dev.accSeq st tag = some a →
    pos < a.n → s.dev.mem.ueUnits = [] →
    (pos = a.next → pos + 1 < a.n → tget none a.held pos = none → tget none a.held (pos + 1) = none →
      Runs (.accApply st tag pos data (crc32c data) Ecc.quiet) s [.mem, .evc, .mld, .que, .mgmt, .out] (fun d =>
        d.mem.bytes = tputs 0 s.dev.mem.bytes a.addr (accMerge a.fmt pos (if pos = 0 then [] else tgets 0 s.dev.mem.bytes a.addr a.length) data).1 ∧
        d.accSeq st tag = some { a with next := pos + 1 })) ∧
    (a.next < pos → tget none a.held pos = none → s.dev.mem.staged st + data.length ≤ 8388608 →
      Runs (.accApply st tag pos data (crc32c data) Ecc.quiet) s [.mem, .mgmt, .out] (fun d =>
        d.mem.bytes = s.dev.mem.bytes ∧ d.accSeq st tag = some { a with held := tset none a.held pos (some data) })) ∧
    (pos < a.next → Runs (.accApply st tag pos data (crc32c data) Ecc.quiet) s [.mem, .mgmt, .out] (fun d =>
      d.mem = { s.dev.mem with accDup := satAdd 64 s.dev.mem.accDup 1 }))) ∧
  (∀ (s : State) (st tag : Nat) (a : AccSeq), st < 16 → s.dev.thm.hold = false → s.dev.accSeq st tag = some a →
    s.dev.mem.waiting = [] → s.dev.mem.heldWr = [] →
    Runs (.accAbort st tag) s [.mem, .ldl, .free, .evc] (fun d => d.accSeq st tag = none ∧
      d.ldl.absorbed = satAdd 64 s.dev.ldl.absorbed a.held.length ∧
      ∀ x, ¬(a.addr ≤ x ∧ x < a.addr + a.length) → tget 0 d.mem.bytes x = tget 0 s.dev.mem.bytes x)) ∧
  (∀ (s : State) (page : Bool) (n : Nat), n < (if page then 512 else 16) → s.dev.thm.hold = false →
    (∀ p, p < 16 → (s.dev.part p).ready = false) →
    let lo := if page then shelfBase + n * 0x200000 else n * stackSize
    let hi := lo + (if page then 0x200000 else stackSize)
    Runs (.zero page n) s [.mem] (fun d => ∀ a, tget 0 d.mem.bytes a = if lo ≤ a ∧ a < hi then 0 else tget 0 s.dev.mem.bytes a)) ∧
  (∀ (s : State) (k : Nat), k < 16 →
    (s.dev.mem.scrubOn = true → (s.dev.stack k).state = 1 → s.dev.mem.ueUnits = [] → Runs (.scrubRead k Ecc.quiet) s [.mem] (fun d =>
      d.stack k = (if (s.dev.stack k).scrubAt + 1 = scrubUnits then
          { s.dev.stack k with scrubAt := 0, passes := ((s.dev.stack k).passes + 1) % 2 ^ 16 }
        else { s.dev.stack k with scrubAt := (s.dev.stack k).scrubAt + 1 }) ∧ But k s.dev.stack d.stack ∧ d.mem.bytes = s.dev.mem.bytes)) ∧
    (∀ t : Int, -160 ≤ t → t < 380 → (s.dev.sensor (64 + k)).failed = false → s.dev.thm.tripped = false → s.dev.rst.step ≠ 3 →
      Runs (.stackTempSample k t false) s [.mem, .thm, .evc, .mgmt, .out] (fun d =>
        (d.sensor (64 + k)).reading = t ∧ (d.stack k).temp = t ∧ (d.stack k).hot = decide (340 ≤ t) ∧ (d.stack k).state = (s.dev.stack k).state ∧
        (d.stack k).limit = (if 340 < t ∧ (s.dev.stack k).limit = 0 then 7 else if t < 328 then 0 else (s.dev.stack k).limit) ∧
        But k s.dev.stack d.stack ∧ d.mem.bytes = s.dev.mem.bytes))) ∧
  (∀ (s : State) (p : Nat), p < 16 → s.dev.reaches .host = true →
    Runs (.regionClear .host p) s [.mld, .acc, .sec, .mgmt, .out] (fun d =>
      d.part p = { s.dev.part p with regions := [] } ∧ But p s.dev.part d.part))

/-! ### Fabric: links -/

/-- On a port that is up, with nothing waiting to be sent: a DATA flit of the sequence expected that finds room is taken, its bytes
joining its VC's packet; without room, or ahead of the sequence, it is not taken, and a NAK goes out once; behind the sequence
nothing is taken. An IDLE flit that names another partner quarantines the port. A NAK replays every unacknowledged flit, in
order; the sixteenth in a row of one sequence loses the port. HELLO brings a port in training into service on the lanes both
sides lock, or into quarantine. LANEMAP gives the mask to take next. A flit that fails its FEC or its CRC is only counted, and a
NAK goes out once. -/
def Obligations.FlitsAreAcceptedOnceAndInOrder : Prop :=
  ∀ (s : State) (p : Nat) (f : Flit), p < 18 → 
    let x := s.dev.port p
    let c := x.common f.word
    let vc := fld f.word 27 25
    let ahead := (f.word % 4096 + 4096 - x.rxSeq) % 4096
    let naks := if x.waitNak then s.dev.out else .nak p ((x.rxSeq + 4095) % 4096) :: s.dev.out
    (x.up = true → x.txq = [] →
      (GoodFlit f 0 →
        (f.word % 4096 = x.rxSeq → x.fits vc = true → Runs (.flitData p f) s [.ports] (fun d =>
          let y := d.port p
          let b := tget [] x.partIn vc ++ slice f.bytes 0 256
          y.rxSeq = (x.rxSeq + 1) % 4096 ∧ y.rxAny = true ∧ y.waitNak = false ∧ y.state = x.state ∧ y.retry = c.retry ∧
          (if packetSize b ≤ b.length then tget [] y.inBuf vc = tget [] x.inBuf vc ++ [parsePacket b] ∧ tget [] y.partIn vc = []
           else tget [] y.partIn vc = b ∧ y.inBuf = x.inBuf) ∧
          (∀ v, v ≠ vc → tget [] y.inBuf v = tget [] x.inBuf v ∧ tget [] y.partIn v = tget [] x.partIn v) ∧ But p s.dev.port d.port)) ∧
        (f.word % 4096 = x.rxSeq → x.fits vc = false → Runs (.flitData p f) s [.ports, .rte, .out] (fun d =>
          d.port p = { c with waitNak := true } ∧ d.rte = { s.dev.rte with headOvf := satAdd 32 s.dev.rte.headOvf 1 } ∧ d.out = naks ∧
          But p s.dev.port d.port)) ∧
        (0 < ahead → ahead < 2048 → f.word % 4096 ≠ x.rxSeq → Runs (.flitData p f) s [.ports, .out] (fun d =>
          d.port p = { c with waitNak := true } ∧ d.out = naks ∧ But p s.dev.port d.port)) ∧
        (2048 ≤ ahead → f.word % 4096 ≠ x.rxSeq → Runs (.flitData p f) s [.ports] (fun d => d.port p = c ∧ But p s.dev.port d.port))) ∧
      (GoodFlit f 1 →
        let names := le f.bytes 0 4 % 2 ^ 20 = x.partner ∧ le f.bytes 4 1 = x.partPort
        (names → Runs (.flitIdle p f) s [.ports] (fun d => d.port p = c ∧ But p s.dev.port d.port)) ∧
        (¬names → Runs (.flitIdle p f) s [.ports, .rte, .evc, .free] (fun d =>
          (d.port p).state = 5 ∧ (d.port p).losses = satAdd 16 x.losses 1 ∧ (d.port p).retry = [] ∧ Raises (0xC440 + p) s.dev d ∧
          But p s.dev.port d.port))) ∧
      (GoodFlit f 2 → ∀ g l, c.retry.filter (fun r => !r.acked) = g :: l →
        let row := if x.lastNak = g.seq then x.nakRow + 1 else 1
        (row < 16 → Runs (.flitNak p f) s [.ports, .out] (fun d =>
          d.port p = { c with replays := satAdd 32 x.replays 1, lastNak := g.seq, nakRow := row } ∧ But p s.dev.port d.port ∧
          d.out = ((g :: l).map (fun r => Out.flit p r.seq r.vc r.last)).reverse ++ s.dev.out)) ∧
        (16 ≤ row → Runs (.flitNak p f) s [.ports, .rte, .evc, .free] (fun d =>
          (d.port p).state = 4 ∧ (d.port p).losses = satAdd 16 x.losses 1 ∧ But p s.dev.port d.port))) ∧
      (GoodFlit f 4 → Runs (.flitLanemap p f) s [.ports] (fun d =>
        d.port p = { c with newTx := some (BitVec.ofNat 8 (fld f.word 47 40), fld f.word 23 12) } ∧ But p s.dev.port d.port)) ∧
      (∀ i ∈ [Instr.flitData p f, .flitIdle p f, .flitNak p f, .flitLanemap p f, .flitHello p f],
        (f.badFec = true → Runs i s [.ports, .out, .rst] (fun d =>
          d.port p = { x with fecUe := satAdd 32 x.fecUe 1, waitNak := true } ∧ d.out = naks ∧ But p s.dev.port d.port)) ∧
        (f.badFec = false → flitOk f = false → Runs i s [.ports, .out, .rst] (fun d =>
          d.port p = { x with crcErr := satAdd 32 x.crcErr 1, waitNak := true } ∧ d.out = naks ∧ But p s.dev.port d.port)))) ∧
    (x.state = 1 → GoodFlit f 3 →
      let dev := le f.bytes 0 4 % 2 ^ 20
      let pp := le f.bytes 4 1
      let m := x.locked &&& BitVec.ofNat 8 (le f.bytes 6 1) &&& ~~~ x.laneHold
      ((dev, pp) = wiring s.dev.rte.devId p → m ≠ 0 → Runs (.flitHello p f) s [.ports, .evc, .free, .rst] (fun d =>
        let y := d.port p
        y.state = 6 ∧ y.txMask = m ∧ y.rxMask = m ∧ y.partner = dev ∧ y.partPort = pp % 32 ∧ y.partVal = true ∧ y.rxSeq = 0 ∧ y.txSeq = 0 ∧
        Raises (0xC460 + p) s.dev d ∧ But p s.dev.port d.port)) ∧
      ((dev, pp) ≠ wiring s.dev.rte.devId p → Runs (.flitHello p f) s [.ports, .evc, .rst] (fun d =>
        (d.port p).state = 5 ∧ (d.port p).partner = dev ∧ RaisesOnly (0xC440 + p) dev s.dev d ∧ But p s.dev.port d.port)))

/-- On a port that is up: a NAK or LANEMAP still unanswered is repeated; a failing lane leaves rx_mask, is recorded, raises 0xC420 +
p and sends a LANEMAP; a lane not held retrains and once restored is offered again, event 0xC480 + p telling that all 8 are
back; at a lane-block boundary the sender takes the new mask and, after a LANEMAP, replays what is not acknowledged; 16 us of
silence lose the port: state LOST, one loss more, nothing kept for replay, event 0xC400 + p. Training keeps the lanes that lock
and the margin of the round trip; HELLO names the device. LNK_CTL retrains or enables a port. No other port changes. -/
def Obligations.LanesAndPortsTrainFailAndReturn : Prop :=
  ∀ (s : State) (p : Nat), p < 18 →
    let x := s.dev.port p
    let seen := (x.rxSeq + 4095) % 4096
    let st := fun (t r : BitVec 8) => if x.inService then (if t = 0xFF ∧ r = 0xFF then 2 else 3) else x.state
    (x.up = true →
      (x.waitNak = true → Runs (.nakRepeat p) s [.out] (fun d => d.out = .nak p seen :: s.dev.out)) ∧
      (x.mapPend = true → x.rxMask ≠ 0 →
        Runs (.lanemapRepeat p) s [.out] (fun d => d.out = .lanemap p x.rxMask.toNat seen :: s.dev.out)) ∧
      (∀ l, l < 8 →
        (∀ cause, x.rxMask &&& lane l ≠ 0 → Runs (.laneFail p l cause) s [.ports, .evc, .out] (fun d =>
          let m := x.rxMask &&& ~~~ lane l
          let y := d.port p
          y.rxMask = m ∧ y.failed = x.failed ||| lane l ∧ y.marker = (if cause = .markers then x.marker ||| lane l else x.marker) ∧
          y.degrades = satAdd 16 x.degrades 1 ∧ y.mapPend = true ∧ y.state = st x.txMask m ∧ y.txMask = x.txMask ∧ y.retry = x.retry ∧
          RaisesOnly (0xC420 + p) m.toNat s.dev d ∧ d.out = (if m = 0 then s.dev.out else .lanemap p m.toNat seen :: s.dev.out) ∧
          But p s.dev.port d.port)) ∧
        (x.rxMask &&& lane l = 0 → x.laneHold &&& lane l = 0 → Runs (.laneRetrain p l) s [.ports] (fun d =>
          d.port p = { x with retrain := x.retrain ||| lane l } ∧ But p s.dev.port d.port)) ∧
        (x.retrain &&& lane l ≠ 0 → Runs (.laneRestore p l) s [.ports, .evc, .free] (fun d =>
          d.port p = { x with rxMask := x.rxMask ||| lane l, retrain := x.retrain &&& ~~~ lane l, state := st x.txMask (x.rxMask ||| lane l) } ∧
          (x.state = 3 → st x.txMask (x.rxMask ||| lane l) = 2 → Raises (0xC480 + p) s.dev d) ∧ But (0xC480 + p) s.dev.src d.src ∧
          But p s.dev.port d.port))) ∧
      (∀ m, x.newTx = some (m, 4096) → Runs (.laneMaskSwitch p) s [.ports, .evc, .free] (fun d =>
        d.port p = { x with txMask := m, newTx := none, state := st m x.rxMask } ∧
        (x.state = 3 → st m x.rxMask = 2 → Raises (0xC480 + p) s.dev d) ∧ But (0xC480 + p) s.dev.src d.src ∧ But p s.dev.port d.port)) ∧
      (∀ m a g l, x.newTx = some (m, a) → a < 4096 → x.txq = [] → (x.ack a).retry.filter (fun r => !r.acked) = g :: l →
        let row := if x.lastNak = g.seq then x.nakRow + 1 else 1
        row < 16 → Runs (.laneMaskSwitch p) s [.ports, .evc, .free, .out] (fun d =>
          d.port p = { x with
            txMask := m, newTx := none, state := st m x.rxMask, retry := (x.ack a).retry,
            replays := satAdd 32 x.replays 1, lastNak := g.seq, nakRow := row } ∧
          d.out = ((g :: l).map (fun r => Out.flit p r.seq r.vc r.last)).reverse ++ s.dev.out ∧ But p s.dev.port d.port)) ∧
      Runs (.portLossTimeout p) s [.ports, .rte, .evc, .free, .rst] (fun d =>
        (d.port p).state = 4 ∧ (d.port p).losses = satAdd 16 x.losses 1 ∧ (d.port p).retry = [] ∧ (d.port p).txq = [] ∧
        Raises (0xC400 + p) s.dev d ∧ But p s.dev.port d.port)) ∧
    (∀ (locked : BitVec 8) (rtt : Nat), x.enable = true →
      let t := { x with state := 1, locked := locked &&& ~~~ x.laneHold, margin := earlyMargin rtt, partVal := false }
      (s.dev.rte.valid = true → (x.state = 0 ∨ x.state = 1) →
        Runs (.portTrain p locked rtt) s [.ports] (fun d => d.port p = t ∧ But p s.dev.port d.port)) ∧
      (x.state = 4 → Runs (.portRetrain p locked rtt) s [.ports] (fun d => d.port p = t ∧ But p s.dev.port d.port))) ∧
    ((x.state = 1 ∨ x.state = 5) → Runs (.helloSend p) s [.out] (fun d =>
      d.out = .hello p s.dev.rte.devId x.locked.toNat s.dev.rte.isMaster :: s.dev.out)) ∧
    (∀ r, s.dev.reaches r = true →
      (x.state ≠ 0 → Runs (.linkRetrain r p) s [.ports, .rte, .evc, .free, .acc, .sec, .mgmt, .out] (fun d =>
        (d.port p).state = 1 ∧ (d.port p).losses = (if x.inService then satAdd 16 x.losses 1 else x.losses) ∧ (d.port p).retry = [] ∧
        (d.port p).enable = x.enable ∧ But p s.dev.port d.port)) ∧
      Runs (.linkEnable r p true) s [.ports, .rst, .acc, .sec, .mgmt, .out] (fun d =>
        d.port p = { x with enable := true, state := if x.state = 0 ∧ x.enable = false ∧ s.dev.rte.valid = true then 1 else x.state } ∧
        But p s.dev.port d.port) ∧
      Runs (.linkEnable r p false) s [.ports, .rte, .evc, .free, .rst, .acc, .sec, .mgmt, .out] (fun d =>
        (d.port p).enable = false ∧ (d.port p).state = 0 ∧ (x.state ≠ 0 → (d.port p).retry = []) ∧ (d.port p).losses = x.losses ∧
        But p s.dev.port d.port))

/-! ### Fabric: routing, runners, requests, draining, the gang -/

/-- The oldest packet waiting at an input, unless held, leaves it with its age increased: discarded and counted when its kind may
not be on its VC or when older than 50,000 units; delivered here when this device is its destination; sent out by the port its
route names when that port is not held off, all its flits after those the port has; without a route counted, and UNREACH tells
its source. RUN_DATA follows an established runner's egress. A runner setup is answered at its destination, recorded and sent on
where it fits, else refused; the answer activates or fails the runner; a teardown removes it and goes on. -/
def Obligations.PacketsAreForwardedDeliveredOrCounted : Prop :=
  (∀ (s : State) (c : Instr) (p vc w : Nat) (old : Packet), p < 19 →
    (c = .packetForward p vc w ∧ vc < 8 ∨ c = .runData p w ∧ vc = 7) →
    s.dev.waitingAt p vc = some old →
    let k : Packet := { old with age := min 0xFFFF (old.age + max 1 w) }
    s.dev.holds p vc k = false →
    let left := fun (d : Dev) => (p < 18 → tget [] (d.port p).inBuf vc = (tget [] (s.dev.port p).inBuf vc).drop 1) ∧
      (p = 18 → d.rte.heldInj = dropFirst (· == old) s.dev.rte.heldInj)
    (kindOnVc k.kind vc = false → Runs c s [.ports, .rte, .mgmt, .out] (fun d =>
      left d ∧ d.rte.noRoute = satAdd 32 s.dev.rte.noRoute 1 ∧ d.rte.inbox = s.dev.rte.inbox)) ∧
    (kindOnVc k.kind vc = true → 50000 < k.age → Runs c s [.ports, .rte, .mgmt, .out] (fun d =>
      left d ∧ d.rte.aged = satAdd 32 s.dev.rte.aged 1 ∧ d.rte.inbox = s.dev.rte.inbox)) ∧
    (kindOnVc k.kind vc = true → k.age ≤ 50000 →
      (k.dst = s.dev.rte.devId → Runs c s [.ports, .rte, .mgmt, .out] (fun d =>
        left d ∧ d.rte.inbox = s.dev.rte.inbox ++ [k])) ∧
      (k.dst ≠ s.dev.rte.devId → (k.kind = 0x19 ∨ k.kind = 0x1A → p = 18) →
        (∀ o, vc = 7 → s.dev.runnerOut k = some o → o ≠ p → bit (s.dev.port o).xoffIn.toNat 7 = false → s.dev.marksAt p vc k = false →
          Runs c s [.ports, .rte, .mgmt, .out] (fun d => left d ∧ d.rte.inbox = s.dev.rte.inbox ∧
            SendsOut 7 k (s.dev.port o) (d.port o))) ∧
        (vc ≠ 7 →
          let hi := if vc = 0 then p != 18 else vc == 2 || vc == 4 || vc == 6
          let dim := if p = 18 then 4 else portDim p
          (∀ h, s.dev.route k.dst dim hi = some h → h.port ≠ p →
            let ovc := if vc = 0 then 0 else (vc - 1) / 2 * 2 + 1 + b2n h.hi
            bit (s.dev.port h.port).xoffIn.toNat ovc = false →
            Runs c s [.ports, .rte, .mgmt, .out] (fun d => left d ∧ d.rte.inbox = s.dev.rte.inbox ∧
              d.rte.marks = (if s.dev.marksAt p vc k then satAdd 32 s.dev.rte.marks 1 else s.dev.rte.marks) ∧
              SendsOut ovc { k with cong := k.cong || s.dev.marksAt p vc k } (s.dev.port h.port) (d.port h.port))) ∧
          (s.dev.route k.dst dim hi = none → unreachKind k.kind = true → p < 18 →
            Runs c s [.ports, .rte, .free, .mgmt, .out] (fun d => left d ∧ d.rte.noRoute = satAdd 32 s.dev.rte.noRoute 1 ∧
              Injects s.dev d (fun u => u.kind = 0x0C ∧ u.dst = k.src ∧ u.dstPart = k.srcPart ∧ u.arg0 = k.dst))))))) ∧
  (∀ (s : State) (k : Packet),
    let n := k.arg0 % 65536
    let key := runKey k.src n
    let e := runEgress s.dev.rte.devId k.dst
    (k.dst = s.dev.rte.devId → Runs (.runSetup k) s [.rte, .out] (fun d => d.out = .runAnswer k.src n true :: s.dev.out ∧
      d.rte.runners = s.dev.rte.runners)) ∧
    (k.dst ≠ s.dev.rte.devId →
      (s.dev.runFits k.dst k.arg1 key = false → Runs (.runSetup k) s [.rte, .out] (fun d =>
        d.out = .runAnswer k.src n false :: s.dev.out ∧ d.rte.runners = s.dev.rte.runners)) ∧
      (s.dev.runFits k.dst k.arg1 key = true → Runs (.runSetup k) s [.ports, .rte, .out] (fun d =>
        (∃ r, tget none d.rte.runners key = some r ∧ r.state = 2 ∧ r.loc = false ∧ r.egress = e ∧ r.share = k.arg1 ∧ r.dst = k.dst) ∧
        (∀ j, j ≠ key → tget none d.rte.runners j = tget none s.dev.rte.runners j) ∧ SendsOut 0 k (s.dev.port e) (d.port e)))) ∧
    (∀ r, tget none s.dev.rte.runners key = some r → r.loc = false → r.egress < 18 → (s.dev.port r.egress).inService = true →
      Runs (.runTeardown k) s [.ports, .rte, .out] (fun d => tget none d.rte.runners key = none ∧
        (∀ j, j ≠ key → tget none d.rte.runners j = tget none s.dev.rte.runners j) ∧
        SendsOut 0 k (s.dev.port r.egress) (d.port r.egress)))) ∧
  (∀ (s : State) (n : Nat) (r : Runner),
    let key := runKey s.dev.rte.devId n
    tget none s.dev.rte.runners key = some r → r.loc = true → r.state = 1 → r.sentUp = true →
    (∀ kv ∈ s.dev.rte.runners, ∀ x, kv.2 = some x → kv.1 ≠ key → x.state ≠ 1 ∨ x.sentUp = true) →
    Runs (.runSetupAnswer n true) s [.rte] (fun d => tget none d.rte.runners key = some { r with state := 2, sentUp := false } ∧
      ∀ j, j ≠ key → tget none d.rte.runners j = tget none s.dev.rte.runners j) ∧
    Runs (.runSetupAnswer n false) s [.ports, .rte, .evc, .free, .out] (fun d =>
      tget none d.rte.runners key = some { r with state := 3, sentUp := false } ∧
      (∀ j, j ≠ key → tget none d.rte.runners j = tget none s.dev.rte.runners j) ∧ Raises 0xC4A4 s.dev d))

/-- A READ_REQ of a partition in service by a granted peer is answered with the bytes, a WRITE_REQ stores them and is answered OK,
its outcome recorded; outside service the answer is FENCED, without a grant DENIED, and no byte changes. A sequence seen before
is answered with its recorded outcome and counted, changing nothing else; a withdrawn one is not answered; a sender that finds
the table full is counted. RESP settles the one piece of its request: data of a READ_REQ are stored, the work order ends with
its last piece. UNREACH settles every request and increment towards the lost device. A resend repeats the packet, a timeout
withdraws it, an expiry drops a sender's state, and 50 us without echo raise a rate limit by 2,000 until it is gone. -/
def Obligations.RequestsBetweenDevicesTakeEffectAtMostOnce : Prop :=
  (∀ (s : State) (k : Packet), k.twin = false →
    let p := k.dstPart
    let fresh := match tget none s.dev.rte.senders k.src with
      | none => s.dev.rte.senders.length < 16384
      | some x => seqStale k.seq x.highest = false ∧ tget none x.seen k.seq = none
    let kept := fun (d : Dev) (o : Nat) => ∃ y, tget none d.rte.senders k.src = some y ∧ tget none y.seen k.seq = some o
    ((s.dev.part p).ready = true → s.dev.granted p k.src k.srcPart = true →
      (∀ l, Admits s.dev p k.addr k.arg0 4 false l → Runs (.readReq k Ecc.quiet) s [.rte, .mgmt, .out] (fun d =>
        Injects s.dev d (fun a => Answers k a 0x08 stOk 0 (memGets s.dev.mem.bytes l)))) ∧
      (∀ l, fresh → Admits s.dev p k.addr k.payload.length 8 false l →
        Runs (.writeReq k) s [.mem, .mld, .evc, .rte, .mgmt, .out] (fun d =>
          d.mem.bytes = memPuts s.dev.mem.bytes l k.payload ∧
          (∀ a, Outside l a → tget 0 d.mem.bytes a = tget 0 s.dev.mem.bytes a) ∧
          Injects s.dev d (fun a => Answers k a 0x08 stOk 0 []) ∧ kept d stOk))) ∧
    (∀ st, ((s.dev.part p).ready = false ∧ st = stFenced ∨
        (s.dev.part p).ready = true ∧ s.dev.granted p k.src k.srcPart = false ∧ st = stDenied) →
      Runs (.readReq k Ecc.quiet) s [.rte, .evc, .mgmt, .out] (fun d => Injects s.dev d (fun a => Answers k a 0x08 st 0 []) ∧
        (st = stDenied → Raises 0xC830 s.dev d)) ∧
      (fresh → Runs (.writeReq k) s [.rte, .evc, .mgmt, .out] (fun d => Injects s.dev d (fun a => Answers k a 0x08 st 0 []) ∧ kept d st ∧
        (st = stDenied → Raises 0xC830 s.dev d)))) ∧
    (∀ x o, tget none s.dev.rte.senders k.src = some x → seqStale k.seq x.highest = false → tget none x.seen k.seq = some o →
      (o ≠ stWithdrawn → Runs (.writeReq k) s [.rte, .mgmt, .out] (fun d => Injects s.dev d (fun a => Answers k a 0x08 o 0 []) ∧
        d.rte.e2eDup = satAdd 32 s.dev.rte.e2eDup 1 ∧ d.rte.senders = s.dev.rte.senders)) ∧
      (o = stWithdrawn → Runs (.writeReq k) s [.rte, .mgmt, .out] (fun d => d.rte.heldInj = s.dev.rte.heldInj ∧
        d.rte.senders = s.dev.rte.senders))) ∧
    (tget none s.dev.rte.senders k.src = none → 16384 ≤ s.dev.rte.senders.length →
      Runs (.writeReq k) s [.rte, .mgmt, .out] (fun d => d.rte.e2eFull = satAdd 32 s.dev.rte.e2eFull 1 ∧ d.rte.heldInj = s.dev.rte.heldInj ∧
        d.rte.senders = s.dev.rte.senders))) ∧
  (∀ (s : State) (k : Packet) (r : Req) (f : Flight), k.cong = false → k.echo = false →
    s.dev.rte.reqs.find? (fun r => r.dev == k.src && r.seq == k.seq) = some r → r.killed = false → r.queue ≠ 0xFFFF →
    s.dev.flight r.queue r.index = some f → f.status = none →
    let after := fun (st n : Nat) =>
      let g : Flight := { f with
        pieces := f.pieces - 1, result := if st = stOk then f.result + n else f.result,
        fail := if f.fail = 0 ∧ st ≠ stOk then st else f.fail }
      if g.pieces = 0 then { g with status := some g.fail, detail := 0 } else g
    let settled := fun (d : Dev) => d.rte.reqs = s.dev.rte.reqs.filter (fun x => !(x.dev == r.dev && x.seq == r.seq)) ∧
      ButWork r.queue r.index s.dev d
    ((r.pkt.kind ≠ 0x01 ∨ k.arg0 % 256 ≠ stOk) → Runs (.resp k) s [.rte, .que, .mgmt, .out] (fun d => settled d ∧
      d.flight r.queue r.index = some (after (k.arg0 % 256) r.pkt.length))) ∧
    (∀ l, r.pkt.kind = 0x01 → k.arg0 % 256 = stOk → Reaches s.dev r.part r.dest k.payload.length 2 l →
      Runs (.resp k) s [.rte, .que, .mem, .mld, .evc, .mgmt, .out] (fun d => settled d ∧
        d.flight r.queue r.index = some (after stOk k.payload.length) ∧ d.mem.bytes = memPuts s.dev.mem.bytes l k.payload))) ∧
  (∀ (s : State) (k : Packet), Runs (.unreach k) s [.rte, .twin, .mld, .evc, .que, .syn, .mgmt, .out] (fun d =>
    d.isLost (k.arg0 % 2 ^ 20) = true ∧ (∀ r ∈ d.rte.reqs, r.dev ≠ k.arg0 % 2 ^ 20) ∧ (∀ r ∈ d.syn.sent, r.dev ≠ k.arg0 % 2 ^ 20))) ∧
  (∀ (s : State) (dev seq : Nat),
    (∀ r, s.dev.reqOf dev seq = some r → r.withdraw = false →
      Runs (.requestResend dev seq) s [.rte, .out] (fun d => Injects s.dev d (fun p => p = r.pkt)) ∧
      Runs (.requestWithdrawTimeout dev seq) s [.rte, .out] (fun d => d.reqOf dev seq = some { r with withdraw := true } ∧
        Injects s.dev d (fun p => p.kind = 0x0A ∧ p.dst = r.pkt.dst ∧ p.dstPart = r.pkt.dstPart ∧ p.srcPart = r.pkt.srcPart ∧
          p.seq = r.pkt.seq ∧ p.arg0 = r.pkt.seq))) ∧
    Runs (.senderStateExpiry dev) s [.rte] (fun d => ∀ j, tget none d.rte.senders j = if j = dev then none else tget none s.dev.rte.senders j) ∧
    (∀ x, tget none s.dev.rte.rates dev = some x → Runs (.rateLimitRaise dev) s [.rte] (fun d =>
      tget none d.rte.rates dev = (if 200000 ≤ x.limit + 2000 then none else some { x with limit := x.limit + 2000 }) ∧
      ∀ j, j ≠ dev → tget none d.rte.rates j = tget none s.dev.rte.rates j)))

/-- DRAIN takes its epoch and leaves RUNNING. Drained, the state is DRAINED and 0xC4A0 is raised; at the timeout what is held
outside CTL is discarded and counted, 0xC4A1 raised. RESUME with the epoch puts the pending routing state in effect, brings
permitted STANDBY ports into service, forgets lost devices, removes runners so marked, and raises 0xC4A2; with another epoch, or
while RUNNING, it is only counted. A protected register takes a write only drained or timed out, else 0xC4A3. A master beacons
to every other member; a reply keeps its sender live; a beacon of a member lower than the master is followed and answered; an
eligible device that hears none becomes master, a follower that hears none has none, event 0xC4A6. -/
def Obligations.DrainResumeAndTheGang : Prop :=
  (∀ (s : State) (r : Requester) (e : Nat), s.dev.reaches r = true →
    Runs (.drain r e) s [.rte, .acc, .sec, .mgmt, .out] (fun d =>
      d.rte = { s.dev.rte with epoch := e % 2 ^ 16, fstate := if s.dev.rte.fstate = 0 then 1 else s.dev.rte.fstate }) ∧
    ((s.dev.rte.fstate = 0 ∨ s.dev.rte.epoch ≠ e % 2 ^ 16) → Runs (.resume r e) s [.rte, .acc, .sec, .mgmt, .out] (fun d =>
      d.rte = { s.dev.rte with frefused := satAdd 8 s.dev.rte.frefused 1 })) ∧
    (s.dev.rte.fstate ≠ 0 → s.dev.rte.epoch = e % 2 ^ 16 →
      Runs (.resume r e) s [.ports, .rte, .evc, .free, .acc, .sec, .mgmt, .out] (fun d =>
        d.rte.fstate = 0 ∧ d.rte.prot = s.dev.rte.pend ∧ d.rte.lost = [] ∧ Raises 0xC4A2 s.dev d ∧
        (∀ p, p < 18 → let x := s.dev.port p
          (d.port p).state = if x.state = 6 ∧ bit s.dev.rte.pend.mask.toNat p = true then (if x.txMask = 0xFF ∧ x.rxMask = 0xFF then 2 else 3)
            else x.state) ∧
        (∀ key x, s.dev.rte.runners = [(key, some x)] → x.loc = true → x.remove = true → tget none d.rte.runners key = none))) ∧
    (∀ off v,
      let p := s.dev.rte.pend
      let brk := (fld v 6 0, fld v 14 8, bit v 31)
      ((s.dev.rte.fstate = 2 ∨ s.dev.rte.fstate = 3) → ∀ p', (off, p') ∈ [(0x20, { p with mask := BitVec.ofNat 18 v }), (0x24, { p with brkC := brk }),
          (0x28, { p with brkD := brk }), (0x2C, { p with detA := BitVec.ofNat 8 v, detB := BitVec.ofNat 8 (v / 256) }),
          (0x30, { p with healthA := BitVec.ofNat 64 v }), (0x38, { p with healthB := BitVec.ofNat 64 v })] →
        Runs (.protectedRegisterWrite r off v) s [.rte, .acc, .sec, .mgmt, .out] (fun d => d.rte = { s.dev.rte with pend := p' })) ∧
      (s.dev.rte.fstate < 2 → Runs (.protectedRegisterWrite r off v) s [.evc, .free, .acc, .sec, .mgmt, .out] (fun d =>
        Raises 0xC4A3 s.dev d)))) ∧
  (∀ s : State, s.dev.rte.fstate = 1 →
    (s.dev.drainedNow = true → Runs .drainComplete s [.rte, .evc, .free] (fun d =>
      d.rte = { s.dev.rte with fstate := 2 } ∧ Raises 0xC4A0 s.dev d)) ∧
    (s.dev.drainedNow = false → exec .drainComplete s = .next s) ∧
    Runs .drainTimeout s [.ports, .rte, .evc, .free] (fun d => d.rte.fstate = 3 ∧ Raises 0xC4A1 s.dev d ∧
      d.rte.drainDis = satAdd 32 s.dev.rte.drainDis ((List.range 18).foldl (fun n p => n +
        (s.dev.port p).inBuf.foldl (fun k kv => if kv.1 = 0 then k else k + kv.2.length) 0 +
        ((s.dev.port p).txq.filter (fun f => f.vc != 0 && f.last)).length) 0) ∧
      ∀ p, p < 18 → (∀ v, tget [] (d.port p).inBuf v = if v = 0 then tget [] (s.dev.port p).inBuf 0 else []) ∧
        (d.port p).txq = (s.dev.port p).txq.filter (fun f => f.vc == 0) ∧ (d.port p).retry = (s.dev.port p).retry)) ∧
  (∀ s : State,
    (s.dev.rte.isMaster = true →
      Runs .gangBeaconSend s [.rte, .mgmt, .out] (fun d => d.rte.live = s.dev.liveNow ∧
        ∃ l, d.rte.heldInj = s.dev.rte.heldInj ++ l ∧ l.map (·.dst) = s.dev.gangOthers.map s.dev.gangId ∧
          ∀ k ∈ l, k.kind = 0x1B ∧ k.src = s.dev.rte.devId ∧ k.arg0 = s.dev.liveNow.toNat ∧ k.arg1 = 0)) ∧
    (∀ k : Packet, k.src = s.dev.gangId (devA k.src) → devA k.src ≠ s.dev.myA →
      let a := devA k.src
      (k.arg1 % 2 = 1 → s.dev.rte.isMaster = true → Runs (.gangBeacon k) s [.rte, .mgmt, .out] (fun d =>
        tget 0 d.rte.replyAt a = max 1 s.dev.now ∧ (∀ j, j ≠ a → tget 0 d.rte.replyAt j = tget 0 s.dev.rte.replyAt j) ∧
        d.rte.live = d.liveNow)) ∧
      (k.arg1 % 2 = 0 → a < (if s.dev.rte.noMaster then 8 else s.dev.rte.master) →
        Runs (.gangBeacon k) s [.rte, .pwr, .evc, .free, .mgmt, .out] (fun d =>
          d.rte.master = a ∧ d.rte.noMaster = false ∧ d.rte.isMaster = false ∧ d.rte.changes = satAdd 16 s.dev.rte.changes 1 ∧
          d.pwr.alloc = 0 ∧ Raises 0xC4A6 s.dev d ∧ Injects s.dev d (fun u => u.kind = 0x1B ∧ u.dst = s.dev.gangId a ∧ u.arg1 = 1)))) ∧
    (s.dev.eligibleMaster = true → s.dev.rte.isMaster = false → (s.dev.rte.noMaster = true ∨ s.dev.rte.master ≠ s.dev.myA) →
      Runs .gangMasterTimeout s [.rte, .pwr, .evc, .free, .mgmt, .out] (fun d => d.rte.isMaster = true ∧ d.rte.master = s.dev.myA ∧
        d.rte.noMaster = false ∧ d.rte.changes = satAdd 16 s.dev.rte.changes 1 ∧ Raises 0xC4A6 s.dev d)) ∧
    (s.dev.rte.isMaster = false → s.dev.rte.noMaster = false → s.dev.rte.master < 8 →
      Runs .gangFollowTimeout s [.rte, .pwr, .evc, .free, .mgmt, .out] (fun d => d.rte.noMaster = true ∧ d.rte.isMaster = false ∧
        d.rte.master = 0 ∧ d.pwr.alloc = 0 ∧ Raises 0xC4A6 s.dev d)))

/-! ### Cooling: sensors, flow, throttles (R323–R335) -/

/-- JUNCTION_SAMPLE stores 64 readings; a reading outside −40 to 150 °C, or a failed self-check, fails its sensor; with every
reading and fallback below the trip threshold nothing trips, and the hottest hot spot of each quadrant is recorded. A usable
sensor's second reading in a row at or above 110 °C trips: THERM_TRIP_N, the hold state, a request to remove VMAIN.
PACKAGE_SENSOR_SAMPLE stores four readings, selects the source and recomputes the allowed power of the flow and inlet in use.
SENSOR_IMPLAUSIBLE and SENSOR_PLAUSIBLE set and clear that state of one sensor; SENSOR_DISAGREEING marks a pair by whether it
differs by more than 6 K. -/
def Obligations.SensorsAreReadAndJudged : Prop :=
  (∀ (s : State) (readings : List Int) (bad : List Nat), readings.length = 64 → s.dev.thm.tripped = false → s.dev.rst.step ≠ 3 →
    ((∀ t ∈ readings, t < 428) → (∀ q, q < 4 → tget 0 s.dev.thm.model q + 40 < 440) →
      Runs (.junctionSample readings bad) s [.thm, .evc, .mgmt, .out] (fun d =>
        (∀ n, n < 64 → (d.sensor n).reading = readings.getD n 0 ∧
          (d.sensor n).failed = ((s.dev.sensor n).failed || bad.contains n || decide (readings.getD n 0 < -160) || decide (600 < readings.getD n 0))) ∧
        (∀ n, 64 ≤ n → d.sensor n = s.dev.sensor n) ∧ d.thm.tripped = false ∧ d.thm.hold = s.dev.thm.hold ∧
        d.thm.overTrip = s.dev.thm.overTrip.filter (fun id => decide (32 ≤ id)) ∧
        ∀ q, q < 4 → (tget 0 d.thm.hot q, tget 0 d.thm.hotVal q) = d.hottest q)) ∧
    (∀ n, n < 64 → (s.dev.sensor n).usable = true → bad.contains n = false → 440 ≤ readings.getD n 0 → readings.getD n 0 ≤ 600 →
      s.dev.thm.overTrip.contains (n / 2) = true →
      Runs (.junctionSample readings bad) s [.thm, .mem, .pwr, .evc, .mgmt, .out] (fun d =>
        d.thm.tripped = true ∧ d.thm.cycled = false ∧ d.thm.vmReq = true ∧ d.thm.hold = true ∧
        d.thm.trips = satAdd 16 s.dev.thm.trips 1 ∧ d.mgmt.vmHold = some 0 ∧ 440 ≤ d.thm.logVal))) ∧
  (∀ (s : State) (readings : List Int) (bad : List Nat), readings.length = 4 →
    Runs (.packageSensorSample readings bad) s [.thm, .mem, .pwr, .evc, .free, .mgmt, .out] (fun d =>
      (∀ i, i < 4 → (d.sensor (80 + i)).reading = readings.getD i 0 ∧ (d.sensor (80 + i)).failed = ((s.dev.sensor (80 + i)).failed ||
        bad.contains (80 + i) || decide (readings.getD i 0 < -160) || decide (600 < readings.getD i 0))) ∧
      (∀ n, ¬(80 ≤ n ∧ n < 84) → d.sensor n = s.dev.sensor n) ∧ d.thm.inUse = s.dev.coolSource ∧
      (∀ i o, d.pairValue 80 81 = some i → d.pairValue 82 83 = some o → 1000 ≤ s.dev.pwr.lastSecond → 8 ≤ o - i →
        d.thm.flowPkg = s.dev.pwr.lastSecond * 400 / (66 * (o - i).toNat) % 65536) ∧
      d.thm.allowed = allowedPower d.thm.flow d.thm.inlet ∧
      (s.dev.coolSource = 0 → ∀ i, d.pairValue 80 81 = some i → d.thm.flow = d.thm.flowPkg ∧ d.thm.inlet = i))) ∧
  (∀ (s : State) (n : Nat), n < 84 → let x := s.dev.sensor n
    (x.failed = false → Runs (.sensorImplausible n) s [.thm, .evc, .mgmt, .out] (fun d =>
      (∃ e, d.sensor n = { x with implaus := true, entries := e }) ∧ But n s.dev.sensor d.sensor)) ∧
    Runs (.sensorPlausible n) s [.thm, .evc, .mgmt, .out] (fun d =>
      (∃ e, d.sensor n = { x with implaus := false, entries := e }) ∧ But n s.dev.sensor d.sensor)) ∧
  (∀ (s : State) (k : Nat), k < 34 → let (a, b) := pairSensors k
    let x := s.dev.sensor a
    let y := s.dev.sensor b
    x.failed = false → y.failed = false → Runs (.sensorDisagreeing k) s [.thm, .evc, .mgmt, .out] (fun d =>
      (∃ e, d.sensor a = { x with disag := decide (24 < (x.reading - y.reading).natAbs), entries := e }) ∧
      (∃ e, d.sensor b = { y with disag := decide (24 < (x.reading - y.reading).natAbs), entries := e }) ∧
      ∀ n, n ≠ a → n ≠ b → d.sensor n = s.dev.sensor n))

/-- Flow that has stayed up ends the hold of a flow loss, 0xCE32; two seconds without recovery make the loss final and ask for the
removal of VMAIN, 0xCE33. THERMAL_MODEL_UPDATE computes each quadrant's estimate from the flow; with no flow it takes a free
value. A quadrant above 100 °C has every one of its clusters' limits lowered and the throttle event raised at its start; below
97 °C each rises by 1 % until the power limit no longer exceeds it, and the event is raised at its end. A throttled stack above
85 °C loses one more step, down to 3. The allowance rises by 1 W after a fall until it meets the allowed power. TRAY_STALE
raises 0xCE41 and turns to the package sensors. -/
def Obligations.FlowLossThrottlesAndAllowance : Prop :=
  ∀ s : State,
    (s.dev.thm.flowLoss = true → s.dev.thm.noLeave = false →
      (s.dev.thm.okFrom.isSome = true → Runs .flowRecover s [.thm, .mem, .evc, .mgmt, .out] (fun d =>
        d.thm = { s.dev.thm with flowLoss := false, okFrom := none, hold := false } ∧ RaisesOnly 0xCE32 s.dev.thm.flow s.dev d ∧
        d.mem.hbm = tmap Stack.init (fun _ x => if x.state = 2 then { x with state := 1 } else x) s.dev.mem.hbm)) ∧
      Runs .flowLossTimeout s [.thm, .evc, .mgmt, .out] (fun d =>
        d.thm = { s.dev.thm with noLeave := true, vmReq := true, logSens := 0xFF, logFlow := true } ∧
        RaisesOnly 0xCE33 s.dev.thm.flow s.dev d ∧ d.mgmt.vmHold = some 1)) ∧
    (∀ watts : List Nat,
      (s.dev.thm.flow ≠ 0 → Runs (.thermalModelUpdate watts) s [.thm, .mgmt, .out] (fun d => ∀ q, tget 0 d.thm.model q =
        if q < 4 then s.dev.thm.inlet + ((s.dev.pwr.lastSecond * 40000000 + watts.getD q 0 * 18 * 132 * s.dev.thm.flow) /
          (132 * s.dev.thm.flow * 100000) : Nat) else tget 0 s.dev.thm.model q)) ∧
      Runs (.thermalModelUpdate watts) s [.thm, .free, .mgmt, .out] (fun d => ∀ q, 4 ≤ q →
        tget 0 d.thm.model q = tget 0 s.dev.thm.model q)) ∧
    (∀ q, q < 4 → let v := (s.dev.hottest q).2
      (400 < v → Runs (.junctionThrottleTick q) s [.thm, .pwr, .evc] (fun d =>
        (∀ c, tget 65535 d.pwr.thermal c = if c / 16 = q then limitDown (s.dev.pwr.limit c) else tget 65535 s.dev.pwr.thermal c) ∧
        bit d.thm.throttle.toNat q = true ∧ (bit s.dev.thm.throttle.toNat q = false → Raises (0xCE00 + q) s.dev d))) ∧
      (v < 388 → Runs (.junctionThrottleTick q) s [.thm, .pwr, .evc] (fun d =>
        (∀ c, tget 65535 d.pwr.thermal c = if c / 16 = q then
          (if s.dev.pwr.powLimit c ≤ limitUp (tget 65535 s.dev.pwr.thermal c) then 65535 else limitUp (tget 65535 s.dev.pwr.thermal c))
          else tget 65535 s.dev.pwr.thermal c) ∧
        bit d.thm.throttle.toNat q = false ∧ (bit s.dev.thm.throttle.toNat q = true → Raises (0xCE04 + q) s.dev d))) ∧
      (388 ≤ v → v ≤ 400 → exec (.junctionThrottleTick q) s = .next s)) ∧
    (∀ k, k < 16 → (s.dev.sensor (64 + k)).failed = false → 340 < (s.dev.sensor (64 + k)).reading → (s.dev.stack k).limit ≠ 0 →
      Runs (.hbmThrottleTick k) s [.mem] (fun d =>
        d.stack k = { s.dev.stack k with limit := max 3 ((s.dev.stack k).limit - 1) } ∧ But k s.dev.stack d.stack ∧
        d.mem.bytes = s.dev.mem.bytes)) ∧
    (s.dev.thm.fell = true → Runs .allowanceRise s [.thm, .mgmt, .out] (fun d => d.thm = { s.dev.thm with
      allow := min s.dev.thm.allowed (s.dev.thm.allow + 1), fell := decide (s.dev.thm.allow + 1 < s.dev.thm.allowed) })) ∧
    (s.dev.thm.stale = false → Runs .trayStale s [.thm, .mem, .pwr, .evc, .free, .mgmt, .out] (fun d => d.thm.stale = true ∧
      d.thm.inUse = 0 ∧ d.thm.allowed = allowedPower d.thm.flow d.thm.inlet ∧ Raises 0xCE41 s.dev d))

/-! ### Resets (R339–R345, R350) -/

/-- POR, BOR, the watchdog and a lock-up perform an L4 under their own source. The pin, JTAG and a loss of REFCLK perform the level
of their effective code: 5 is an L4, 4 asks for an L3 that takes in every reset in progress, less only counts. An assertion is
counted while VBKP is up, in the one counter of its source. BOR loses what VSTBY holds, and the binding; VBKP's loss clears the
audit counters and the seal-break record. Losing VMAIN unpours everything, empties the memories and takes the ports down; its
return after a loss asks for an L3 by source 11. -/
def Obligations.ResetSourcesPerformTheirLevel : Prop :=
  (∀ (s : State) (straps : Nat), Runs (.por straps) s Block.volatile (fun d =>
    let m := { s.dev.mgmt with straps := straps % 512 }
    AfterL4 s.owner 2 { s.dev with mgmt := m, rst := { s.dev.rst with audit := d.rst.audit } } d ∧ Counted 2 s.dev d ∧
      d.mgmt.straps = straps % 512 ∧ d.rst.vstby = true)) ∧
  (∀ s : State, Runs .bor s (.bind :: Block.volatile) (fun d =>
    AfterL4 s.owner 3 { s.dev with rst := { s.dev.rst with audit := d.rst.audit, backup := [], retained := [] } } d ∧ Counted 3 s.dev d ∧
      d.rst.vstby = false ∧ d.bind = none)) ∧
  (∀ (s : State) (limit : Bool), Runs (.wdtExpiry limit) s Block.volatile (fun d =>
    AfterL4 s.owner 5 { s.dev with rst := { s.dev.rst with audit := d.rst.audit } } d ∧ Counted 5 s.dev d)) ∧
  (∀ s : State, Runs .lockUp s Block.volatile (fun d =>
    AfterL4 s.owner 9 { s.dev with rst := { s.dev.rst with audit := d.rst.audit } } d ∧ Counted 9 s.dev d)) ∧
  (∀ (s : State) (c : Instr) (i : Nat), (c, i) ∈ [(.pinReset, 4), (.jtagReset, 7), (.refclkFailure, 8)] →
    (c = .refclkFailure → s.dev.rst.refclk = true) →
    (s.dev.reach s.owner i = 5 → Runs c s Block.volatile (fun d =>
      AfterL4 s.owner i { s.dev with rst := { s.dev.rst with audit := d.rst.audit } } d ∧ Counted i s.dev d)) ∧
    (s.dev.reach s.owner i = 4 → s.dev.mld.op = none → (∀ o ∈ s.dev.rst.ops, o.level < 3) →
      Runs c s [.rst, .mgmt, .out] (fun d => d.rst.state = 2 ∧ Counted i s.dev d ∧
        d.rst.ops = [mkReset 3 i 0 0 false (s.dev.rst.ops.flatMap (fun o => o.fences)) s.dev.now])) ∧
    (s.dev.reach s.owner i < 4 → Runs c s [.rst, .mgmt, .out] (fun d =>
      d.rst.ops = s.dev.rst.ops ∧ d.rst.state = s.dev.rst.state ∧ Counted i s.dev d))) ∧
  (∀ s : State,
    Runs .pinResetRelease s [.rst, .mgmt, .out] (fun d => d.rst = { s.dev.rst with pinHeld := false }) ∧
    Runs .refclkReturn s [.rst, .mgmt, .out] (fun d => d.rst = { s.dev.rst with refclk := true }) ∧
    Runs .vbkpReturn s [.rst, .mgmt, .out] (fun d => d.rst = { s.dev.rst with vbkp := true }) ∧
    Runs .vbkpLoss s [.rst, .sec, .mgmt, .out] (fun d => d.rst = { s.dev.rst with vbkp := false, audit := [], auditSat := [] } ∧
      d.sec = { s.dev.sec with sealUnack := false, sealN := 0, sealBad := 0 })) ∧
  (∀ s : State,
    (s.dev.rst.vmain = true →
      Runs .vmainLoss s [.free, .cat, .mld, .que, .syn, .evc, .mem, .ports, .rte, .ldl, .hst, .pwr, .rst, .mgmt, .twin, .out] (fun d =>
        d.rst.vmain = false ∧ d.rst.state = 0 ∧ (∀ p, (d.part p).state = 0) ∧ d.mem.bytes = [] ∧ d.cat.runs = [] ∧
        (∀ p, p < 18 → (d.port p).state = if (s.dev.port p).enable then 4 else 0) ∧
        d.mgmt.lossP = s.dev.pwr.power ∧ d.mgmt.lossN = satAdd 16 s.dev.mgmt.lossN 1)) ∧
    (s.dev.rst.vmain = false → s.dev.rst.vstby = true →
      (s.dev.rst.lostV = true → s.dev.mld.op = none → (∀ o ∈ s.dev.rst.ops, o.level < 3) →
        Runs .vmainRestore s [.free, .evc, .thm, .rst, .mgmt, .out] (fun d =>
          d.rst.vmain = true ∧ d.rst.vmainAt = s.dev.now ∧ d.rst.lostV = false ∧ d.rst.state = 2 ∧ Counted 11 s.dev d ∧
          d.rst.ops = [mkReset 3 11 0 0 false (s.dev.rst.ops.flatMap (fun o => o.fences)) s.dev.now] ∧ d.mgmt.vmHold = none)) ∧
      (s.dev.rst.lostV = false → s.dev.rst.booted = true → s.dev.upd.recovery = false → s.dev.thm.hold = false →
        Runs .vmainRestore s [.thm, .rst, .mem, .mgmt, .out] (fun d =>
          d.rst.vmain = true ∧ d.rst.step = 3 ∧ ∀ k, k < 16 → (d.stack k).state = 3))))
end

