-- ==== Sys2Proof/Laws/State.lean ====
section
/-! SUPPORT. One lemma per block per update of one block, true by rfl, so that no later proof unfolds a record update; the same for
the entry updates of the tables, which change one block only. -/

namespace Sys2Proof.Machine

/-! ### Dev.upCat -/

@[simp] theorem upCat_cat (d : Dev) (f : Cat → Cat) : (d.upCat f).cat = f d.cat := rfl
@[simp] theorem upCat_now (d : Dev) (f : Cat → Cat) : (d.upCat f).now = d.now := rfl
@[simp] theorem upCat_free (d : Dev) (f : Cat → Cat) : (d.upCat f).free = d.free := rfl
@[simp] theorem upCat_mld (d : Dev) (f : Cat → Cat) : (d.upCat f).mld = d.mld := rfl
@[simp] theorem upCat_que (d : Dev) (f : Cat → Cat) : (d.upCat f).que = d.que := rfl
@[simp] theorem upCat_syn (d : Dev) (f : Cat → Cat) : (d.upCat f).syn = d.syn := rfl
@[simp] theorem upCat_evc (d : Dev) (f : Cat → Cat) : (d.upCat f).evc = d.evc := rfl
@[simp] theorem upCat_mem (d : Dev) (f : Cat → Cat) : (d.upCat f).mem = d.mem := rfl
@[simp] theorem upCat_ports (d : Dev) (f : Cat → Cat) : (d.upCat f).ports = d.ports := rfl
@[simp] theorem upCat_rte (d : Dev) (f : Cat → Cat) : (d.upCat f).rte = d.rte := rfl
@[simp] theorem upCat_ldl (d : Dev) (f : Cat → Cat) : (d.upCat f).ldl = d.ldl := rfl
@[simp] theorem upCat_hst (d : Dev) (f : Cat → Cat) : (d.upCat f).hst = d.hst := rfl
@[simp] theorem upCat_bind (d : Dev) (f : Cat → Cat) : (d.upCat f).bind = d.bind := rfl
@[simp] theorem upCat_pwr (d : Dev) (f : Cat → Cat) : (d.upCat f).pwr = d.pwr := rfl
@[simp] theorem upCat_thm (d : Dev) (f : Cat → Cat) : (d.upCat f).thm = d.thm := rfl
@[simp] theorem upCat_rst (d : Dev) (f : Cat → Cat) : (d.upCat f).rst = d.rst := rfl
@[simp] theorem upCat_flash (d : Dev) (f : Cat → Cat) : (d.upCat f).flash = d.flash := rfl
@[simp] theorem upCat_upd (d : Dev) (f : Cat → Cat) : (d.upCat f).upd = d.upd := rfl
@[simp] theorem upCat_sec (d : Dev) (f : Cat → Cat) : (d.upCat f).sec = d.sec := rfl
@[simp] theorem upCat_mgmt (d : Dev) (f : Cat → Cat) : (d.upCat f).mgmt = d.mgmt := rfl
@[simp] theorem upCat_twin (d : Dev) (f : Cat → Cat) : (d.upCat f).twin = d.twin := rfl
@[simp] theorem upCat_acc (d : Dev) (f : Cat → Cat) : (d.upCat f).acc = d.acc := rfl
@[simp] theorem upCat_out (d : Dev) (f : Cat → Cat) : (d.upCat f).out = d.out := rfl

/-! ### Dev.upMld -/

@[simp] theorem upMld_mld (d : Dev) (f : Mld → Mld) : (d.upMld f).mld = f d.mld := rfl
@[simp] theorem upMld_now (d : Dev) (f : Mld → Mld) : (d.upMld f).now = d.now := rfl
@[simp] theorem upMld_free (d : Dev) (f : Mld → Mld) : (d.upMld f).free = d.free := rfl
@[simp] theorem upMld_cat (d : Dev) (f : Mld → Mld) : (d.upMld f).cat = d.cat := rfl
@[simp] theorem upMld_que (d : Dev) (f : Mld → Mld) : (d.upMld f).que = d.que := rfl
@[simp] theorem upMld_syn (d : Dev) (f : Mld → Mld) : (d.upMld f).syn = d.syn := rfl
@[simp] theorem upMld_evc (d : Dev) (f : Mld → Mld) : (d.upMld f).evc = d.evc := rfl
@[simp] theorem upMld_mem (d : Dev) (f : Mld → Mld) : (d.upMld f).mem = d.mem := rfl
@[simp] theorem upMld_ports (d : Dev) (f : Mld → Mld) : (d.upMld f).ports = d.ports := rfl
@[simp] theorem upMld_rte (d : Dev) (f : Mld → Mld) : (d.upMld f).rte = d.rte := rfl
@[simp] theorem upMld_ldl (d : Dev) (f : Mld → Mld) : (d.upMld f).ldl = d.ldl := rfl
@[simp] theorem upMld_hst (d : Dev) (f : Mld → Mld) : (d.upMld f).hst = d.hst := rfl
@[simp] theorem upMld_bind (d : Dev) (f : Mld → Mld) : (d.upMld f).bind = d.bind := rfl
@[simp] theorem upMld_pwr (d : Dev) (f : Mld → Mld) : (d.upMld f).pwr = d.pwr := rfl
@[simp] theorem upMld_thm (d : Dev) (f : Mld → Mld) : (d.upMld f).thm = d.thm := rfl
@[simp] theorem upMld_rst (d : Dev) (f : Mld → Mld) : (d.upMld f).rst = d.rst := rfl
@[simp] theorem upMld_flash (d : Dev) (f : Mld → Mld) : (d.upMld f).flash = d.flash := rfl
@[simp] theorem upMld_upd (d : Dev) (f : Mld → Mld) : (d.upMld f).upd = d.upd := rfl
@[simp] theorem upMld_sec (d : Dev) (f : Mld → Mld) : (d.upMld f).sec = d.sec := rfl
@[simp] theorem upMld_mgmt (d : Dev) (f : Mld → Mld) : (d.upMld f).mgmt = d.mgmt := rfl
@[simp] theorem upMld_twin (d : Dev) (f : Mld → Mld) : (d.upMld f).twin = d.twin := rfl
@[simp] theorem upMld_acc (d : Dev) (f : Mld → Mld) : (d.upMld f).acc = d.acc := rfl
@[simp] theorem upMld_out (d : Dev) (f : Mld → Mld) : (d.upMld f).out = d.out := rfl

/-! ### Dev.upQue -/

@[simp] theorem upQue_que (d : Dev) (f : Que → Que) : (d.upQue f).que = f d.que := rfl
@[simp] theorem upQue_now (d : Dev) (f : Que → Que) : (d.upQue f).now = d.now := rfl
@[simp] theorem upQue_free (d : Dev) (f : Que → Que) : (d.upQue f).free = d.free := rfl
@[simp] theorem upQue_cat (d : Dev) (f : Que → Que) : (d.upQue f).cat = d.cat := rfl
@[simp] theorem upQue_mld (d : Dev) (f : Que → Que) : (d.upQue f).mld = d.mld := rfl
@[simp] theorem upQue_syn (d : Dev) (f : Que → Que) : (d.upQue f).syn = d.syn := rfl
@[simp] theorem upQue_evc (d : Dev) (f : Que → Que) : (d.upQue f).evc = d.evc := rfl
@[simp] theorem upQue_mem (d : Dev) (f : Que → Que) : (d.upQue f).mem = d.mem := rfl
@[simp] theorem upQue_ports (d : Dev) (f : Que → Que) : (d.upQue f).ports = d.ports := rfl
@[simp] theorem upQue_rte (d : Dev) (f : Que → Que) : (d.upQue f).rte = d.rte := rfl
@[simp] theorem upQue_ldl (d : Dev) (f : Que → Que) : (d.upQue f).ldl = d.ldl := rfl
@[simp] theorem upQue_hst (d : Dev) (f : Que → Que) : (d.upQue f).hst = d.hst := rfl
@[simp] theorem upQue_bind (d : Dev) (f : Que → Que) : (d.upQue f).bind = d.bind := rfl
@[simp] theorem upQue_pwr (d : Dev) (f : Que → Que) : (d.upQue f).pwr = d.pwr := rfl
@[simp] theorem upQue_thm (d : Dev) (f : Que → Que) : (d.upQue f).thm = d.thm := rfl
@[simp] theorem upQue_rst (d : Dev) (f : Que → Que) : (d.upQue f).rst = d.rst := rfl
@[simp] theorem upQue_flash (d : Dev) (f : Que → Que) : (d.upQue f).flash = d.flash := rfl
@[simp] theorem upQue_upd (d : Dev) (f : Que → Que) : (d.upQue f).upd = d.upd := rfl
@[simp] theorem upQue_sec (d : Dev) (f : Que → Que) : (d.upQue f).sec = d.sec := rfl
@[simp] theorem upQue_mgmt (d : Dev) (f : Que → Que) : (d.upQue f).mgmt = d.mgmt := rfl
@[simp] theorem upQue_twin (d : Dev) (f : Que → Que) : (d.upQue f).twin = d.twin := rfl
@[simp] theorem upQue_acc (d : Dev) (f : Que → Que) : (d.upQue f).acc = d.acc := rfl
@[simp] theorem upQue_out (d : Dev) (f : Que → Que) : (d.upQue f).out = d.out := rfl

/-! ### Dev.upSyn -/

@[simp] theorem upSyn_syn (d : Dev) (f : Syn → Syn) : (d.upSyn f).syn = f d.syn := rfl
@[simp] theorem upSyn_now (d : Dev) (f : Syn → Syn) : (d.upSyn f).now = d.now := rfl
@[simp] theorem upSyn_free (d : Dev) (f : Syn → Syn) : (d.upSyn f).free = d.free := rfl
@[simp] theorem upSyn_cat (d : Dev) (f : Syn → Syn) : (d.upSyn f).cat = d.cat := rfl
@[simp] theorem upSyn_mld (d : Dev) (f : Syn → Syn) : (d.upSyn f).mld = d.mld := rfl
@[simp] theorem upSyn_que (d : Dev) (f : Syn → Syn) : (d.upSyn f).que = d.que := rfl
@[simp] theorem upSyn_evc (d : Dev) (f : Syn → Syn) : (d.upSyn f).evc = d.evc := rfl
@[simp] theorem upSyn_mem (d : Dev) (f : Syn → Syn) : (d.upSyn f).mem = d.mem := rfl
@[simp] theorem upSyn_ports (d : Dev) (f : Syn → Syn) : (d.upSyn f).ports = d.ports := rfl
@[simp] theorem upSyn_rte (d : Dev) (f : Syn → Syn) : (d.upSyn f).rte = d.rte := rfl
@[simp] theorem upSyn_ldl (d : Dev) (f : Syn → Syn) : (d.upSyn f).ldl = d.ldl := rfl
@[simp] theorem upSyn_hst (d : Dev) (f : Syn → Syn) : (d.upSyn f).hst = d.hst := rfl
@[simp] theorem upSyn_bind (d : Dev) (f : Syn → Syn) : (d.upSyn f).bind = d.bind := rfl
@[simp] theorem upSyn_pwr (d : Dev) (f : Syn → Syn) : (d.upSyn f).pwr = d.pwr := rfl
@[simp] theorem upSyn_thm (d : Dev) (f : Syn → Syn) : (d.upSyn f).thm = d.thm := rfl
@[simp] theorem upSyn_rst (d : Dev) (f : Syn → Syn) : (d.upSyn f).rst = d.rst := rfl
@[simp] theorem upSyn_flash (d : Dev) (f : Syn → Syn) : (d.upSyn f).flash = d.flash := rfl
@[simp] theorem upSyn_upd (d : Dev) (f : Syn → Syn) : (d.upSyn f).upd = d.upd := rfl
@[simp] theorem upSyn_sec (d : Dev) (f : Syn → Syn) : (d.upSyn f).sec = d.sec := rfl
@[simp] theorem upSyn_mgmt (d : Dev) (f : Syn → Syn) : (d.upSyn f).mgmt = d.mgmt := rfl
@[simp] theorem upSyn_twin (d : Dev) (f : Syn → Syn) : (d.upSyn f).twin = d.twin := rfl
@[simp] theorem upSyn_acc (d : Dev) (f : Syn → Syn) : (d.upSyn f).acc = d.acc := rfl
@[simp] theorem upSyn_out (d : Dev) (f : Syn → Syn) : (d.upSyn f).out = d.out := rfl

/-! ### Dev.upEvc -/

@[simp] theorem upEvc_evc (d : Dev) (f : Evc → Evc) : (d.upEvc f).evc = f d.evc := rfl
@[simp] theorem upEvc_now (d : Dev) (f : Evc → Evc) : (d.upEvc f).now = d.now := rfl
@[simp] theorem upEvc_free (d : Dev) (f : Evc → Evc) : (d.upEvc f).free = d.free := rfl
@[simp] theorem upEvc_cat (d : Dev) (f : Evc → Evc) : (d.upEvc f).cat = d.cat := rfl
@[simp] theorem upEvc_mld (d : Dev) (f : Evc → Evc) : (d.upEvc f).mld = d.mld := rfl
@[simp] theorem upEvc_que (d : Dev) (f : Evc → Evc) : (d.upEvc f).que = d.que := rfl
@[simp] theorem upEvc_syn (d : Dev) (f : Evc → Evc) : (d.upEvc f).syn = d.syn := rfl
@[simp] theorem upEvc_mem (d : Dev) (f : Evc → Evc) : (d.upEvc f).mem = d.mem := rfl
@[simp] theorem upEvc_ports (d : Dev) (f : Evc → Evc) : (d.upEvc f).ports = d.ports := rfl
@[simp] theorem upEvc_rte (d : Dev) (f : Evc → Evc) : (d.upEvc f).rte = d.rte := rfl
@[simp] theorem upEvc_ldl (d : Dev) (f : Evc → Evc) : (d.upEvc f).ldl = d.ldl := rfl
@[simp] theorem upEvc_hst (d : Dev) (f : Evc → Evc) : (d.upEvc f).hst = d.hst := rfl
@[simp] theorem upEvc_bind (d : Dev) (f : Evc → Evc) : (d.upEvc f).bind = d.bind := rfl
@[simp] theorem upEvc_pwr (d : Dev) (f : Evc → Evc) : (d.upEvc f).pwr = d.pwr := rfl
@[simp] theorem upEvc_thm (d : Dev) (f : Evc → Evc) : (d.upEvc f).thm = d.thm := rfl
@[simp] theorem upEvc_rst (d : Dev) (f : Evc → Evc) : (d.upEvc f).rst = d.rst := rfl
@[simp] theorem upEvc_flash (d : Dev) (f : Evc → Evc) : (d.upEvc f).flash = d.flash := rfl
@[simp] theorem upEvc_upd (d : Dev) (f : Evc → Evc) : (d.upEvc f).upd = d.upd := rfl
@[simp] theorem upEvc_sec (d : Dev) (f : Evc → Evc) : (d.upEvc f).sec = d.sec := rfl
@[simp] theorem upEvc_mgmt (d : Dev) (f : Evc → Evc) : (d.upEvc f).mgmt = d.mgmt := rfl
@[simp] theorem upEvc_twin (d : Dev) (f : Evc → Evc) : (d.upEvc f).twin = d.twin := rfl
@[simp] theorem upEvc_acc (d : Dev) (f : Evc → Evc) : (d.upEvc f).acc = d.acc := rfl
@[simp] theorem upEvc_out (d : Dev) (f : Evc → Evc) : (d.upEvc f).out = d.out := rfl

/-! ### Dev.upMem -/

@[simp] theorem upMem_mem (d : Dev) (f : Mem → Mem) : (d.upMem f).mem = f d.mem := rfl
@[simp] theorem upMem_now (d : Dev) (f : Mem → Mem) : (d.upMem f).now = d.now := rfl
@[simp] theorem upMem_free (d : Dev) (f : Mem → Mem) : (d.upMem f).free = d.free := rfl
@[simp] theorem upMem_cat (d : Dev) (f : Mem → Mem) : (d.upMem f).cat = d.cat := rfl
@[simp] theorem upMem_mld (d : Dev) (f : Mem → Mem) : (d.upMem f).mld = d.mld := rfl
@[simp] theorem upMem_que (d : Dev) (f : Mem → Mem) : (d.upMem f).que = d.que := rfl
@[simp] theorem upMem_syn (d : Dev) (f : Mem → Mem) : (d.upMem f).syn = d.syn := rfl
@[simp] theorem upMem_evc (d : Dev) (f : Mem → Mem) : (d.upMem f).evc = d.evc := rfl
@[simp] theorem upMem_ports (d : Dev) (f : Mem → Mem) : (d.upMem f).ports = d.ports := rfl
@[simp] theorem upMem_rte (d : Dev) (f : Mem → Mem) : (d.upMem f).rte = d.rte := rfl
@[simp] theorem upMem_ldl (d : Dev) (f : Mem → Mem) : (d.upMem f).ldl = d.ldl := rfl
@[simp] theorem upMem_hst (d : Dev) (f : Mem → Mem) : (d.upMem f).hst = d.hst := rfl
@[simp] theorem upMem_bind (d : Dev) (f : Mem → Mem) : (d.upMem f).bind = d.bind := rfl
@[simp] theorem upMem_pwr (d : Dev) (f : Mem → Mem) : (d.upMem f).pwr = d.pwr := rfl
@[simp] theorem upMem_thm (d : Dev) (f : Mem → Mem) : (d.upMem f).thm = d.thm := rfl
@[simp] theorem upMem_rst (d : Dev) (f : Mem → Mem) : (d.upMem f).rst = d.rst := rfl
@[simp] theorem upMem_flash (d : Dev) (f : Mem → Mem) : (d.upMem f).flash = d.flash := rfl
@[simp] theorem upMem_upd (d : Dev) (f : Mem → Mem) : (d.upMem f).upd = d.upd := rfl
@[simp] theorem upMem_sec (d : Dev) (f : Mem → Mem) : (d.upMem f).sec = d.sec := rfl
@[simp] theorem upMem_mgmt (d : Dev) (f : Mem → Mem) : (d.upMem f).mgmt = d.mgmt := rfl
@[simp] theorem upMem_twin (d : Dev) (f : Mem → Mem) : (d.upMem f).twin = d.twin := rfl
@[simp] theorem upMem_acc (d : Dev) (f : Mem → Mem) : (d.upMem f).acc = d.acc := rfl
@[simp] theorem upMem_out (d : Dev) (f : Mem → Mem) : (d.upMem f).out = d.out := rfl

/-! ### Dev.upRte -/

@[simp] theorem upRte_rte (d : Dev) (f : Rte → Rte) : (d.upRte f).rte = f d.rte := rfl
@[simp] theorem upRte_now (d : Dev) (f : Rte → Rte) : (d.upRte f).now = d.now := rfl
@[simp] theorem upRte_free (d : Dev) (f : Rte → Rte) : (d.upRte f).free = d.free := rfl
@[simp] theorem upRte_cat (d : Dev) (f : Rte → Rte) : (d.upRte f).cat = d.cat := rfl
@[simp] theorem upRte_mld (d : Dev) (f : Rte → Rte) : (d.upRte f).mld = d.mld := rfl
@[simp] theorem upRte_que (d : Dev) (f : Rte → Rte) : (d.upRte f).que = d.que := rfl
@[simp] theorem upRte_syn (d : Dev) (f : Rte → Rte) : (d.upRte f).syn = d.syn := rfl
@[simp] theorem upRte_evc (d : Dev) (f : Rte → Rte) : (d.upRte f).evc = d.evc := rfl
@[simp] theorem upRte_mem (d : Dev) (f : Rte → Rte) : (d.upRte f).mem = d.mem := rfl
@[simp] theorem upRte_ports (d : Dev) (f : Rte → Rte) : (d.upRte f).ports = d.ports := rfl
@[simp] theorem upRte_ldl (d : Dev) (f : Rte → Rte) : (d.upRte f).ldl = d.ldl := rfl
@[simp] theorem upRte_hst (d : Dev) (f : Rte → Rte) : (d.upRte f).hst = d.hst := rfl
@[simp] theorem upRte_bind (d : Dev) (f : Rte → Rte) : (d.upRte f).bind = d.bind := rfl
@[simp] theorem upRte_pwr (d : Dev) (f : Rte → Rte) : (d.upRte f).pwr = d.pwr := rfl
@[simp] theorem upRte_thm (d : Dev) (f : Rte → Rte) : (d.upRte f).thm = d.thm := rfl
@[simp] theorem upRte_rst (d : Dev) (f : Rte → Rte) : (d.upRte f).rst = d.rst := rfl
@[simp] theorem upRte_flash (d : Dev) (f : Rte → Rte) : (d.upRte f).flash = d.flash := rfl
@[simp] theorem upRte_upd (d : Dev) (f : Rte → Rte) : (d.upRte f).upd = d.upd := rfl
@[simp] theorem upRte_sec (d : Dev) (f : Rte → Rte) : (d.upRte f).sec = d.sec := rfl
@[simp] theorem upRte_mgmt (d : Dev) (f : Rte → Rte) : (d.upRte f).mgmt = d.mgmt := rfl
@[simp] theorem upRte_twin (d : Dev) (f : Rte → Rte) : (d.upRte f).twin = d.twin := rfl
@[simp] theorem upRte_acc (d : Dev) (f : Rte → Rte) : (d.upRte f).acc = d.acc := rfl
@[simp] theorem upRte_out (d : Dev) (f : Rte → Rte) : (d.upRte f).out = d.out := rfl

/-! ### Dev.upLdl -/

@[simp] theorem upLdl_ldl (d : Dev) (f : Ldl → Ldl) : (d.upLdl f).ldl = f d.ldl := rfl
@[simp] theorem upLdl_now (d : Dev) (f : Ldl → Ldl) : (d.upLdl f).now = d.now := rfl
@[simp] theorem upLdl_free (d : Dev) (f : Ldl → Ldl) : (d.upLdl f).free = d.free := rfl
@[simp] theorem upLdl_cat (d : Dev) (f : Ldl → Ldl) : (d.upLdl f).cat = d.cat := rfl
@[simp] theorem upLdl_mld (d : Dev) (f : Ldl → Ldl) : (d.upLdl f).mld = d.mld := rfl
@[simp] theorem upLdl_que (d : Dev) (f : Ldl → Ldl) : (d.upLdl f).que = d.que := rfl
@[simp] theorem upLdl_syn (d : Dev) (f : Ldl → Ldl) : (d.upLdl f).syn = d.syn := rfl
@[simp] theorem upLdl_evc (d : Dev) (f : Ldl → Ldl) : (d.upLdl f).evc = d.evc := rfl
@[simp] theorem upLdl_mem (d : Dev) (f : Ldl → Ldl) : (d.upLdl f).mem = d.mem := rfl
@[simp] theorem upLdl_ports (d : Dev) (f : Ldl → Ldl) : (d.upLdl f).ports = d.ports := rfl
@[simp] theorem upLdl_rte (d : Dev) (f : Ldl → Ldl) : (d.upLdl f).rte = d.rte := rfl
@[simp] theorem upLdl_hst (d : Dev) (f : Ldl → Ldl) : (d.upLdl f).hst = d.hst := rfl
@[simp] theorem upLdl_bind (d : Dev) (f : Ldl → Ldl) : (d.upLdl f).bind = d.bind := rfl
@[simp] theorem upLdl_pwr (d : Dev) (f : Ldl → Ldl) : (d.upLdl f).pwr = d.pwr := rfl
@[simp] theorem upLdl_thm (d : Dev) (f : Ldl → Ldl) : (d.upLdl f).thm = d.thm := rfl
@[simp] theorem upLdl_rst (d : Dev) (f : Ldl → Ldl) : (d.upLdl f).rst = d.rst := rfl
@[simp] theorem upLdl_flash (d : Dev) (f : Ldl → Ldl) : (d.upLdl f).flash = d.flash := rfl
@[simp] theorem upLdl_upd (d : Dev) (f : Ldl → Ldl) : (d.upLdl f).upd = d.upd := rfl
@[simp] theorem upLdl_sec (d : Dev) (f : Ldl → Ldl) : (d.upLdl f).sec = d.sec := rfl
@[simp] theorem upLdl_mgmt (d : Dev) (f : Ldl → Ldl) : (d.upLdl f).mgmt = d.mgmt := rfl
@[simp] theorem upLdl_twin (d : Dev) (f : Ldl → Ldl) : (d.upLdl f).twin = d.twin := rfl
@[simp] theorem upLdl_acc (d : Dev) (f : Ldl → Ldl) : (d.upLdl f).acc = d.acc := rfl
@[simp] theorem upLdl_out (d : Dev) (f : Ldl → Ldl) : (d.upLdl f).out = d.out := rfl

/-! ### Dev.upHst -/

@[simp] theorem upHst_hst (d : Dev) (f : Hst → Hst) : (d.upHst f).hst = f d.hst := rfl
@[simp] theorem upHst_now (d : Dev) (f : Hst → Hst) : (d.upHst f).now = d.now := rfl
@[simp] theorem upHst_free (d : Dev) (f : Hst → Hst) : (d.upHst f).free = d.free := rfl
@[simp] theorem upHst_cat (d : Dev) (f : Hst → Hst) : (d.upHst f).cat = d.cat := rfl
@[simp] theorem upHst_mld (d : Dev) (f : Hst → Hst) : (d.upHst f).mld = d.mld := rfl
@[simp] theorem upHst_que (d : Dev) (f : Hst → Hst) : (d.upHst f).que = d.que := rfl
@[simp] theorem upHst_syn (d : Dev) (f : Hst → Hst) : (d.upHst f).syn = d.syn := rfl
@[simp] theorem upHst_evc (d : Dev) (f : Hst → Hst) : (d.upHst f).evc = d.evc := rfl
@[simp] theorem upHst_mem (d : Dev) (f : Hst → Hst) : (d.upHst f).mem = d.mem := rfl
@[simp] theorem upHst_ports (d : Dev) (f : Hst → Hst) : (d.upHst f).ports = d.ports := rfl
@[simp] theorem upHst_rte (d : Dev) (f : Hst → Hst) : (d.upHst f).rte = d.rte := rfl
@[simp] theorem upHst_ldl (d : Dev) (f : Hst → Hst) : (d.upHst f).ldl = d.ldl := rfl
@[simp] theorem upHst_bind (d : Dev) (f : Hst → Hst) : (d.upHst f).bind = d.bind := rfl
@[simp] theorem upHst_pwr (d : Dev) (f : Hst → Hst) : (d.upHst f).pwr = d.pwr := rfl
@[simp] theorem upHst_thm (d : Dev) (f : Hst → Hst) : (d.upHst f).thm = d.thm := rfl
@[simp] theorem upHst_rst (d : Dev) (f : Hst → Hst) : (d.upHst f).rst = d.rst := rfl
@[simp] theorem upHst_flash (d : Dev) (f : Hst → Hst) : (d.upHst f).flash = d.flash := rfl
@[simp] theorem upHst_upd (d : Dev) (f : Hst → Hst) : (d.upHst f).upd = d.upd := rfl
@[simp] theorem upHst_sec (d : Dev) (f : Hst → Hst) : (d.upHst f).sec = d.sec := rfl
@[simp] theorem upHst_mgmt (d : Dev) (f : Hst → Hst) : (d.upHst f).mgmt = d.mgmt := rfl
@[simp] theorem upHst_twin (d : Dev) (f : Hst → Hst) : (d.upHst f).twin = d.twin := rfl
@[simp] theorem upHst_acc (d : Dev) (f : Hst → Hst) : (d.upHst f).acc = d.acc := rfl
@[simp] theorem upHst_out (d : Dev) (f : Hst → Hst) : (d.upHst f).out = d.out := rfl

/-! ### Dev.upPwr -/

@[simp] theorem upPwr_pwr (d : Dev) (f : Pwr → Pwr) : (d.upPwr f).pwr = f d.pwr := rfl
@[simp] theorem upPwr_now (d : Dev) (f : Pwr → Pwr) : (d.upPwr f).now = d.now := rfl
@[simp] theorem upPwr_free (d : Dev) (f : Pwr → Pwr) : (d.upPwr f).free = d.free := rfl
@[simp] theorem upPwr_cat (d : Dev) (f : Pwr → Pwr) : (d.upPwr f).cat = d.cat := rfl
@[simp] theorem upPwr_mld (d : Dev) (f : Pwr → Pwr) : (d.upPwr f).mld = d.mld := rfl
@[simp] theorem upPwr_que (d : Dev) (f : Pwr → Pwr) : (d.upPwr f).que = d.que := rfl
@[simp] theorem upPwr_syn (d : Dev) (f : Pwr → Pwr) : (d.upPwr f).syn = d.syn := rfl
@[simp] theorem upPwr_evc (d : Dev) (f : Pwr → Pwr) : (d.upPwr f).evc = d.evc := rfl
@[simp] theorem upPwr_mem (d : Dev) (f : Pwr → Pwr) : (d.upPwr f).mem = d.mem := rfl
@[simp] theorem upPwr_ports (d : Dev) (f : Pwr → Pwr) : (d.upPwr f).ports = d.ports := rfl
@[simp] theorem upPwr_rte (d : Dev) (f : Pwr → Pwr) : (d.upPwr f).rte = d.rte := rfl
@[simp] theorem upPwr_ldl (d : Dev) (f : Pwr → Pwr) : (d.upPwr f).ldl = d.ldl := rfl
@[simp] theorem upPwr_hst (d : Dev) (f : Pwr → Pwr) : (d.upPwr f).hst = d.hst := rfl
@[simp] theorem upPwr_bind (d : Dev) (f : Pwr → Pwr) : (d.upPwr f).bind = d.bind := rfl
@[simp] theorem upPwr_thm (d : Dev) (f : Pwr → Pwr) : (d.upPwr f).thm = d.thm := rfl
@[simp] theorem upPwr_rst (d : Dev) (f : Pwr → Pwr) : (d.upPwr f).rst = d.rst := rfl
@[simp] theorem upPwr_flash (d : Dev) (f : Pwr → Pwr) : (d.upPwr f).flash = d.flash := rfl
@[simp] theorem upPwr_upd (d : Dev) (f : Pwr → Pwr) : (d.upPwr f).upd = d.upd := rfl
@[simp] theorem upPwr_sec (d : Dev) (f : Pwr → Pwr) : (d.upPwr f).sec = d.sec := rfl
@[simp] theorem upPwr_mgmt (d : Dev) (f : Pwr → Pwr) : (d.upPwr f).mgmt = d.mgmt := rfl
@[simp] theorem upPwr_twin (d : Dev) (f : Pwr → Pwr) : (d.upPwr f).twin = d.twin := rfl
@[simp] theorem upPwr_acc (d : Dev) (f : Pwr → Pwr) : (d.upPwr f).acc = d.acc := rfl
@[simp] theorem upPwr_out (d : Dev) (f : Pwr → Pwr) : (d.upPwr f).out = d.out := rfl

/-! ### Dev.upThm -/

@[simp] theorem upThm_thm (d : Dev) (f : Thm → Thm) : (d.upThm f).thm = f d.thm := rfl
@[simp] theorem upThm_now (d : Dev) (f : Thm → Thm) : (d.upThm f).now = d.now := rfl
@[simp] theorem upThm_free (d : Dev) (f : Thm → Thm) : (d.upThm f).free = d.free := rfl
@[simp] theorem upThm_cat (d : Dev) (f : Thm → Thm) : (d.upThm f).cat = d.cat := rfl
@[simp] theorem upThm_mld (d : Dev) (f : Thm → Thm) : (d.upThm f).mld = d.mld := rfl
@[simp] theorem upThm_que (d : Dev) (f : Thm → Thm) : (d.upThm f).que = d.que := rfl
@[simp] theorem upThm_syn (d : Dev) (f : Thm → Thm) : (d.upThm f).syn = d.syn := rfl
@[simp] theorem upThm_evc (d : Dev) (f : Thm → Thm) : (d.upThm f).evc = d.evc := rfl
@[simp] theorem upThm_mem (d : Dev) (f : Thm → Thm) : (d.upThm f).mem = d.mem := rfl
@[simp] theorem upThm_ports (d : Dev) (f : Thm → Thm) : (d.upThm f).ports = d.ports := rfl
@[simp] theorem upThm_rte (d : Dev) (f : Thm → Thm) : (d.upThm f).rte = d.rte := rfl
@[simp] theorem upThm_ldl (d : Dev) (f : Thm → Thm) : (d.upThm f).ldl = d.ldl := rfl
@[simp] theorem upThm_hst (d : Dev) (f : Thm → Thm) : (d.upThm f).hst = d.hst := rfl
@[simp] theorem upThm_bind (d : Dev) (f : Thm → Thm) : (d.upThm f).bind = d.bind := rfl
@[simp] theorem upThm_pwr (d : Dev) (f : Thm → Thm) : (d.upThm f).pwr = d.pwr := rfl
@[simp] theorem upThm_rst (d : Dev) (f : Thm → Thm) : (d.upThm f).rst = d.rst := rfl
@[simp] theorem upThm_flash (d : Dev) (f : Thm → Thm) : (d.upThm f).flash = d.flash := rfl
@[simp] theorem upThm_upd (d : Dev) (f : Thm → Thm) : (d.upThm f).upd = d.upd := rfl
@[simp] theorem upThm_sec (d : Dev) (f : Thm → Thm) : (d.upThm f).sec = d.sec := rfl
@[simp] theorem upThm_mgmt (d : Dev) (f : Thm → Thm) : (d.upThm f).mgmt = d.mgmt := rfl
@[simp] theorem upThm_twin (d : Dev) (f : Thm → Thm) : (d.upThm f).twin = d.twin := rfl
@[simp] theorem upThm_acc (d : Dev) (f : Thm → Thm) : (d.upThm f).acc = d.acc := rfl
@[simp] theorem upThm_out (d : Dev) (f : Thm → Thm) : (d.upThm f).out = d.out := rfl

/-! ### Dev.upRst -/

@[simp] theorem upRst_rst (d : Dev) (f : Rst → Rst) : (d.upRst f).rst = f d.rst := rfl
@[simp] theorem upRst_now (d : Dev) (f : Rst → Rst) : (d.upRst f).now = d.now := rfl
@[simp] theorem upRst_free (d : Dev) (f : Rst → Rst) : (d.upRst f).free = d.free := rfl
@[simp] theorem upRst_cat (d : Dev) (f : Rst → Rst) : (d.upRst f).cat = d.cat := rfl
@[simp] theorem upRst_mld (d : Dev) (f : Rst → Rst) : (d.upRst f).mld = d.mld := rfl
@[simp] theorem upRst_que (d : Dev) (f : Rst → Rst) : (d.upRst f).que = d.que := rfl
@[simp] theorem upRst_syn (d : Dev) (f : Rst → Rst) : (d.upRst f).syn = d.syn := rfl
@[simp] theorem upRst_evc (d : Dev) (f : Rst → Rst) : (d.upRst f).evc = d.evc := rfl
@[simp] theorem upRst_mem (d : Dev) (f : Rst → Rst) : (d.upRst f).mem = d.mem := rfl
@[simp] theorem upRst_ports (d : Dev) (f : Rst → Rst) : (d.upRst f).ports = d.ports := rfl
@[simp] theorem upRst_rte (d : Dev) (f : Rst → Rst) : (d.upRst f).rte = d.rte := rfl
@[simp] theorem upRst_ldl (d : Dev) (f : Rst → Rst) : (d.upRst f).ldl = d.ldl := rfl
@[simp] theorem upRst_hst (d : Dev) (f : Rst → Rst) : (d.upRst f).hst = d.hst := rfl
@[simp] theorem upRst_bind (d : Dev) (f : Rst → Rst) : (d.upRst f).bind = d.bind := rfl
@[simp] theorem upRst_pwr (d : Dev) (f : Rst → Rst) : (d.upRst f).pwr = d.pwr := rfl
@[simp] theorem upRst_thm (d : Dev) (f : Rst → Rst) : (d.upRst f).thm = d.thm := rfl
@[simp] theorem upRst_flash (d : Dev) (f : Rst → Rst) : (d.upRst f).flash = d.flash := rfl
@[simp] theorem upRst_upd (d : Dev) (f : Rst → Rst) : (d.upRst f).upd = d.upd := rfl
@[simp] theorem upRst_sec (d : Dev) (f : Rst → Rst) : (d.upRst f).sec = d.sec := rfl
@[simp] theorem upRst_mgmt (d : Dev) (f : Rst → Rst) : (d.upRst f).mgmt = d.mgmt := rfl
@[simp] theorem upRst_twin (d : Dev) (f : Rst → Rst) : (d.upRst f).twin = d.twin := rfl
@[simp] theorem upRst_acc (d : Dev) (f : Rst → Rst) : (d.upRst f).acc = d.acc := rfl
@[simp] theorem upRst_out (d : Dev) (f : Rst → Rst) : (d.upRst f).out = d.out := rfl

/-! ### Dev.upFlash -/

@[simp] theorem upFlash_flash (d : Dev) (f : Flash → Flash) : (d.upFlash f).flash = f d.flash := rfl
@[simp] theorem upFlash_now (d : Dev) (f : Flash → Flash) : (d.upFlash f).now = d.now := rfl
@[simp] theorem upFlash_free (d : Dev) (f : Flash → Flash) : (d.upFlash f).free = d.free := rfl
@[simp] theorem upFlash_cat (d : Dev) (f : Flash → Flash) : (d.upFlash f).cat = d.cat := rfl
@[simp] theorem upFlash_mld (d : Dev) (f : Flash → Flash) : (d.upFlash f).mld = d.mld := rfl
@[simp] theorem upFlash_que (d : Dev) (f : Flash → Flash) : (d.upFlash f).que = d.que := rfl
@[simp] theorem upFlash_syn (d : Dev) (f : Flash → Flash) : (d.upFlash f).syn = d.syn := rfl
@[simp] theorem upFlash_evc (d : Dev) (f : Flash → Flash) : (d.upFlash f).evc = d.evc := rfl
@[simp] theorem upFlash_mem (d : Dev) (f : Flash → Flash) : (d.upFlash f).mem = d.mem := rfl
@[simp] theorem upFlash_ports (d : Dev) (f : Flash → Flash) : (d.upFlash f).ports = d.ports := rfl
@[simp] theorem upFlash_rte (d : Dev) (f : Flash → Flash) : (d.upFlash f).rte = d.rte := rfl
@[simp] theorem upFlash_ldl (d : Dev) (f : Flash → Flash) : (d.upFlash f).ldl = d.ldl := rfl
@[simp] theorem upFlash_hst (d : Dev) (f : Flash → Flash) : (d.upFlash f).hst = d.hst := rfl
@[simp] theorem upFlash_bind (d : Dev) (f : Flash → Flash) : (d.upFlash f).bind = d.bind := rfl
@[simp] theorem upFlash_pwr (d : Dev) (f : Flash → Flash) : (d.upFlash f).pwr = d.pwr := rfl
@[simp] theorem upFlash_thm (d : Dev) (f : Flash → Flash) : (d.upFlash f).thm = d.thm := rfl
@[simp] theorem upFlash_rst (d : Dev) (f : Flash → Flash) : (d.upFlash f).rst = d.rst := rfl
@[simp] theorem upFlash_upd (d : Dev) (f : Flash → Flash) : (d.upFlash f).upd = d.upd := rfl
@[simp] theorem upFlash_sec (d : Dev) (f : Flash → Flash) : (d.upFlash f).sec = d.sec := rfl
@[simp] theorem upFlash_mgmt (d : Dev) (f : Flash → Flash) : (d.upFlash f).mgmt = d.mgmt := rfl
@[simp] theorem upFlash_twin (d : Dev) (f : Flash → Flash) : (d.upFlash f).twin = d.twin := rfl
@[simp] theorem upFlash_acc (d : Dev) (f : Flash → Flash) : (d.upFlash f).acc = d.acc := rfl
@[simp] theorem upFlash_out (d : Dev) (f : Flash → Flash) : (d.upFlash f).out = d.out := rfl

/-! ### Dev.upUpd -/

@[simp] theorem upUpd_upd (d : Dev) (f : Upd → Upd) : (d.upUpd f).upd = f d.upd := rfl
@[simp] theorem upUpd_now (d : Dev) (f : Upd → Upd) : (d.upUpd f).now = d.now := rfl
@[simp] theorem upUpd_free (d : Dev) (f : Upd → Upd) : (d.upUpd f).free = d.free := rfl
@[simp] theorem upUpd_cat (d : Dev) (f : Upd → Upd) : (d.upUpd f).cat = d.cat := rfl
@[simp] theorem upUpd_mld (d : Dev) (f : Upd → Upd) : (d.upUpd f).mld = d.mld := rfl
@[simp] theorem upUpd_que (d : Dev) (f : Upd → Upd) : (d.upUpd f).que = d.que := rfl
@[simp] theorem upUpd_syn (d : Dev) (f : Upd → Upd) : (d.upUpd f).syn = d.syn := rfl
@[simp] theorem upUpd_evc (d : Dev) (f : Upd → Upd) : (d.upUpd f).evc = d.evc := rfl
@[simp] theorem upUpd_mem (d : Dev) (f : Upd → Upd) : (d.upUpd f).mem = d.mem := rfl
@[simp] theorem upUpd_ports (d : Dev) (f : Upd → Upd) : (d.upUpd f).ports = d.ports := rfl
@[simp] theorem upUpd_rte (d : Dev) (f : Upd → Upd) : (d.upUpd f).rte = d.rte := rfl
@[simp] theorem upUpd_ldl (d : Dev) (f : Upd → Upd) : (d.upUpd f).ldl = d.ldl := rfl
@[simp] theorem upUpd_hst (d : Dev) (f : Upd → Upd) : (d.upUpd f).hst = d.hst := rfl
@[simp] theorem upUpd_bind (d : Dev) (f : Upd → Upd) : (d.upUpd f).bind = d.bind := rfl
@[simp] theorem upUpd_pwr (d : Dev) (f : Upd → Upd) : (d.upUpd f).pwr = d.pwr := rfl
@[simp] theorem upUpd_thm (d : Dev) (f : Upd → Upd) : (d.upUpd f).thm = d.thm := rfl
@[simp] theorem upUpd_rst (d : Dev) (f : Upd → Upd) : (d.upUpd f).rst = d.rst := rfl
@[simp] theorem upUpd_flash (d : Dev) (f : Upd → Upd) : (d.upUpd f).flash = d.flash := rfl
@[simp] theorem upUpd_sec (d : Dev) (f : Upd → Upd) : (d.upUpd f).sec = d.sec := rfl
@[simp] theorem upUpd_mgmt (d : Dev) (f : Upd → Upd) : (d.upUpd f).mgmt = d.mgmt := rfl
@[simp] theorem upUpd_twin (d : Dev) (f : Upd → Upd) : (d.upUpd f).twin = d.twin := rfl
@[simp] theorem upUpd_acc (d : Dev) (f : Upd → Upd) : (d.upUpd f).acc = d.acc := rfl
@[simp] theorem upUpd_out (d : Dev) (f : Upd → Upd) : (d.upUpd f).out = d.out := rfl

/-! ### Dev.upSec -/

@[simp] theorem upSec_sec (d : Dev) (f : Sec → Sec) : (d.upSec f).sec = f d.sec := rfl
@[simp] theorem upSec_now (d : Dev) (f : Sec → Sec) : (d.upSec f).now = d.now := rfl
@[simp] theorem upSec_free (d : Dev) (f : Sec → Sec) : (d.upSec f).free = d.free := rfl
@[simp] theorem upSec_cat (d : Dev) (f : Sec → Sec) : (d.upSec f).cat = d.cat := rfl
@[simp] theorem upSec_mld (d : Dev) (f : Sec → Sec) : (d.upSec f).mld = d.mld := rfl
@[simp] theorem upSec_que (d : Dev) (f : Sec → Sec) : (d.upSec f).que = d.que := rfl
@[simp] theorem upSec_syn (d : Dev) (f : Sec → Sec) : (d.upSec f).syn = d.syn := rfl
@[simp] theorem upSec_evc (d : Dev) (f : Sec → Sec) : (d.upSec f).evc = d.evc := rfl
@[simp] theorem upSec_mem (d : Dev) (f : Sec → Sec) : (d.upSec f).mem = d.mem := rfl
@[simp] theorem upSec_ports (d : Dev) (f : Sec → Sec) : (d.upSec f).ports = d.ports := rfl
@[simp] theorem upSec_rte (d : Dev) (f : Sec → Sec) : (d.upSec f).rte = d.rte := rfl
@[simp] theorem upSec_ldl (d : Dev) (f : Sec → Sec) : (d.upSec f).ldl = d.ldl := rfl
@[simp] theorem upSec_hst (d : Dev) (f : Sec → Sec) : (d.upSec f).hst = d.hst := rfl
@[simp] theorem upSec_bind (d : Dev) (f : Sec → Sec) : (d.upSec f).bind = d.bind := rfl
@[simp] theorem upSec_pwr (d : Dev) (f : Sec → Sec) : (d.upSec f).pwr = d.pwr := rfl
@[simp] theorem upSec_thm (d : Dev) (f : Sec → Sec) : (d.upSec f).thm = d.thm := rfl
@[simp] theorem upSec_rst (d : Dev) (f : Sec → Sec) : (d.upSec f).rst = d.rst := rfl
@[simp] theorem upSec_flash (d : Dev) (f : Sec → Sec) : (d.upSec f).flash = d.flash := rfl
@[simp] theorem upSec_upd (d : Dev) (f : Sec → Sec) : (d.upSec f).upd = d.upd := rfl
@[simp] theorem upSec_mgmt (d : Dev) (f : Sec → Sec) : (d.upSec f).mgmt = d.mgmt := rfl
@[simp] theorem upSec_twin (d : Dev) (f : Sec → Sec) : (d.upSec f).twin = d.twin := rfl
@[simp] theorem upSec_acc (d : Dev) (f : Sec → Sec) : (d.upSec f).acc = d.acc := rfl
@[simp] theorem upSec_out (d : Dev) (f : Sec → Sec) : (d.upSec f).out = d.out := rfl

/-! ### Dev.upMgmt -/

@[simp] theorem upMgmt_mgmt (d : Dev) (f : Mgmt → Mgmt) : (d.upMgmt f).mgmt = f d.mgmt := rfl
@[simp] theorem upMgmt_now (d : Dev) (f : Mgmt → Mgmt) : (d.upMgmt f).now = d.now := rfl
@[simp] theorem upMgmt_free (d : Dev) (f : Mgmt → Mgmt) : (d.upMgmt f).free = d.free := rfl
@[simp] theorem upMgmt_cat (d : Dev) (f : Mgmt → Mgmt) : (d.upMgmt f).cat = d.cat := rfl
@[simp] theorem upMgmt_mld (d : Dev) (f : Mgmt → Mgmt) : (d.upMgmt f).mld = d.mld := rfl
@[simp] theorem upMgmt_que (d : Dev) (f : Mgmt → Mgmt) : (d.upMgmt f).que = d.que := rfl
@[simp] theorem upMgmt_syn (d : Dev) (f : Mgmt → Mgmt) : (d.upMgmt f).syn = d.syn := rfl
@[simp] theorem upMgmt_evc (d : Dev) (f : Mgmt → Mgmt) : (d.upMgmt f).evc = d.evc := rfl
@[simp] theorem upMgmt_mem (d : Dev) (f : Mgmt → Mgmt) : (d.upMgmt f).mem = d.mem := rfl
@[simp] theorem upMgmt_ports (d : Dev) (f : Mgmt → Mgmt) : (d.upMgmt f).ports = d.ports := rfl
@[simp] theorem upMgmt_rte (d : Dev) (f : Mgmt → Mgmt) : (d.upMgmt f).rte = d.rte := rfl
@[simp] theorem upMgmt_ldl (d : Dev) (f : Mgmt → Mgmt) : (d.upMgmt f).ldl = d.ldl := rfl
@[simp] theorem upMgmt_hst (d : Dev) (f : Mgmt → Mgmt) : (d.upMgmt f).hst = d.hst := rfl
@[simp] theorem upMgmt_bind (d : Dev) (f : Mgmt → Mgmt) : (d.upMgmt f).bind = d.bind := rfl
@[simp] theorem upMgmt_pwr (d : Dev) (f : Mgmt → Mgmt) : (d.upMgmt f).pwr = d.pwr := rfl
@[simp] theorem upMgmt_thm (d : Dev) (f : Mgmt → Mgmt) : (d.upMgmt f).thm = d.thm := rfl
@[simp] theorem upMgmt_rst (d : Dev) (f : Mgmt → Mgmt) : (d.upMgmt f).rst = d.rst := rfl
@[simp] theorem upMgmt_flash (d : Dev) (f : Mgmt → Mgmt) : (d.upMgmt f).flash = d.flash := rfl
@[simp] theorem upMgmt_upd (d : Dev) (f : Mgmt → Mgmt) : (d.upMgmt f).upd = d.upd := rfl
@[simp] theorem upMgmt_sec (d : Dev) (f : Mgmt → Mgmt) : (d.upMgmt f).sec = d.sec := rfl
@[simp] theorem upMgmt_twin (d : Dev) (f : Mgmt → Mgmt) : (d.upMgmt f).twin = d.twin := rfl
@[simp] theorem upMgmt_acc (d : Dev) (f : Mgmt → Mgmt) : (d.upMgmt f).acc = d.acc := rfl
@[simp] theorem upMgmt_out (d : Dev) (f : Mgmt → Mgmt) : (d.upMgmt f).out = d.out := rfl

/-! ### Dev.upTwin -/

@[simp] theorem upTwin_twin (d : Dev) (f : Twin → Twin) : (d.upTwin f).twin = f d.twin := rfl
@[simp] theorem upTwin_now (d : Dev) (f : Twin → Twin) : (d.upTwin f).now = d.now := rfl
@[simp] theorem upTwin_free (d : Dev) (f : Twin → Twin) : (d.upTwin f).free = d.free := rfl
@[simp] theorem upTwin_cat (d : Dev) (f : Twin → Twin) : (d.upTwin f).cat = d.cat := rfl
@[simp] theorem upTwin_mld (d : Dev) (f : Twin → Twin) : (d.upTwin f).mld = d.mld := rfl
@[simp] theorem upTwin_que (d : Dev) (f : Twin → Twin) : (d.upTwin f).que = d.que := rfl
@[simp] theorem upTwin_syn (d : Dev) (f : Twin → Twin) : (d.upTwin f).syn = d.syn := rfl
@[simp] theorem upTwin_evc (d : Dev) (f : Twin → Twin) : (d.upTwin f).evc = d.evc := rfl
@[simp] theorem upTwin_mem (d : Dev) (f : Twin → Twin) : (d.upTwin f).mem = d.mem := rfl
@[simp] theorem upTwin_ports (d : Dev) (f : Twin → Twin) : (d.upTwin f).ports = d.ports := rfl
@[simp] theorem upTwin_rte (d : Dev) (f : Twin → Twin) : (d.upTwin f).rte = d.rte := rfl
@[simp] theorem upTwin_ldl (d : Dev) (f : Twin → Twin) : (d.upTwin f).ldl = d.ldl := rfl
@[simp] theorem upTwin_hst (d : Dev) (f : Twin → Twin) : (d.upTwin f).hst = d.hst := rfl
@[simp] theorem upTwin_bind (d : Dev) (f : Twin → Twin) : (d.upTwin f).bind = d.bind := rfl
@[simp] theorem upTwin_pwr (d : Dev) (f : Twin → Twin) : (d.upTwin f).pwr = d.pwr := rfl
@[simp] theorem upTwin_thm (d : Dev) (f : Twin → Twin) : (d.upTwin f).thm = d.thm := rfl
@[simp] theorem upTwin_rst (d : Dev) (f : Twin → Twin) : (d.upTwin f).rst = d.rst := rfl
@[simp] theorem upTwin_flash (d : Dev) (f : Twin → Twin) : (d.upTwin f).flash = d.flash := rfl
@[simp] theorem upTwin_upd (d : Dev) (f : Twin → Twin) : (d.upTwin f).upd = d.upd := rfl
@[simp] theorem upTwin_sec (d : Dev) (f : Twin → Twin) : (d.upTwin f).sec = d.sec := rfl
@[simp] theorem upTwin_mgmt (d : Dev) (f : Twin → Twin) : (d.upTwin f).mgmt = d.mgmt := rfl
@[simp] theorem upTwin_acc (d : Dev) (f : Twin → Twin) : (d.upTwin f).acc = d.acc := rfl
@[simp] theorem upTwin_out (d : Dev) (f : Twin → Twin) : (d.upTwin f).out = d.out := rfl

/-! ### Dev.upSlot -/

@[simp] theorem upSlot_now (d : Dev) (k : Nat) (f : Slot → Slot) : (d.upSlot k f).now = d.now := rfl
@[simp] theorem upSlot_free (d : Dev) (k : Nat) (f : Slot → Slot) : (d.upSlot k f).free = d.free := rfl
@[simp] theorem upSlot_mld (d : Dev) (k : Nat) (f : Slot → Slot) : (d.upSlot k f).mld = d.mld := rfl
@[simp] theorem upSlot_que (d : Dev) (k : Nat) (f : Slot → Slot) : (d.upSlot k f).que = d.que := rfl
@[simp] theorem upSlot_syn (d : Dev) (k : Nat) (f : Slot → Slot) : (d.upSlot k f).syn = d.syn := rfl
@[simp] theorem upSlot_evc (d : Dev) (k : Nat) (f : Slot → Slot) : (d.upSlot k f).evc = d.evc := rfl
@[simp] theorem upSlot_mem (d : Dev) (k : Nat) (f : Slot → Slot) : (d.upSlot k f).mem = d.mem := rfl
@[simp] theorem upSlot_ports (d : Dev) (k : Nat) (f : Slot → Slot) : (d.upSlot k f).ports = d.ports := rfl
@[simp] theorem upSlot_rte (d : Dev) (k : Nat) (f : Slot → Slot) : (d.upSlot k f).rte = d.rte := rfl
@[simp] theorem upSlot_ldl (d : Dev) (k : Nat) (f : Slot → Slot) : (d.upSlot k f).ldl = d.ldl := rfl
@[simp] theorem upSlot_hst (d : Dev) (k : Nat) (f : Slot → Slot) : (d.upSlot k f).hst = d.hst := rfl
@[simp] theorem upSlot_bind (d : Dev) (k : Nat) (f : Slot → Slot) : (d.upSlot k f).bind = d.bind := rfl
@[simp] theorem upSlot_pwr (d : Dev) (k : Nat) (f : Slot → Slot) : (d.upSlot k f).pwr = d.pwr := rfl
@[simp] theorem upSlot_thm (d : Dev) (k : Nat) (f : Slot → Slot) : (d.upSlot k f).thm = d.thm := rfl
@[simp] theorem upSlot_rst (d : Dev) (k : Nat) (f : Slot → Slot) : (d.upSlot k f).rst = d.rst := rfl
@[simp] theorem upSlot_flash (d : Dev) (k : Nat) (f : Slot → Slot) : (d.upSlot k f).flash = d.flash := rfl
@[simp] theorem upSlot_upd (d : Dev) (k : Nat) (f : Slot → Slot) : (d.upSlot k f).upd = d.upd := rfl
@[simp] theorem upSlot_sec (d : Dev) (k : Nat) (f : Slot → Slot) : (d.upSlot k f).sec = d.sec := rfl
@[simp] theorem upSlot_mgmt (d : Dev) (k : Nat) (f : Slot → Slot) : (d.upSlot k f).mgmt = d.mgmt := rfl
@[simp] theorem upSlot_twin (d : Dev) (k : Nat) (f : Slot → Slot) : (d.upSlot k f).twin = d.twin := rfl
@[simp] theorem upSlot_acc (d : Dev) (k : Nat) (f : Slot → Slot) : (d.upSlot k f).acc = d.acc := rfl
@[simp] theorem upSlot_out (d : Dev) (k : Nat) (f : Slot → Slot) : (d.upSlot k f).out = d.out := rfl

/-! ### Dev.upPart -/

@[simp] theorem upPart_now (d : Dev) (k : Nat) (f : Part → Part) : (d.upPart k f).now = d.now := rfl
@[simp] theorem upPart_free (d : Dev) (k : Nat) (f : Part → Part) : (d.upPart k f).free = d.free := rfl
@[simp] theorem upPart_cat (d : Dev) (k : Nat) (f : Part → Part) : (d.upPart k f).cat = d.cat := rfl
@[simp] theorem upPart_que (d : Dev) (k : Nat) (f : Part → Part) : (d.upPart k f).que = d.que := rfl
@[simp] theorem upPart_syn (d : Dev) (k : Nat) (f : Part → Part) : (d.upPart k f).syn = d.syn := rfl
@[simp] theorem upPart_evc (d : Dev) (k : Nat) (f : Part → Part) : (d.upPart k f).evc = d.evc := rfl
@[simp] theorem upPart_mem (d : Dev) (k : Nat) (f : Part → Part) : (d.upPart k f).mem = d.mem := rfl
@[simp] theorem upPart_ports (d : Dev) (k : Nat) (f : Part → Part) : (d.upPart k f).ports = d.ports := rfl
@[simp] theorem upPart_rte (d : Dev) (k : Nat) (f : Part → Part) : (d.upPart k f).rte = d.rte := rfl
@[simp] theorem upPart_ldl (d : Dev) (k : Nat) (f : Part → Part) : (d.upPart k f).ldl = d.ldl := rfl
@[simp] theorem upPart_hst (d : Dev) (k : Nat) (f : Part → Part) : (d.upPart k f).hst = d.hst := rfl
@[simp] theorem upPart_bind (d : Dev) (k : Nat) (f : Part → Part) : (d.upPart k f).bind = d.bind := rfl
@[simp] theorem upPart_pwr (d : Dev) (k : Nat) (f : Part → Part) : (d.upPart k f).pwr = d.pwr := rfl
@[simp] theorem upPart_thm (d : Dev) (k : Nat) (f : Part → Part) : (d.upPart k f).thm = d.thm := rfl
@[simp] theorem upPart_rst (d : Dev) (k : Nat) (f : Part → Part) : (d.upPart k f).rst = d.rst := rfl
@[simp] theorem upPart_flash (d : Dev) (k : Nat) (f : Part → Part) : (d.upPart k f).flash = d.flash := rfl
@[simp] theorem upPart_upd (d : Dev) (k : Nat) (f : Part → Part) : (d.upPart k f).upd = d.upd := rfl
@[simp] theorem upPart_sec (d : Dev) (k : Nat) (f : Part → Part) : (d.upPart k f).sec = d.sec := rfl
@[simp] theorem upPart_mgmt (d : Dev) (k : Nat) (f : Part → Part) : (d.upPart k f).mgmt = d.mgmt := rfl
@[simp] theorem upPart_twin (d : Dev) (k : Nat) (f : Part → Part) : (d.upPart k f).twin = d.twin := rfl
@[simp] theorem upPart_acc (d : Dev) (k : Nat) (f : Part → Part) : (d.upPart k f).acc = d.acc := rfl
@[simp] theorem upPart_out (d : Dev) (k : Nat) (f : Part → Part) : (d.upPart k f).out = d.out := rfl

/-! ### Dev.upQueue -/

@[simp] theorem upQueue_now (d : Dev) (k : Nat) (f : Queue → Queue) : (d.upQueue k f).now = d.now := rfl
@[simp] theorem upQueue_free (d : Dev) (k : Nat) (f : Queue → Queue) : (d.upQueue k f).free = d.free := rfl
@[simp] theorem upQueue_cat (d : Dev) (k : Nat) (f : Queue → Queue) : (d.upQueue k f).cat = d.cat := rfl
@[simp] theorem upQueue_mld (d : Dev) (k : Nat) (f : Queue → Queue) : (d.upQueue k f).mld = d.mld := rfl
@[simp] theorem upQueue_syn (d : Dev) (k : Nat) (f : Queue → Queue) : (d.upQueue k f).syn = d.syn := rfl
@[simp] theorem upQueue_evc (d : Dev) (k : Nat) (f : Queue → Queue) : (d.upQueue k f).evc = d.evc := rfl
@[simp] theorem upQueue_mem (d : Dev) (k : Nat) (f : Queue → Queue) : (d.upQueue k f).mem = d.mem := rfl
@[simp] theorem upQueue_ports (d : Dev) (k : Nat) (f : Queue → Queue) : (d.upQueue k f).ports = d.ports := rfl
@[simp] theorem upQueue_rte (d : Dev) (k : Nat) (f : Queue → Queue) : (d.upQueue k f).rte = d.rte := rfl
@[simp] theorem upQueue_ldl (d : Dev) (k : Nat) (f : Queue → Queue) : (d.upQueue k f).ldl = d.ldl := rfl
@[simp] theorem upQueue_hst (d : Dev) (k : Nat) (f : Queue → Queue) : (d.upQueue k f).hst = d.hst := rfl
@[simp] theorem upQueue_bind (d : Dev) (k : Nat) (f : Queue → Queue) : (d.upQueue k f).bind = d.bind := rfl
@[simp] theorem upQueue_pwr (d : Dev) (k : Nat) (f : Queue → Queue) : (d.upQueue k f).pwr = d.pwr := rfl
@[simp] theorem upQueue_thm (d : Dev) (k : Nat) (f : Queue → Queue) : (d.upQueue k f).thm = d.thm := rfl
@[simp] theorem upQueue_rst (d : Dev) (k : Nat) (f : Queue → Queue) : (d.upQueue k f).rst = d.rst := rfl
@[simp] theorem upQueue_flash (d : Dev) (k : Nat) (f : Queue → Queue) : (d.upQueue k f).flash = d.flash := rfl
@[simp] theorem upQueue_upd (d : Dev) (k : Nat) (f : Queue → Queue) : (d.upQueue k f).upd = d.upd := rfl
@[simp] theorem upQueue_sec (d : Dev) (k : Nat) (f : Queue → Queue) : (d.upQueue k f).sec = d.sec := rfl
@[simp] theorem upQueue_mgmt (d : Dev) (k : Nat) (f : Queue → Queue) : (d.upQueue k f).mgmt = d.mgmt := rfl
@[simp] theorem upQueue_twin (d : Dev) (k : Nat) (f : Queue → Queue) : (d.upQueue k f).twin = d.twin := rfl
@[simp] theorem upQueue_acc (d : Dev) (k : Nat) (f : Queue → Queue) : (d.upQueue k f).acc = d.acc := rfl
@[simp] theorem upQueue_out (d : Dev) (k : Nat) (f : Queue → Queue) : (d.upQueue k f).out = d.out := rfl

/-! ### Dev.upCounter -/

@[simp] theorem upCounter_now (d : Dev) (k : Nat) (f : Counter → Counter) : (d.upCounter k f).now = d.now := rfl
@[simp] theorem upCounter_free (d : Dev) (k : Nat) (f : Counter → Counter) : (d.upCounter k f).free = d.free := rfl
@[simp] theorem upCounter_cat (d : Dev) (k : Nat) (f : Counter → Counter) : (d.upCounter k f).cat = d.cat := rfl
@[simp] theorem upCounter_mld (d : Dev) (k : Nat) (f : Counter → Counter) : (d.upCounter k f).mld = d.mld := rfl
@[simp] theorem upCounter_que (d : Dev) (k : Nat) (f : Counter → Counter) : (d.upCounter k f).que = d.que := rfl
@[simp] theorem upCounter_evc (d : Dev) (k : Nat) (f : Counter → Counter) : (d.upCounter k f).evc = d.evc := rfl
@[simp] theorem upCounter_mem (d : Dev) (k : Nat) (f : Counter → Counter) : (d.upCounter k f).mem = d.mem := rfl
@[simp] theorem upCounter_ports (d : Dev) (k : Nat) (f : Counter → Counter) : (d.upCounter k f).ports = d.ports := rfl
@[simp] theorem upCounter_rte (d : Dev) (k : Nat) (f : Counter → Counter) : (d.upCounter k f).rte = d.rte := rfl
@[simp] theorem upCounter_ldl (d : Dev) (k : Nat) (f : Counter → Counter) : (d.upCounter k f).ldl = d.ldl := rfl
@[simp] theorem upCounter_hst (d : Dev) (k : Nat) (f : Counter → Counter) : (d.upCounter k f).hst = d.hst := rfl
@[simp] theorem upCounter_bind (d : Dev) (k : Nat) (f : Counter → Counter) : (d.upCounter k f).bind = d.bind := rfl
@[simp] theorem upCounter_pwr (d : Dev) (k : Nat) (f : Counter → Counter) : (d.upCounter k f).pwr = d.pwr := rfl
@[simp] theorem upCounter_thm (d : Dev) (k : Nat) (f : Counter → Counter) : (d.upCounter k f).thm = d.thm := rfl
@[simp] theorem upCounter_rst (d : Dev) (k : Nat) (f : Counter → Counter) : (d.upCounter k f).rst = d.rst := rfl
@[simp] theorem upCounter_flash (d : Dev) (k : Nat) (f : Counter → Counter) : (d.upCounter k f).flash = d.flash := rfl
@[simp] theorem upCounter_upd (d : Dev) (k : Nat) (f : Counter → Counter) : (d.upCounter k f).upd = d.upd := rfl
@[simp] theorem upCounter_sec (d : Dev) (k : Nat) (f : Counter → Counter) : (d.upCounter k f).sec = d.sec := rfl
@[simp] theorem upCounter_mgmt (d : Dev) (k : Nat) (f : Counter → Counter) : (d.upCounter k f).mgmt = d.mgmt := rfl
@[simp] theorem upCounter_twin (d : Dev) (k : Nat) (f : Counter → Counter) : (d.upCounter k f).twin = d.twin := rfl
@[simp] theorem upCounter_acc (d : Dev) (k : Nat) (f : Counter → Counter) : (d.upCounter k f).acc = d.acc := rfl
@[simp] theorem upCounter_out (d : Dev) (k : Nat) (f : Counter → Counter) : (d.upCounter k f).out = d.out := rfl

/-! ### Dev.upSrc -/

@[simp] theorem upSrc_now (d : Dev) (k : Nat) (f : Src → Src) : (d.upSrc k f).now = d.now := rfl
@[simp] theorem upSrc_free (d : Dev) (k : Nat) (f : Src → Src) : (d.upSrc k f).free = d.free := rfl
@[simp] theorem upSrc_cat (d : Dev) (k : Nat) (f : Src → Src) : (d.upSrc k f).cat = d.cat := rfl
@[simp] theorem upSrc_mld (d : Dev) (k : Nat) (f : Src → Src) : (d.upSrc k f).mld = d.mld := rfl
@[simp] theorem upSrc_que (d : Dev) (k : Nat) (f : Src → Src) : (d.upSrc k f).que = d.que := rfl
@[simp] theorem upSrc_syn (d : Dev) (k : Nat) (f : Src → Src) : (d.upSrc k f).syn = d.syn := rfl
@[simp] theorem upSrc_mem (d : Dev) (k : Nat) (f : Src → Src) : (d.upSrc k f).mem = d.mem := rfl
@[simp] theorem upSrc_ports (d : Dev) (k : Nat) (f : Src → Src) : (d.upSrc k f).ports = d.ports := rfl
@[simp] theorem upSrc_rte (d : Dev) (k : Nat) (f : Src → Src) : (d.upSrc k f).rte = d.rte := rfl
@[simp] theorem upSrc_ldl (d : Dev) (k : Nat) (f : Src → Src) : (d.upSrc k f).ldl = d.ldl := rfl
@[simp] theorem upSrc_hst (d : Dev) (k : Nat) (f : Src → Src) : (d.upSrc k f).hst = d.hst := rfl
@[simp] theorem upSrc_bind (d : Dev) (k : Nat) (f : Src → Src) : (d.upSrc k f).bind = d.bind := rfl
@[simp] theorem upSrc_pwr (d : Dev) (k : Nat) (f : Src → Src) : (d.upSrc k f).pwr = d.pwr := rfl
@[simp] theorem upSrc_thm (d : Dev) (k : Nat) (f : Src → Src) : (d.upSrc k f).thm = d.thm := rfl
@[simp] theorem upSrc_rst (d : Dev) (k : Nat) (f : Src → Src) : (d.upSrc k f).rst = d.rst := rfl
@[simp] theorem upSrc_flash (d : Dev) (k : Nat) (f : Src → Src) : (d.upSrc k f).flash = d.flash := rfl
@[simp] theorem upSrc_upd (d : Dev) (k : Nat) (f : Src → Src) : (d.upSrc k f).upd = d.upd := rfl
@[simp] theorem upSrc_sec (d : Dev) (k : Nat) (f : Src → Src) : (d.upSrc k f).sec = d.sec := rfl
@[simp] theorem upSrc_mgmt (d : Dev) (k : Nat) (f : Src → Src) : (d.upSrc k f).mgmt = d.mgmt := rfl
@[simp] theorem upSrc_twin (d : Dev) (k : Nat) (f : Src → Src) : (d.upSrc k f).twin = d.twin := rfl
@[simp] theorem upSrc_acc (d : Dev) (k : Nat) (f : Src → Src) : (d.upSrc k f).acc = d.acc := rfl
@[simp] theorem upSrc_out (d : Dev) (k : Nat) (f : Src → Src) : (d.upSrc k f).out = d.out := rfl

/-! ### Dev.upGroup -/

@[simp] theorem upGroup_now (d : Dev) (k : Nat) (f : EvGroup → EvGroup) : (d.upGroup k f).now = d.now := rfl
@[simp] theorem upGroup_free (d : Dev) (k : Nat) (f : EvGroup → EvGroup) : (d.upGroup k f).free = d.free := rfl
@[simp] theorem upGroup_cat (d : Dev) (k : Nat) (f : EvGroup → EvGroup) : (d.upGroup k f).cat = d.cat := rfl
@[simp] theorem upGroup_mld (d : Dev) (k : Nat) (f : EvGroup → EvGroup) : (d.upGroup k f).mld = d.mld := rfl
@[simp] theorem upGroup_que (d : Dev) (k : Nat) (f : EvGroup → EvGroup) : (d.upGroup k f).que = d.que := rfl
@[simp] theorem upGroup_syn (d : Dev) (k : Nat) (f : EvGroup → EvGroup) : (d.upGroup k f).syn = d.syn := rfl
@[simp] theorem upGroup_mem (d : Dev) (k : Nat) (f : EvGroup → EvGroup) : (d.upGroup k f).mem = d.mem := rfl
@[simp] theorem upGroup_ports (d : Dev) (k : Nat) (f : EvGroup → EvGroup) : (d.upGroup k f).ports = d.ports := rfl
@[simp] theorem upGroup_rte (d : Dev) (k : Nat) (f : EvGroup → EvGroup) : (d.upGroup k f).rte = d.rte := rfl
@[simp] theorem upGroup_ldl (d : Dev) (k : Nat) (f : EvGroup → EvGroup) : (d.upGroup k f).ldl = d.ldl := rfl
@[simp] theorem upGroup_hst (d : Dev) (k : Nat) (f : EvGroup → EvGroup) : (d.upGroup k f).hst = d.hst := rfl
@[simp] theorem upGroup_bind (d : Dev) (k : Nat) (f : EvGroup → EvGroup) : (d.upGroup k f).bind = d.bind := rfl
@[simp] theorem upGroup_pwr (d : Dev) (k : Nat) (f : EvGroup → EvGroup) : (d.upGroup k f).pwr = d.pwr := rfl
@[simp] theorem upGroup_thm (d : Dev) (k : Nat) (f : EvGroup → EvGroup) : (d.upGroup k f).thm = d.thm := rfl
@[simp] theorem upGroup_rst (d : Dev) (k : Nat) (f : EvGroup → EvGroup) : (d.upGroup k f).rst = d.rst := rfl
@[simp] theorem upGroup_flash (d : Dev) (k : Nat) (f : EvGroup → EvGroup) : (d.upGroup k f).flash = d.flash := rfl
@[simp] theorem upGroup_upd (d : Dev) (k : Nat) (f : EvGroup → EvGroup) : (d.upGroup k f).upd = d.upd := rfl
@[simp] theorem upGroup_sec (d : Dev) (k : Nat) (f : EvGroup → EvGroup) : (d.upGroup k f).sec = d.sec := rfl
@[simp] theorem upGroup_mgmt (d : Dev) (k : Nat) (f : EvGroup → EvGroup) : (d.upGroup k f).mgmt = d.mgmt := rfl
@[simp] theorem upGroup_twin (d : Dev) (k : Nat) (f : EvGroup → EvGroup) : (d.upGroup k f).twin = d.twin := rfl
@[simp] theorem upGroup_acc (d : Dev) (k : Nat) (f : EvGroup → EvGroup) : (d.upGroup k f).acc = d.acc := rfl
@[simp] theorem upGroup_out (d : Dev) (k : Nat) (f : EvGroup → EvGroup) : (d.upGroup k f).out = d.out := rfl

/-! ### Dev.upStack -/

@[simp] theorem upStack_now (d : Dev) (k : Nat) (f : Stack → Stack) : (d.upStack k f).now = d.now := rfl
@[simp] theorem upStack_free (d : Dev) (k : Nat) (f : Stack → Stack) : (d.upStack k f).free = d.free := rfl
@[simp] theorem upStack_cat (d : Dev) (k : Nat) (f : Stack → Stack) : (d.upStack k f).cat = d.cat := rfl
@[simp] theorem upStack_mld (d : Dev) (k : Nat) (f : Stack → Stack) : (d.upStack k f).mld = d.mld := rfl
@[simp] theorem upStack_que (d : Dev) (k : Nat) (f : Stack → Stack) : (d.upStack k f).que = d.que := rfl
@[simp] theorem upStack_syn (d : Dev) (k : Nat) (f : Stack → Stack) : (d.upStack k f).syn = d.syn := rfl
@[simp] theorem upStack_evc (d : Dev) (k : Nat) (f : Stack → Stack) : (d.upStack k f).evc = d.evc := rfl
@[simp] theorem upStack_ports (d : Dev) (k : Nat) (f : Stack → Stack) : (d.upStack k f).ports = d.ports := rfl
@[simp] theorem upStack_rte (d : Dev) (k : Nat) (f : Stack → Stack) : (d.upStack k f).rte = d.rte := rfl
@[simp] theorem upStack_ldl (d : Dev) (k : Nat) (f : Stack → Stack) : (d.upStack k f).ldl = d.ldl := rfl
@[simp] theorem upStack_hst (d : Dev) (k : Nat) (f : Stack → Stack) : (d.upStack k f).hst = d.hst := rfl
@[simp] theorem upStack_bind (d : Dev) (k : Nat) (f : Stack → Stack) : (d.upStack k f).bind = d.bind := rfl
@[simp] theorem upStack_pwr (d : Dev) (k : Nat) (f : Stack → Stack) : (d.upStack k f).pwr = d.pwr := rfl
@[simp] theorem upStack_thm (d : Dev) (k : Nat) (f : Stack → Stack) : (d.upStack k f).thm = d.thm := rfl
@[simp] theorem upStack_rst (d : Dev) (k : Nat) (f : Stack → Stack) : (d.upStack k f).rst = d.rst := rfl
@[simp] theorem upStack_flash (d : Dev) (k : Nat) (f : Stack → Stack) : (d.upStack k f).flash = d.flash := rfl
@[simp] theorem upStack_upd (d : Dev) (k : Nat) (f : Stack → Stack) : (d.upStack k f).upd = d.upd := rfl
@[simp] theorem upStack_sec (d : Dev) (k : Nat) (f : Stack → Stack) : (d.upStack k f).sec = d.sec := rfl
@[simp] theorem upStack_mgmt (d : Dev) (k : Nat) (f : Stack → Stack) : (d.upStack k f).mgmt = d.mgmt := rfl
@[simp] theorem upStack_twin (d : Dev) (k : Nat) (f : Stack → Stack) : (d.upStack k f).twin = d.twin := rfl
@[simp] theorem upStack_acc (d : Dev) (k : Nat) (f : Stack → Stack) : (d.upStack k f).acc = d.acc := rfl
@[simp] theorem upStack_out (d : Dev) (k : Nat) (f : Stack → Stack) : (d.upStack k f).out = d.out := rfl

/-! ### Dev.upPort -/

@[simp] theorem upPort_now (d : Dev) (k : Nat) (f : Port → Port) : (d.upPort k f).now = d.now := rfl
@[simp] theorem upPort_free (d : Dev) (k : Nat) (f : Port → Port) : (d.upPort k f).free = d.free := rfl
@[simp] theorem upPort_cat (d : Dev) (k : Nat) (f : Port → Port) : (d.upPort k f).cat = d.cat := rfl
@[simp] theorem upPort_mld (d : Dev) (k : Nat) (f : Port → Port) : (d.upPort k f).mld = d.mld := rfl
@[simp] theorem upPort_que (d : Dev) (k : Nat) (f : Port → Port) : (d.upPort k f).que = d.que := rfl
@[simp] theorem upPort_syn (d : Dev) (k : Nat) (f : Port → Port) : (d.upPort k f).syn = d.syn := rfl
@[simp] theorem upPort_evc (d : Dev) (k : Nat) (f : Port → Port) : (d.upPort k f).evc = d.evc := rfl
@[simp] theorem upPort_mem (d : Dev) (k : Nat) (f : Port → Port) : (d.upPort k f).mem = d.mem := rfl
@[simp] theorem upPort_rte (d : Dev) (k : Nat) (f : Port → Port) : (d.upPort k f).rte = d.rte := rfl
@[simp] theorem upPort_ldl (d : Dev) (k : Nat) (f : Port → Port) : (d.upPort k f).ldl = d.ldl := rfl
@[simp] theorem upPort_hst (d : Dev) (k : Nat) (f : Port → Port) : (d.upPort k f).hst = d.hst := rfl
@[simp] theorem upPort_bind (d : Dev) (k : Nat) (f : Port → Port) : (d.upPort k f).bind = d.bind := rfl
@[simp] theorem upPort_pwr (d : Dev) (k : Nat) (f : Port → Port) : (d.upPort k f).pwr = d.pwr := rfl
@[simp] theorem upPort_thm (d : Dev) (k : Nat) (f : Port → Port) : (d.upPort k f).thm = d.thm := rfl
@[simp] theorem upPort_rst (d : Dev) (k : Nat) (f : Port → Port) : (d.upPort k f).rst = d.rst := rfl
@[simp] theorem upPort_flash (d : Dev) (k : Nat) (f : Port → Port) : (d.upPort k f).flash = d.flash := rfl
@[simp] theorem upPort_upd (d : Dev) (k : Nat) (f : Port → Port) : (d.upPort k f).upd = d.upd := rfl
@[simp] theorem upPort_sec (d : Dev) (k : Nat) (f : Port → Port) : (d.upPort k f).sec = d.sec := rfl
@[simp] theorem upPort_mgmt (d : Dev) (k : Nat) (f : Port → Port) : (d.upPort k f).mgmt = d.mgmt := rfl
@[simp] theorem upPort_twin (d : Dev) (k : Nat) (f : Port → Port) : (d.upPort k f).twin = d.twin := rfl
@[simp] theorem upPort_acc (d : Dev) (k : Nat) (f : Port → Port) : (d.upPort k f).acc = d.acc := rfl
@[simp] theorem upPort_out (d : Dev) (k : Nat) (f : Port → Port) : (d.upPort k f).out = d.out := rfl

/-! ### Dev.upHPort -/

@[simp] theorem upHPort_now (d : Dev) (k : Nat) (f : HPort → HPort) : (d.upHPort k f).now = d.now := rfl
@[simp] theorem upHPort_free (d : Dev) (k : Nat) (f : HPort → HPort) : (d.upHPort k f).free = d.free := rfl
@[simp] theorem upHPort_cat (d : Dev) (k : Nat) (f : HPort → HPort) : (d.upHPort k f).cat = d.cat := rfl
@[simp] theorem upHPort_mld (d : Dev) (k : Nat) (f : HPort → HPort) : (d.upHPort k f).mld = d.mld := rfl
@[simp] theorem upHPort_que (d : Dev) (k : Nat) (f : HPort → HPort) : (d.upHPort k f).que = d.que := rfl
@[simp] theorem upHPort_syn (d : Dev) (k : Nat) (f : HPort → HPort) : (d.upHPort k f).syn = d.syn := rfl
@[simp] theorem upHPort_evc (d : Dev) (k : Nat) (f : HPort → HPort) : (d.upHPort k f).evc = d.evc := rfl
@[simp] theorem upHPort_mem (d : Dev) (k : Nat) (f : HPort → HPort) : (d.upHPort k f).mem = d.mem := rfl
@[simp] theorem upHPort_ports (d : Dev) (k : Nat) (f : HPort → HPort) : (d.upHPort k f).ports = d.ports := rfl
@[simp] theorem upHPort_rte (d : Dev) (k : Nat) (f : HPort → HPort) : (d.upHPort k f).rte = d.rte := rfl
@[simp] theorem upHPort_ldl (d : Dev) (k : Nat) (f : HPort → HPort) : (d.upHPort k f).ldl = d.ldl := rfl
@[simp] theorem upHPort_bind (d : Dev) (k : Nat) (f : HPort → HPort) : (d.upHPort k f).bind = d.bind := rfl
@[simp] theorem upHPort_pwr (d : Dev) (k : Nat) (f : HPort → HPort) : (d.upHPort k f).pwr = d.pwr := rfl
@[simp] theorem upHPort_thm (d : Dev) (k : Nat) (f : HPort → HPort) : (d.upHPort k f).thm = d.thm := rfl
@[simp] theorem upHPort_rst (d : Dev) (k : Nat) (f : HPort → HPort) : (d.upHPort k f).rst = d.rst := rfl
@[simp] theorem upHPort_flash (d : Dev) (k : Nat) (f : HPort → HPort) : (d.upHPort k f).flash = d.flash := rfl
@[simp] theorem upHPort_upd (d : Dev) (k : Nat) (f : HPort → HPort) : (d.upHPort k f).upd = d.upd := rfl
@[simp] theorem upHPort_sec (d : Dev) (k : Nat) (f : HPort → HPort) : (d.upHPort k f).sec = d.sec := rfl
@[simp] theorem upHPort_mgmt (d : Dev) (k : Nat) (f : HPort → HPort) : (d.upHPort k f).mgmt = d.mgmt := rfl
@[simp] theorem upHPort_twin (d : Dev) (k : Nat) (f : HPort → HPort) : (d.upHPort k f).twin = d.twin := rfl
@[simp] theorem upHPort_acc (d : Dev) (k : Nat) (f : HPort → HPort) : (d.upHPort k f).acc = d.acc := rfl
@[simp] theorem upHPort_out (d : Dev) (k : Nat) (f : HPort → HPort) : (d.upHPort k f).out = d.out := rfl

/-! ### Dev.upQp -/

@[simp] theorem upQp_now (d : Dev) (k : Nat) (f : Qp → Qp) : (d.upQp k f).now = d.now := rfl
@[simp] theorem upQp_free (d : Dev) (k : Nat) (f : Qp → Qp) : (d.upQp k f).free = d.free := rfl
@[simp] theorem upQp_cat (d : Dev) (k : Nat) (f : Qp → Qp) : (d.upQp k f).cat = d.cat := rfl
@[simp] theorem upQp_mld (d : Dev) (k : Nat) (f : Qp → Qp) : (d.upQp k f).mld = d.mld := rfl
@[simp] theorem upQp_que (d : Dev) (k : Nat) (f : Qp → Qp) : (d.upQp k f).que = d.que := rfl
@[simp] theorem upQp_syn (d : Dev) (k : Nat) (f : Qp → Qp) : (d.upQp k f).syn = d.syn := rfl
@[simp] theorem upQp_evc (d : Dev) (k : Nat) (f : Qp → Qp) : (d.upQp k f).evc = d.evc := rfl
@[simp] theorem upQp_mem (d : Dev) (k : Nat) (f : Qp → Qp) : (d.upQp k f).mem = d.mem := rfl
@[simp] theorem upQp_ports (d : Dev) (k : Nat) (f : Qp → Qp) : (d.upQp k f).ports = d.ports := rfl
@[simp] theorem upQp_rte (d : Dev) (k : Nat) (f : Qp → Qp) : (d.upQp k f).rte = d.rte := rfl
@[simp] theorem upQp_ldl (d : Dev) (k : Nat) (f : Qp → Qp) : (d.upQp k f).ldl = d.ldl := rfl
@[simp] theorem upQp_bind (d : Dev) (k : Nat) (f : Qp → Qp) : (d.upQp k f).bind = d.bind := rfl
@[simp] theorem upQp_pwr (d : Dev) (k : Nat) (f : Qp → Qp) : (d.upQp k f).pwr = d.pwr := rfl
@[simp] theorem upQp_thm (d : Dev) (k : Nat) (f : Qp → Qp) : (d.upQp k f).thm = d.thm := rfl
@[simp] theorem upQp_rst (d : Dev) (k : Nat) (f : Qp → Qp) : (d.upQp k f).rst = d.rst := rfl
@[simp] theorem upQp_flash (d : Dev) (k : Nat) (f : Qp → Qp) : (d.upQp k f).flash = d.flash := rfl
@[simp] theorem upQp_upd (d : Dev) (k : Nat) (f : Qp → Qp) : (d.upQp k f).upd = d.upd := rfl
@[simp] theorem upQp_sec (d : Dev) (k : Nat) (f : Qp → Qp) : (d.upQp k f).sec = d.sec := rfl
@[simp] theorem upQp_mgmt (d : Dev) (k : Nat) (f : Qp → Qp) : (d.upQp k f).mgmt = d.mgmt := rfl
@[simp] theorem upQp_twin (d : Dev) (k : Nat) (f : Qp → Qp) : (d.upQp k f).twin = d.twin := rfl
@[simp] theorem upQp_acc (d : Dev) (k : Nat) (f : Qp → Qp) : (d.upQp k f).acc = d.acc := rfl
@[simp] theorem upQp_out (d : Dev) (k : Nat) (f : Qp → Qp) : (d.upQp k f).out = d.out := rfl

/-! ### Dev.upEvq -/

@[simp] theorem upEvq_now (d : Dev) (k : Nat) (f : Evq → Evq) : (d.upEvq k f).now = d.now := rfl
@[simp] theorem upEvq_free (d : Dev) (k : Nat) (f : Evq → Evq) : (d.upEvq k f).free = d.free := rfl
@[simp] theorem upEvq_cat (d : Dev) (k : Nat) (f : Evq → Evq) : (d.upEvq k f).cat = d.cat := rfl
@[simp] theorem upEvq_mld (d : Dev) (k : Nat) (f : Evq → Evq) : (d.upEvq k f).mld = d.mld := rfl
@[simp] theorem upEvq_que (d : Dev) (k : Nat) (f : Evq → Evq) : (d.upEvq k f).que = d.que := rfl
@[simp] theorem upEvq_syn (d : Dev) (k : Nat) (f : Evq → Evq) : (d.upEvq k f).syn = d.syn := rfl
@[simp] theorem upEvq_evc (d : Dev) (k : Nat) (f : Evq → Evq) : (d.upEvq k f).evc = d.evc := rfl
@[simp] theorem upEvq_mem (d : Dev) (k : Nat) (f : Evq → Evq) : (d.upEvq k f).mem = d.mem := rfl
@[simp] theorem upEvq_ports (d : Dev) (k : Nat) (f : Evq → Evq) : (d.upEvq k f).ports = d.ports := rfl
@[simp] theorem upEvq_rte (d : Dev) (k : Nat) (f : Evq → Evq) : (d.upEvq k f).rte = d.rte := rfl
@[simp] theorem upEvq_ldl (d : Dev) (k : Nat) (f : Evq → Evq) : (d.upEvq k f).ldl = d.ldl := rfl
@[simp] theorem upEvq_bind (d : Dev) (k : Nat) (f : Evq → Evq) : (d.upEvq k f).bind = d.bind := rfl
@[simp] theorem upEvq_pwr (d : Dev) (k : Nat) (f : Evq → Evq) : (d.upEvq k f).pwr = d.pwr := rfl
@[simp] theorem upEvq_thm (d : Dev) (k : Nat) (f : Evq → Evq) : (d.upEvq k f).thm = d.thm := rfl
@[simp] theorem upEvq_rst (d : Dev) (k : Nat) (f : Evq → Evq) : (d.upEvq k f).rst = d.rst := rfl
@[simp] theorem upEvq_flash (d : Dev) (k : Nat) (f : Evq → Evq) : (d.upEvq k f).flash = d.flash := rfl
@[simp] theorem upEvq_upd (d : Dev) (k : Nat) (f : Evq → Evq) : (d.upEvq k f).upd = d.upd := rfl
@[simp] theorem upEvq_sec (d : Dev) (k : Nat) (f : Evq → Evq) : (d.upEvq k f).sec = d.sec := rfl
@[simp] theorem upEvq_mgmt (d : Dev) (k : Nat) (f : Evq → Evq) : (d.upEvq k f).mgmt = d.mgmt := rfl
@[simp] theorem upEvq_twin (d : Dev) (k : Nat) (f : Evq → Evq) : (d.upEvq k f).twin = d.twin := rfl
@[simp] theorem upEvq_acc (d : Dev) (k : Nat) (f : Evq → Evq) : (d.upEvq k f).acc = d.acc := rfl
@[simp] theorem upEvq_out (d : Dev) (k : Nat) (f : Evq → Evq) : (d.upEvq k f).out = d.out := rfl

/-! ### Dev.upPlan -/

@[simp] theorem upPlan_now (d : Dev) (k : Nat) (f : Plan → Plan) : (d.upPlan k f).now = d.now := rfl
@[simp] theorem upPlan_free (d : Dev) (k : Nat) (f : Plan → Plan) : (d.upPlan k f).free = d.free := rfl
@[simp] theorem upPlan_cat (d : Dev) (k : Nat) (f : Plan → Plan) : (d.upPlan k f).cat = d.cat := rfl
@[simp] theorem upPlan_mld (d : Dev) (k : Nat) (f : Plan → Plan) : (d.upPlan k f).mld = d.mld := rfl
@[simp] theorem upPlan_que (d : Dev) (k : Nat) (f : Plan → Plan) : (d.upPlan k f).que = d.que := rfl
@[simp] theorem upPlan_syn (d : Dev) (k : Nat) (f : Plan → Plan) : (d.upPlan k f).syn = d.syn := rfl
@[simp] theorem upPlan_evc (d : Dev) (k : Nat) (f : Plan → Plan) : (d.upPlan k f).evc = d.evc := rfl
@[simp] theorem upPlan_mem (d : Dev) (k : Nat) (f : Plan → Plan) : (d.upPlan k f).mem = d.mem := rfl
@[simp] theorem upPlan_ports (d : Dev) (k : Nat) (f : Plan → Plan) : (d.upPlan k f).ports = d.ports := rfl
@[simp] theorem upPlan_rte (d : Dev) (k : Nat) (f : Plan → Plan) : (d.upPlan k f).rte = d.rte := rfl
@[simp] theorem upPlan_hst (d : Dev) (k : Nat) (f : Plan → Plan) : (d.upPlan k f).hst = d.hst := rfl
@[simp] theorem upPlan_bind (d : Dev) (k : Nat) (f : Plan → Plan) : (d.upPlan k f).bind = d.bind := rfl
@[simp] theorem upPlan_pwr (d : Dev) (k : Nat) (f : Plan → Plan) : (d.upPlan k f).pwr = d.pwr := rfl
@[simp] theorem upPlan_thm (d : Dev) (k : Nat) (f : Plan → Plan) : (d.upPlan k f).thm = d.thm := rfl
@[simp] theorem upPlan_rst (d : Dev) (k : Nat) (f : Plan → Plan) : (d.upPlan k f).rst = d.rst := rfl
@[simp] theorem upPlan_flash (d : Dev) (k : Nat) (f : Plan → Plan) : (d.upPlan k f).flash = d.flash := rfl
@[simp] theorem upPlan_upd (d : Dev) (k : Nat) (f : Plan → Plan) : (d.upPlan k f).upd = d.upd := rfl
@[simp] theorem upPlan_sec (d : Dev) (k : Nat) (f : Plan → Plan) : (d.upPlan k f).sec = d.sec := rfl
@[simp] theorem upPlan_mgmt (d : Dev) (k : Nat) (f : Plan → Plan) : (d.upPlan k f).mgmt = d.mgmt := rfl
@[simp] theorem upPlan_twin (d : Dev) (k : Nat) (f : Plan → Plan) : (d.upPlan k f).twin = d.twin := rfl
@[simp] theorem upPlan_acc (d : Dev) (k : Nat) (f : Plan → Plan) : (d.upPlan k f).acc = d.acc := rfl
@[simp] theorem upPlan_out (d : Dev) (k : Nat) (f : Plan → Plan) : (d.upPlan k f).out = d.out := rfl

/-! ### Dev.upPQuad -/

@[simp] theorem upPQuad_now (d : Dev) (k : Nat) (f : PQuad → PQuad) : (d.upPQuad k f).now = d.now := rfl
@[simp] theorem upPQuad_free (d : Dev) (k : Nat) (f : PQuad → PQuad) : (d.upPQuad k f).free = d.free := rfl
@[simp] theorem upPQuad_cat (d : Dev) (k : Nat) (f : PQuad → PQuad) : (d.upPQuad k f).cat = d.cat := rfl
@[simp] theorem upPQuad_mld (d : Dev) (k : Nat) (f : PQuad → PQuad) : (d.upPQuad k f).mld = d.mld := rfl
@[simp] theorem upPQuad_que (d : Dev) (k : Nat) (f : PQuad → PQuad) : (d.upPQuad k f).que = d.que := rfl
@[simp] theorem upPQuad_syn (d : Dev) (k : Nat) (f : PQuad → PQuad) : (d.upPQuad k f).syn = d.syn := rfl
@[simp] theorem upPQuad_evc (d : Dev) (k : Nat) (f : PQuad → PQuad) : (d.upPQuad k f).evc = d.evc := rfl
@[simp] theorem upPQuad_mem (d : Dev) (k : Nat) (f : PQuad → PQuad) : (d.upPQuad k f).mem = d.mem := rfl
@[simp] theorem upPQuad_ports (d : Dev) (k : Nat) (f : PQuad → PQuad) : (d.upPQuad k f).ports = d.ports := rfl
@[simp] theorem upPQuad_rte (d : Dev) (k : Nat) (f : PQuad → PQuad) : (d.upPQuad k f).rte = d.rte := rfl
@[simp] theorem upPQuad_ldl (d : Dev) (k : Nat) (f : PQuad → PQuad) : (d.upPQuad k f).ldl = d.ldl := rfl
@[simp] theorem upPQuad_hst (d : Dev) (k : Nat) (f : PQuad → PQuad) : (d.upPQuad k f).hst = d.hst := rfl
@[simp] theorem upPQuad_bind (d : Dev) (k : Nat) (f : PQuad → PQuad) : (d.upPQuad k f).bind = d.bind := rfl
@[simp] theorem upPQuad_thm (d : Dev) (k : Nat) (f : PQuad → PQuad) : (d.upPQuad k f).thm = d.thm := rfl
@[simp] theorem upPQuad_rst (d : Dev) (k : Nat) (f : PQuad → PQuad) : (d.upPQuad k f).rst = d.rst := rfl
@[simp] theorem upPQuad_flash (d : Dev) (k : Nat) (f : PQuad → PQuad) : (d.upPQuad k f).flash = d.flash := rfl
@[simp] theorem upPQuad_upd (d : Dev) (k : Nat) (f : PQuad → PQuad) : (d.upPQuad k f).upd = d.upd := rfl
@[simp] theorem upPQuad_sec (d : Dev) (k : Nat) (f : PQuad → PQuad) : (d.upPQuad k f).sec = d.sec := rfl
@[simp] theorem upPQuad_mgmt (d : Dev) (k : Nat) (f : PQuad → PQuad) : (d.upPQuad k f).mgmt = d.mgmt := rfl
@[simp] theorem upPQuad_twin (d : Dev) (k : Nat) (f : PQuad → PQuad) : (d.upPQuad k f).twin = d.twin := rfl
@[simp] theorem upPQuad_acc (d : Dev) (k : Nat) (f : PQuad → PQuad) : (d.upPQuad k f).acc = d.acc := rfl
@[simp] theorem upPQuad_out (d : Dev) (k : Nat) (f : PQuad → PQuad) : (d.upPQuad k f).out = d.out := rfl

/-! ### Dev.upSensor -/

@[simp] theorem upSensor_now (d : Dev) (k : Nat) (f : Sensor → Sensor) : (d.upSensor k f).now = d.now := rfl
@[simp] theorem upSensor_free (d : Dev) (k : Nat) (f : Sensor → Sensor) : (d.upSensor k f).free = d.free := rfl
@[simp] theorem upSensor_cat (d : Dev) (k : Nat) (f : Sensor → Sensor) : (d.upSensor k f).cat = d.cat := rfl
@[simp] theorem upSensor_mld (d : Dev) (k : Nat) (f : Sensor → Sensor) : (d.upSensor k f).mld = d.mld := rfl
@[simp] theorem upSensor_que (d : Dev) (k : Nat) (f : Sensor → Sensor) : (d.upSensor k f).que = d.que := rfl
@[simp] theorem upSensor_syn (d : Dev) (k : Nat) (f : Sensor → Sensor) : (d.upSensor k f).syn = d.syn := rfl
@[simp] theorem upSensor_evc (d : Dev) (k : Nat) (f : Sensor → Sensor) : (d.upSensor k f).evc = d.evc := rfl
@[simp] theorem upSensor_mem (d : Dev) (k : Nat) (f : Sensor → Sensor) : (d.upSensor k f).mem = d.mem := rfl
@[simp] theorem upSensor_ports (d : Dev) (k : Nat) (f : Sensor → Sensor) : (d.upSensor k f).ports = d.ports := rfl
@[simp] theorem upSensor_rte (d : Dev) (k : Nat) (f : Sensor → Sensor) : (d.upSensor k f).rte = d.rte := rfl
@[simp] theorem upSensor_ldl (d : Dev) (k : Nat) (f : Sensor → Sensor) : (d.upSensor k f).ldl = d.ldl := rfl
@[simp] theorem upSensor_hst (d : Dev) (k : Nat) (f : Sensor → Sensor) : (d.upSensor k f).hst = d.hst := rfl
@[simp] theorem upSensor_bind (d : Dev) (k : Nat) (f : Sensor → Sensor) : (d.upSensor k f).bind = d.bind := rfl
@[simp] theorem upSensor_pwr (d : Dev) (k : Nat) (f : Sensor → Sensor) : (d.upSensor k f).pwr = d.pwr := rfl
@[simp] theorem upSensor_rst (d : Dev) (k : Nat) (f : Sensor → Sensor) : (d.upSensor k f).rst = d.rst := rfl
@[simp] theorem upSensor_flash (d : Dev) (k : Nat) (f : Sensor → Sensor) : (d.upSensor k f).flash = d.flash := rfl
@[simp] theorem upSensor_upd (d : Dev) (k : Nat) (f : Sensor → Sensor) : (d.upSensor k f).upd = d.upd := rfl
@[simp] theorem upSensor_sec (d : Dev) (k : Nat) (f : Sensor → Sensor) : (d.upSensor k f).sec = d.sec := rfl
@[simp] theorem upSensor_mgmt (d : Dev) (k : Nat) (f : Sensor → Sensor) : (d.upSensor k f).mgmt = d.mgmt := rfl
@[simp] theorem upSensor_twin (d : Dev) (k : Nat) (f : Sensor → Sensor) : (d.upSensor k f).twin = d.twin := rfl
@[simp] theorem upSensor_acc (d : Dev) (k : Nat) (f : Sensor → Sensor) : (d.upSensor k f).acc = d.acc := rfl
@[simp] theorem upSensor_out (d : Dev) (k : Nat) (f : Sensor → Sensor) : (d.upSensor k f).out = d.out := rfl

/-! ### Dev.emit, Dev.draw -/

@[simp] theorem emit_out (d : Dev) (x : Out) : (d.emit x).out = x :: d.out := rfl
@[simp] theorem emit_now (d : Dev) (x : Out) : (d.emit x).now = d.now := rfl
@[simp] theorem emit_free (d : Dev) (x : Out) : (d.emit x).free = d.free := rfl
@[simp] theorem emit_cat (d : Dev) (x : Out) : (d.emit x).cat = d.cat := rfl
@[simp] theorem emit_mld (d : Dev) (x : Out) : (d.emit x).mld = d.mld := rfl
@[simp] theorem emit_que (d : Dev) (x : Out) : (d.emit x).que = d.que := rfl
@[simp] theorem emit_syn (d : Dev) (x : Out) : (d.emit x).syn = d.syn := rfl
@[simp] theorem emit_evc (d : Dev) (x : Out) : (d.emit x).evc = d.evc := rfl
@[simp] theorem emit_mem (d : Dev) (x : Out) : (d.emit x).mem = d.mem := rfl
@[simp] theorem emit_ports (d : Dev) (x : Out) : (d.emit x).ports = d.ports := rfl
@[simp] theorem emit_rte (d : Dev) (x : Out) : (d.emit x).rte = d.rte := rfl
@[simp] theorem emit_ldl (d : Dev) (x : Out) : (d.emit x).ldl = d.ldl := rfl
@[simp] theorem emit_hst (d : Dev) (x : Out) : (d.emit x).hst = d.hst := rfl
@[simp] theorem emit_bind (d : Dev) (x : Out) : (d.emit x).bind = d.bind := rfl
@[simp] theorem emit_pwr (d : Dev) (x : Out) : (d.emit x).pwr = d.pwr := rfl
@[simp] theorem emit_thm (d : Dev) (x : Out) : (d.emit x).thm = d.thm := rfl
@[simp] theorem emit_rst (d : Dev) (x : Out) : (d.emit x).rst = d.rst := rfl
@[simp] theorem emit_flash (d : Dev) (x : Out) : (d.emit x).flash = d.flash := rfl
@[simp] theorem emit_upd (d : Dev) (x : Out) : (d.emit x).upd = d.upd := rfl
@[simp] theorem emit_sec (d : Dev) (x : Out) : (d.emit x).sec = d.sec := rfl
@[simp] theorem emit_mgmt (d : Dev) (x : Out) : (d.emit x).mgmt = d.mgmt := rfl
@[simp] theorem emit_twin (d : Dev) (x : Out) : (d.emit x).twin = d.twin := rfl
@[simp] theorem emit_acc (d : Dev) (x : Out) : (d.emit x).acc = d.acc := rfl
@[simp] theorem draw_now (d : Dev) (w : Nat) : (d.draw w).2.now = d.now := rfl
@[simp] theorem draw_cat (d : Dev) (w : Nat) : (d.draw w).2.cat = d.cat := rfl
@[simp] theorem draw_mld (d : Dev) (w : Nat) : (d.draw w).2.mld = d.mld := rfl
@[simp] theorem draw_que (d : Dev) (w : Nat) : (d.draw w).2.que = d.que := rfl
@[simp] theorem draw_syn (d : Dev) (w : Nat) : (d.draw w).2.syn = d.syn := rfl
@[simp] theorem draw_evc (d : Dev) (w : Nat) : (d.draw w).2.evc = d.evc := rfl
@[simp] theorem draw_mem (d : Dev) (w : Nat) : (d.draw w).2.mem = d.mem := rfl
@[simp] theorem draw_ports (d : Dev) (w : Nat) : (d.draw w).2.ports = d.ports := rfl
@[simp] theorem draw_rte (d : Dev) (w : Nat) : (d.draw w).2.rte = d.rte := rfl
@[simp] theorem draw_ldl (d : Dev) (w : Nat) : (d.draw w).2.ldl = d.ldl := rfl
@[simp] theorem draw_hst (d : Dev) (w : Nat) : (d.draw w).2.hst = d.hst := rfl
@[simp] theorem draw_bind (d : Dev) (w : Nat) : (d.draw w).2.bind = d.bind := rfl
@[simp] theorem draw_pwr (d : Dev) (w : Nat) : (d.draw w).2.pwr = d.pwr := rfl
@[simp] theorem draw_thm (d : Dev) (w : Nat) : (d.draw w).2.thm = d.thm := rfl
@[simp] theorem draw_rst (d : Dev) (w : Nat) : (d.draw w).2.rst = d.rst := rfl
@[simp] theorem draw_flash (d : Dev) (w : Nat) : (d.draw w).2.flash = d.flash := rfl
@[simp] theorem draw_upd (d : Dev) (w : Nat) : (d.draw w).2.upd = d.upd := rfl
@[simp] theorem draw_sec (d : Dev) (w : Nat) : (d.draw w).2.sec = d.sec := rfl
@[simp] theorem draw_mgmt (d : Dev) (w : Nat) : (d.draw w).2.mgmt = d.mgmt := rfl
@[simp] theorem draw_twin (d : Dev) (w : Nat) : (d.draw w).2.twin = d.twin := rfl
@[simp] theorem draw_acc (d : Dev) (w : Nat) : (d.draw w).2.acc = d.acc := rfl
@[simp] theorem draw_out (d : Dev) (w : Nat) : (d.draw w).2.out = d.out := rfl
@[simp] theorem draw_free (d : Dev) (w : Nat) : (d.draw w).2.free = d.free + 1 := rfl

end Sys2Proof.Machine
end

