-- ==== Sys2Proof/Laws/Table.lean ====
section
/-! SUPPORT. What the table operations do: a read after a write gives the value written, every other key reads as before, and the
canonical form is kept. -/

namespace Sys2Proof.Machine

variable {α : Type}

/-! ### Reads after writes -/

@[simp] theorem tget_nil (d : α) (k : Nat) : tget d [] k = d := rfl

theorem tget_drop (d : α) (t : Tab α) (p : Nat → Bool) (k : Nat) :
    tget d (tdrop t p) k = if p k then d else tget d t k := by
  induction t with
  | nil => simp [tdrop, tget]
  | cons e t ih =>
    obtain ⟨k', v⟩ := e
    simp only [tdrop, List.filter_cons] at ih ⊢
    by_cases hp : p k'
    · simp only [hp, Bool.not_true, Bool.false_eq_true, if_false, ih, tget]
      by_cases hk : k' = k
      · subst hk; simp [hp]
      · simp [hk]
    · simp only [hp, Bool.not_false, if_true, tget, ih]
      by_cases hk : k' = k
      · subst hk; simp [hp]
      · simp [hk]

theorem tclear_eq_drop (t : Tab α) (lo hi : Nat) : tclear t lo hi = tdrop t (fun k => decide (lo ≤ k) && decide (k < hi)) := rfl

theorem tget_clear (d : α) (t : Tab α) (lo hi k : Nat) :
    tget d (tclear t lo hi) k = if lo ≤ k ∧ k < hi then d else tget d t k := by
  rw [tclear_eq_drop, tget_drop]; simp

theorem tget_fresh (d : α) (t : Tab α) (k : Nat) (h : ∀ e ∈ t, e.1 ≠ k) : tget d t k = d := by
  induction t with
  | nil => rfl
  | cons e t ih =>
    obtain ⟨k', v⟩ := e
    have h1 : k' ≠ k := h (k', v) (List.mem_cons_self ..)
    simp [tget, h1, ih (fun x hx => h x (List.mem_cons_of_mem _ hx))]

theorem drop_fresh (t : Tab α) (k : Nat) : ∀ e ∈ tdrop t (fun j => j == k), e.1 ≠ k := by
  intro e he
  have := (List.mem_filter.mp he).2
  simpa using this

theorem tgets_length (d : α) (t : Tab α) (k n : Nat) : (tgets d t k n).length = n := by
  induction n generalizing k with
  | zero => rfl
  | succ n ih => simp [tgets, ih]

theorem tgets_getD (d : α) (t : Tab α) (k n i : Nat) (h : i < n) : (tgets d t k n).getD i d = tget d t (k + i) := by
  induction n generalizing k i with
  | zero => omega
  | succ n ih =>
    cases i with
    | zero => simp [tgets]
    | succ i => simp only [tgets, List.getD_cons_succ]; rw [ih (k + 1) i (by omega)]; congr 1; omega

variable [DecidableEq α]

theorem tget_cons (d : α) (k : Nat) (v : α) (t : Tab α) (h : tget d t k = d) (j : Nat) :
    tget d (tcons d k v t) j = if j = k then v else tget d t j := by
  unfold tcons
  by_cases hv : v = d <;> by_cases hj : j = k
  · subst hj; simp [hv, h]
  · simp [hv, hj]
  · subst hj; simp [hv, tget]
  · simp [hv, tget, hj, Ne.symm hj]

theorem tget_ins (d : α) (k : Nat) (v : α) (t : Tab α) (h : ∀ e ∈ t, e.1 ≠ k) (j : Nat) :
    tget d (tins d k v t) j = if j = k then v else tget d t j := by
  induction t with
  | nil => exact tget_cons d k v [] rfl j
  | cons e t ih =>
    obtain ⟨k', v'⟩ := e
    have hk : k' ≠ k := h (k', v') (List.mem_cons_self ..)
    have ht := ih (fun x hx => h x (List.mem_cons_of_mem _ hx))
    unfold tins
    by_cases hlt : k < k'
    · rw [if_pos hlt]; exact tget_cons d k v _ (tget_fresh d _ k h) j
    · rw [if_neg hlt]
      by_cases hj : k' = j
      · subst hj; simp [tget, hk]
      · simp [tget, hj, ht]

/-- A read after a write. -/
@[simp] theorem tget_set (d : α) (t : Tab α) (k : Nat) (v : α) (j : Nat) :
    tget d (tset d t k v) j = if j = k then v else tget d t j := by
  unfold tset
  rw [tget_ins d k v _ (drop_fresh t k), tget_drop]
  by_cases hj : j = k <;> simp [hj]

@[simp] theorem tget_up (d : α) (t : Tab α) (k : Nat) (f : α → α) (j : Nat) :
    tget d (tup d t k f) j = if j = k then f (tget d t k) else tget d t j := by
  simp [tup]

theorem tget_puts (d : α) (vs : List α) (t : Tab α) (k j : Nat) :
    tget d (tputs d t k vs) j = if k ≤ j ∧ j < k + vs.length then vs.getD (j - k) d else tget d t j := by
  induction vs generalizing t k with
  | nil => simp [tputs]
  | cons v vs ih =>
    simp only [tputs, ih, tget_set, List.length_cons]
    rcases lt_trichotomy j k with h | h | h
    · rw [if_neg (by omega), if_neg (by omega), if_neg (by omega)]
    · subst h; rw [if_neg (by omega), if_pos rfl, if_pos (by omega)]; simp
    · by_cases h2 : j < k + 1 + vs.length
      · rw [if_pos (by omega), if_pos (by omega)]
        obtain ⟨m, rfl⟩ : ∃ m, j = k + 1 + m := ⟨j - (k + 1), by omega⟩
        rw [show k + 1 + m - (k + 1) = m by omega, show k + 1 + m - k = m + 1 by omega, List.getD_cons_succ]
      · rw [if_neg (by omega), if_neg (by omega), if_neg (by omega)]

/-- What was written reads back whole. -/
theorem tgets_puts (d : α) (t : Tab α) (k : Nat) (vs : List α) : tgets d (tputs d t k vs) k vs.length = vs := by
  have key : ∀ n j, k ≤ j → j + n = k + vs.length → tgets d (tputs d t k vs) j n = vs.drop (j - k) := by
    intro n
    induction n with
    | zero => intro j h1 h2; simp [tgets]; omega
    | succ n ih =>
      intro j h1 h2
      rw [tgets, ih (j + 1) (by omega) (by omega), tget_puts, if_pos (by omega)]
      rw [List.drop_eq_getElem_cons (show j - k < vs.length by omega)]
      congr 1
      · simp [List.getD, show j - k < vs.length by omega]
      · congr 1; omega
  simpa using key vs.length k (le_refl k) rfl

/-! ### The canonical form -/

theorem twf_mono (d : α) {lo hi : Nat} (h : lo ≤ hi) (t : Tab α) (w : twf d hi t = true) : twf d lo t = true := by
  cases t with
  | nil => rfl
  | cons e t => simp only [twf, Bool.and_eq_true, decide_eq_true_eq] at w ⊢; exact ⟨⟨by omega, w.1.2⟩, w.2⟩

theorem twf_tail (d : α) (lo : Nat) (e : Nat × α) (t : Tab α) (w : twf d lo (e :: t) = true) : twf d lo t = true := by
  simp only [twf, Bool.and_eq_true, decide_eq_true_eq] at w
  exact twf_mono d (by omega) t w.2

theorem twf_filter (d : α) (lo : Nat) (t : Tab α) (p : Nat × α → Bool) (w : twf d lo t = true) :
    twf d lo (t.filter p) = true := by
  induction t generalizing lo with
  | nil => rfl
  | cons e t ih =>
    simp only [twf, Bool.and_eq_true, decide_eq_true_eq] at w
    rw [List.filter_cons]
    split
    · simp only [twf, Bool.and_eq_true, decide_eq_true_eq]; exact ⟨w.1, ih _ w.2⟩
    · exact ih lo (twf_mono d (by omega) t w.2)

theorem twf_drop (d : α) (t : Tab α) (p : Nat → Bool) (w : twf d 0 t = true) : twf d 0 (tdrop t p) = true := twf_filter d 0 t _ w

theorem twf_clear (d : α) (t : Tab α) (lo hi : Nat) (w : twf d 0 t = true) : twf d 0 (tclear t lo hi) = true := twf_filter d 0 t _ w

theorem twf_cons (d : α) (lo k : Nat) (v : α) (t : Tab α) (h : lo ≤ k) (w : twf d (k + 1) t = true) :
    twf d lo (tcons d k v t) = true := by
  unfold tcons
  split
  · exact twf_mono d (by omega) t w
  · rename_i hv; simp only [twf, Bool.and_eq_true, decide_eq_true_eq]; exact ⟨⟨h, hv⟩, w⟩

theorem twf_ins (d : α) (lo k : Nat) (v : α) (t : Tab α) (hl : lo ≤ k) (h : ∀ e ∈ t, e.1 ≠ k) (w : twf d lo t = true) :
    twf d lo (tins d k v t) = true := by
  induction t generalizing lo with
  | nil => exact twf_cons d lo k v [] hl rfl
  | cons e t ih =>
    obtain ⟨k', v'⟩ := e
    have hk : k' ≠ k := h (k', v') (List.mem_cons_self ..)
    simp only [twf, Bool.and_eq_true, decide_eq_true_eq] at w
    unfold tins
    split
    · refine twf_cons d lo k v _ hl ?_
      simp only [twf, Bool.and_eq_true, decide_eq_true_eq]; exact ⟨⟨by omega, w.1.2⟩, w.2⟩
    · simp only [twf, Bool.and_eq_true, decide_eq_true_eq]
      exact ⟨w.1, ih (k' + 1) (by omega) (fun x hx => h x (List.mem_cons_of_mem _ hx)) w.2⟩

/-- A write keeps the canonical form. -/
theorem twf_set (d : α) (t : Tab α) (k : Nat) (v : α) (w : twf d 0 t = true) : twf d 0 (tset d t k v) = true :=
  twf_ins d 0 k v _ (Nat.zero_le k) (drop_fresh t k) (twf_drop d t _ w)

theorem twf_up (d : α) (t : Tab α) (k : Nat) (f : α → α) (w : twf d 0 t = true) : twf d 0 (tup d t k f) = true :=
  twf_set d t k _ w

theorem twf_puts (d : α) (vs : List α) (t : Tab α) (k : Nat) (w : twf d 0 t = true) : twf d 0 (tputs d t k vs) = true := by
  induction vs generalizing t k with
  | nil => exact w
  | cons v vs ih => exact ih _ _ (twf_set d t k v w)

theorem twf_map (d : α) (f : Nat → α → α) (lo : Nat) (t : Tab α) (w : twf d lo t = true) : twf d lo (tmap d f t) = true := by
  induction t generalizing lo with
  | nil => rfl
  | cons e t ih =>
    obtain ⟨k, v⟩ := e
    simp only [twf, Bool.and_eq_true, decide_eq_true_eq] at w
    exact twf_cons d lo k _ _ w.1.1 (ih _ w.2)

/-- A mapped table reads as the function of what it read, where the function keeps the default. -/
theorem tget_map (d : α) (f : Nat → α → α) (hf : ∀ k, f k d = d) (lo : Nat) (t : Tab α) (w : twf d lo t = true) (k : Nat) :
    tget d (tmap d f t) k = f k (tget d t k) := by
  have low : ∀ (t : Tab α) (lo k : Nat), twf d lo t = true → k < lo → tget d t k = d := by
    intro t
    induction t with
    | nil => intros; rfl
    | cons e t ih =>
      intro lo k w h
      simp only [twf, Bool.and_eq_true, decide_eq_true_eq] at w
      rw [tget, if_neg (by omega)]; exact ih _ _ w.2 (by omega)
  induction t generalizing lo k with
  | nil => simp [tmap, hf]
  | cons e t ih =>
    obtain ⟨k', v⟩ := e
    simp only [twf, Bool.and_eq_true, decide_eq_true_eq] at w
    have hfresh : tget d (tmap d f t) k' = d := by
      rw [ih _ w.2, low t _ _ w.2 (by omega), hf]
    rw [tmap, tget_cons d k' _ _ hfresh]
    by_cases hk : k = k'
    · subst hk; simp [tget]
    · rw [if_neg hk, ih _ w.2, tget, if_neg (Ne.symm hk)]

end Sys2Proof.Machine
end

