-- ==== Sys2Proof/Laws/Frame.lean ====
section
/-! SUPPORT. Which blocks each shared operation can change, and how a frame composes: what a proof cites in place of unfolding the
operation. -/

namespace Sys2Proof.Machine

/-! ### The frame relation -/

theorem DevOnly.refl (bs : List Block) (d : Dev) : DevOnly bs d d := by
  intro b _; cases b <;> rfl

theorem Block.same_trans {b : Block} {d e f : Dev} (h : b.same d e) (g : b.same e f) : b.same d f := by
  cases b <;> exact Eq.trans g h

theorem DevOnly.trans {bs : List Block} {d e f : Dev} (h : DevOnly bs d e) (g : DevOnly bs e f) : DevOnly bs d f :=
  fun b hb => Block.same_trans (h b hb) (g b hb)

theorem DevOnly.mono {bs cs : List Block} {d e : Dev} (h : DevOnly bs d e) (sub : ∀ b ∈ bs, b ∈ cs) : DevOnly cs d e :=
  fun b hb => h b (fun x => hb (sub b x))

theorem DevOnly.ite {bs : List Block} {p : Prop} [Decidable p] {d e f : Dev} (h : DevOnly bs d e) (g : DevOnly bs d f) :
    DevOnly bs d (if p then e else f) := by
  split <;> assumption

theorem devOnly_foldl {α : Type} {bs : List Block} (f : Dev → α → Dev) (hf : ∀ d a, DevOnly bs d (f d a)) (l : List α) (d : Dev) :
    DevOnly bs d (l.foldl f d) := by
  induction l generalizing d with
  | nil => exact DevOnly.refl bs d
  | cons a l ih => exact (hf d a).trans (ih (f d a))

theorem devOnly_each {α : Type} {bs : List Block} (l : List α) (f : Dev → α → Dev) (hf : ∀ d a, DevOnly bs d (f d a)) (d : Dev) :
    DevOnly bs d (d.each l f) := devOnly_foldl f hf l d

/-- A frame of the device is a frame of the state. -/
theorem only_dev {bs : List Block} {s : State} {d : Dev} (h : DevOnly bs s.dev d) : Only bs s { s with dev := d } :=
  ⟨rfl, rfl, rfl, h⟩

theorem Only.dev {bs : List Block} {s t : State} (h : Only bs s t) : DevOnly bs s.dev t.dev := h.2.2.2

/-! ### One block -/

theorem devOnly_upCat (d : Dev) (f : Cat → Cat) : DevOnly [.cat] d (d.upCat f) := by intro b h; cases b <;> first | rfl | simp at h
theorem devOnly_upMld (d : Dev) (f : Mld → Mld) : DevOnly [.mld] d (d.upMld f) := by intro b h; cases b <;> first | rfl | simp at h
theorem devOnly_upQue (d : Dev) (f : Que → Que) : DevOnly [.que] d (d.upQue f) := by intro b h; cases b <;> first | rfl | simp at h
theorem devOnly_upSyn (d : Dev) (f : Syn → Syn) : DevOnly [.syn] d (d.upSyn f) := by intro b h; cases b <;> first | rfl | simp at h
theorem devOnly_upEvc (d : Dev) (f : Evc → Evc) : DevOnly [.evc] d (d.upEvc f) := by intro b h; cases b <;> first | rfl | simp at h
theorem devOnly_upMem (d : Dev) (f : Mem → Mem) : DevOnly [.mem] d (d.upMem f) := by intro b h; cases b <;> first | rfl | simp at h
theorem devOnly_upRte (d : Dev) (f : Rte → Rte) : DevOnly [.rte] d (d.upRte f) := by intro b h; cases b <;> first | rfl | simp at h
theorem devOnly_upLdl (d : Dev) (f : Ldl → Ldl) : DevOnly [.ldl] d (d.upLdl f) := by intro b h; cases b <;> first | rfl | simp at h
theorem devOnly_upHst (d : Dev) (f : Hst → Hst) : DevOnly [.hst] d (d.upHst f) := by intro b h; cases b <;> first | rfl | simp at h
theorem devOnly_upPwr (d : Dev) (f : Pwr → Pwr) : DevOnly [.pwr] d (d.upPwr f) := by intro b h; cases b <;> first | rfl | simp at h
theorem devOnly_upThm (d : Dev) (f : Thm → Thm) : DevOnly [.thm] d (d.upThm f) := by intro b h; cases b <;> first | rfl | simp at h
theorem devOnly_upRst (d : Dev) (f : Rst → Rst) : DevOnly [.rst] d (d.upRst f) := by intro b h; cases b <;> first | rfl | simp at h
theorem devOnly_upFlash (d : Dev) (f : Flash → Flash) : DevOnly [.flash] d (d.upFlash f) := by intro b h; cases b <;> first | rfl | simp at h
theorem devOnly_upUpd (d : Dev) (f : Upd → Upd) : DevOnly [.upd] d (d.upUpd f) := by intro b h; cases b <;> first | rfl | simp at h
theorem devOnly_upSec (d : Dev) (f : Sec → Sec) : DevOnly [.sec] d (d.upSec f) := by intro b h; cases b <;> first | rfl | simp at h
theorem devOnly_upMgmt (d : Dev) (f : Mgmt → Mgmt) : DevOnly [.mgmt] d (d.upMgmt f) := by intro b h; cases b <;> first | rfl | simp at h
theorem devOnly_upTwin (d : Dev) (f : Twin → Twin) : DevOnly [.twin] d (d.upTwin f) := by intro b h; cases b <;> first | rfl | simp at h
theorem devOnly_upPort (d : Dev) (p : Nat) (f : Port → Port) : DevOnly [.ports] d (d.upPort p f) := by
  intro b h; cases b <;> first | rfl | simp at h
theorem devOnly_emit (d : Dev) (o : Out) : DevOnly [.out] d (d.emit o) := by intro b h; cases b <;> first | rfl | simp at h
theorem devOnly_draw (d : Dev) (w : Nat) : DevOnly [.free] d (d.draw w).2 := by intro b h; cases b <;> first | rfl | simp at h
theorem devOnly_drawBytes (d : Dev) (n : Nat) : DevOnly [.free] d (d.drawBytes n).2 := by intro b h; cases b <;> first | rfl | simp at h

/-! ### Events, trace, ledger -/

theorem devOnly_raise (d : Dev) (n info : Nat) : DevOnly [.evc] d (d.raise n info) := by
  unfold Dev.raise
  dsimp only
  split
  · exact devOnly_upEvc _ _
  · split
    · exact devOnly_upEvc _ _
    · exact (devOnly_upEvc _ _).trans (devOnly_upEvc _ _)

theorem devOnly_raiseAny (d : Dev) (n : Nat) : DevOnly [.free, .evc] d (d.raiseAny n) :=
  ((devOnly_draw d 48).mono (by simp)).trans ((devOnly_raise _ _ _).mono (by simp))

theorem devOnly_complete (d : Dev) (n : Nat) : DevOnly [.evc] d (d.complete n) := by
  unfold Dev.complete; split <;> exact devOnly_upEvc _ _

theorem devOnly_refuse (d : Dev) (a : Nat) : DevOnly [.evc] d (d.refuse a) := devOnly_raise _ _ _

theorem devOnly_denyPage (d : Dev) (a : Nat) : DevOnly [.mem, .evc] d (d.denyPage a) :=
  ((devOnly_upMem _ _).mono (by simp)).trans ((devOnly_refuse _ _).mono (by simp))

theorem devOnly_clearSrcs (d : Dev) (p : Nat → Src → Bool) : DevOnly [.evc] d (d.clearSrcs p) := devOnly_upEvc _ _

theorem devOnly_trace (d : Dev) (k p q x : Nat) : DevOnly [.cat] d (d.trace k p q x) := by
  unfold Dev.trace; split
  · exact devOnly_upCat _ _
  · exact DevOnly.refl _ _

theorem devOnly_ledger (d : Dev) (p q i : Nat) (l : Led) : DevOnly [.mld, .que] d (d.ledger p q i l) :=
  ((devOnly_upMld _ _).mono (by simp)).trans ((devOnly_upQue _ _).mono (by simp))

theorem devOnly_endWork (d : Dev) (q i st x y : Nat) : DevOnly [.que] d (d.endWork q i st x y) := devOnly_upQue _ _

theorem devOnly_incrCounter (d : Dev) (n a : Nat) : DevOnly [.syn, .evc] d (d.incrCounter n a) := by
  unfold Dev.incrCounter
  dsimp only
  split
  · exact ((devOnly_upSyn _ _).mono (by simp)).trans ((devOnly_raise _ _ _).mono (by simp))
  · exact (devOnly_upSyn _ _).mono (by simp)

/-! ### Notifications -/

theorem devOnly_notify (d : Dev) (cmd : Nat) (body : Bytes) : DevOnly [.mgmt, .out] d (d.notify cmd body) := by
  unfold Dev.notify
  dsimp only
  split
  · exact ((devOnly_upMgmt _ _).mono (by simp)).trans ((devOnly_emit _ _).mono (by simp))
  · exact (devOnly_upMgmt _ _).mono (by simp)

/-- What the device tells the tray controller after a command touches the management port's queue and what it hands out. -/
theorem devOnly_report (old d : Dev) : DevOnly [.mgmt, .out] d (Dev.report old d) := by
  have h := devOnly_each (bs := [.mgmt, .out]) (parts16.filter (fun p => old.partCode p != d.partCode p)) (fun d p => d.notifyPart p)
    (fun d p => devOnly_notify d _ _) d
  unfold Dev.report
  dsimp only
  split
  · exact h
  · exact h.trans (devOnly_notify _ _ _)

/-- R426: nothing is reported where no partition's state and no error pin changed. -/
theorem report_quiet (old d : Dev) (hp : ∀ p ∈ parts16, old.partCode p = d.partCode p) (hf : old.errFatal = d.errFatal)
    (hw : old.errWarn = d.errWarn) : Dev.report old d = d := by
  have : parts16.filter (fun p => old.partCode p != d.partCode p) = [] := by
    simp only [List.filter_eq_nil_iff]; intro p hm; simp [hp p hm]
  unfold Dev.report
  simp [this, Dev.each, hf, hw]

end Sys2Proof.Machine
end

