-- ==== Sys2Proof/Laws/Entries.lean ====
section
/-! SUPPORT. Reading a table entry after an update of one entry: the entry is the function of what it was, every other entry is as it
was; and what a frame leaves of the entry views. -/

namespace Sys2Proof.Machine

@[simp] theorem slot_upSlot (d : Dev) (k : Nat) (f : Slot → Slot) (j : Nat) :
    (d.upSlot k f).slot j = if j = k then f (d.slot k) else d.slot j := by
  simp only [Dev.slot, Dev.upSlot, upCat_cat, tget_up]
@[simp] theorem part_upPart (d : Dev) (k : Nat) (f : Part → Part) (j : Nat) :
    (d.upPart k f).part j = if j = k then f (d.part k) else d.part j := by
  simp only [Dev.part, Dev.upPart, upMld_mld, tget_up]
@[simp] theorem queue_upQueue (d : Dev) (k : Nat) (f : Queue → Queue) (j : Nat) :
    (d.upQueue k f).queue j = if j = k then f (d.queue k) else d.queue j := by
  simp only [Dev.queue, Dev.upQueue, upQue_que, tget_up]
@[simp] theorem counter_upCounter (d : Dev) (k : Nat) (f : Counter → Counter) (j : Nat) :
    (d.upCounter k f).counter j = if j = k then f (d.counter k) else d.counter j := by
  simp only [Dev.counter, Dev.upCounter, upSyn_syn, tget_up]
@[simp] theorem src_upSrc (d : Dev) (k : Nat) (f : Src → Src) (j : Nat) :
    (d.upSrc k f).src j = if j = k then f (d.src k) else d.src j := by
  simp only [Dev.src, Dev.upSrc, upEvc_evc, tget_up]
@[simp] theorem group_upGroup (d : Dev) (k : Nat) (f : EvGroup → EvGroup) (j : Nat) :
    (d.upGroup k f).group j = if j = k then f (d.group k) else d.group j := by
  simp only [Dev.group, Dev.upGroup, upEvc_evc, tget_up]
@[simp] theorem stack_upStack (d : Dev) (k : Nat) (f : Stack → Stack) (j : Nat) :
    (d.upStack k f).stack j = if j = k then f (d.stack k) else d.stack j := by
  simp only [Dev.stack, Dev.upStack, upMem_mem, tget_up]
@[simp] theorem port_upPort (d : Dev) (k : Nat) (f : Port → Port) (j : Nat) :
    (d.upPort k f).port j = if j = k then f (d.port k) else d.port j := by
  simp only [Dev.port, Dev.upPort, tget_up]
@[simp] theorem hport_upHPort (d : Dev) (k : Nat) (f : HPort → HPort) (j : Nat) :
    (d.upHPort k f).hport j = if j = k then f (d.hport k) else d.hport j := by
  simp only [Dev.hport, Dev.upHPort, upHst_hst, tget_up]
@[simp] theorem qp_upQp (d : Dev) (k : Nat) (f : Qp → Qp) (j : Nat) :
    (d.upQp k f).qp j = if j = k then f (d.qp k) else d.qp j := by
  simp only [Dev.qp, Dev.upQp, upHst_hst, tget_up]
@[simp] theorem evq_upEvq (d : Dev) (k : Nat) (f : Evq → Evq) (j : Nat) :
    (d.upEvq k f).evq j = if j = k then f (d.evq k) else d.evq j := by
  simp only [Dev.evq, Dev.upEvq, upHst_hst, tget_up]
@[simp] theorem plan_upPlan (d : Dev) (k : Nat) (f : Plan → Plan) (j : Nat) :
    (d.upPlan k f).plan j = if j = k then (d.plan k).map f else d.plan j := by
  simp only [Dev.plan, Dev.upPlan, upLdl_ldl, tget_up]
@[simp] theorem pquad_upPQuad (d : Dev) (k : Nat) (f : PQuad → PQuad) (j : Nat) :
    (d.upPQuad k f).pquad j = if j = k then f (d.pquad k) else d.pquad j := by
  simp only [Dev.pquad, Dev.upPQuad, upPwr_pwr, tget_up]
@[simp] theorem sensor_upSensor (d : Dev) (k : Nat) (f : Sensor → Sensor) (j : Nat) :
    (d.upSensor k f).sensor j = if j = k then f (d.sensor k) else d.sensor j := by
  simp only [Dev.sensor, Dev.upSensor, upThm_thm, tget_up]

/-! ### Entry views of an unchanged block -/

theorem slot_same {d e : Dev} (h : Block.same .cat d e) (k : Nat) : e.slot k = d.slot k := by simp only [Dev.slot, show e.cat = d.cat from h]
theorem part_same {d e : Dev} (h : Block.same .mld d e) (k : Nat) : e.part k = d.part k := by simp only [Dev.part, show e.mld = d.mld from h]
theorem queue_same {d e : Dev} (h : Block.same .que d e) (k : Nat) : e.queue k = d.queue k := by simp only [Dev.queue, show e.que = d.que from h]
theorem counter_same {d e : Dev} (h : Block.same .syn d e) (k : Nat) : e.counter k = d.counter k := by
  simp only [Dev.counter, show e.syn = d.syn from h]
theorem src_same {d e : Dev} (h : Block.same .evc d e) (k : Nat) : e.src k = d.src k := by simp only [Dev.src, show e.evc = d.evc from h]
theorem stack_same {d e : Dev} (h : Block.same .mem d e) (k : Nat) : e.stack k = d.stack k := by simp only [Dev.stack, show e.mem = d.mem from h]
theorem port_same {d e : Dev} (h : Block.same .ports d e) (k : Nat) : e.port k = d.port k := by simp only [Dev.port, show e.ports = d.ports from h]
theorem qp_same {d e : Dev} (h : Block.same .hst d e) (k : Nat) : e.qp k = d.qp k := by simp only [Dev.qp, show e.hst = d.hst from h]

/-! ### Raising an event (R289, R290) -/

/-- A shell source or a bound one, below 255 pending, has one more raising; no other source changes. -/
theorem src_raise {d : Dev} {n i : Nat} (hb : shellSrc n = true ∨ (d.src n).bound = true) (hp : (d.src n).pending < 255) (m : Nat) :
    (d.raise n i).src m = if m = n then { d.src n with
      pending := (d.src n).pending + 1, info := i % 2 ^ 48,
      first := if (d.src n).pending = 0 then d.now else (d.src n).first,
      onOsc := if (d.src n).pending = 0 then !d.rst.refclk else (d.src n).onOsc } else d.src m := by
  have h : (!shellSrc n && !(d.src n).bound) = false := by rcases hb with h | h <;> simp [h]
  simp [Dev.raise, h, hp]

theorem pending_raise {d : Dev} {n i : Nat} (hb : shellSrc n = true ∨ (d.src n).bound = true) (hp : (d.src n).pending < 255) :
    ((d.raise n i).src n).pending = (d.src n).pending + 1 := by
  rw [src_raise hb hp, if_pos rfl]

/-! ### Shapes of exec's arms -/

/-- A command whose device effect keeps to `bs` and gives `post`. -/
theorem runs_onDev {c : Instr} {s : State} {bs : List Block} {post : Dev → Prop} {f : Dev → Dev} (h : exec c s = onDev s f)
    (o : DevOnly bs s.dev (f s.dev)) (p : post (f s.dev)) : Runs c s bs post :=
  ⟨_, h, only_dev o, p⟩

/-- R336: outside the hold state a unit's command has its effect. -/
theorem runs_onWork {c : Instr} {s : State} {bs : List Block} {post : Dev → Prop} {f : Dev → Dev} (h : exec c s = onWork s f)
    (g : s.dev.thm.hold = false) (o : DevOnly bs s.dev (f s.dev)) (p : post (f s.dev)) : Runs c s bs post :=
  ⟨_, by rw [h, onWork, onDev, g]; rfl, only_dev o, p⟩

/-- R426: the report to the tray controller comes after the effect. -/
theorem runs_onDevN {c : Instr} {s : State} {bs : List Block} {post : Dev → Prop} {f : Dev → Dev} (h : exec c s = onDevN s f)
    (o : DevOnly bs s.dev (f s.dev)) (hm : Block.mgmt ∈ bs) (ho : Block.out ∈ bs) (p : post (Dev.report s.dev (f s.dev))) :
    Runs c s bs post :=
  ⟨_, h, only_dev (o.trans ((devOnly_report _ _).mono (by simp [hm, ho]))), p⟩

end Sys2Proof.Machine
end

