-- ==== Sys2Proof/Laws/Cells.lean ====
section
/-! SUPPORT. What the operations of the cells change. -/

namespace Sys2Proof.Machine

theorem devOnly_perf (d : Dev) (r : Run) (c i n : Nat) : DevOnly [.cat] d (d.perf r c i n) := by
  unfold Dev.perf; split
  · exact DevOnly.refl _ _
  · exact devOnly_upCat _ _

theorem devOnly_work (d : Dev) (p i n : Nat) : DevOnly [.pwr] d (d.work p i n) := devOnly_upPwr _ _

theorem devOnly_perfIssue0 (d : Dev) (r : Run) (c m : Nat) : DevOnly [.cat] d (d.perfIssue r c m 0) := by
  unfold Dev.perfIssue
  simp only [if_true]
  exact ((devOnly_perf _ _ _ _ _).trans (devOnly_perf _ _ _ _ _)).trans (devOnly_perf _ _ _ _ _)

theorem devOnly_perfIssue (d : Dev) (r : Run) (c m v : Nat) : DevOnly [.cat, .pwr] d (d.perfIssue r c m v) := by
  unfold Dev.perfIssue
  dsimp only
  have h := (((devOnly_perf d r c 0 1).trans (devOnly_perf _ r c 1 m)).trans (devOnly_perf _ r c 2 v)).mono
    (cs := [.cat, .pwr]) (by simp)
  split
  · exact h
  · exact h.trans ((devOnly_work _ _ _ _).mono (by simp))

/-- The performance counters change no slot, map, run or channel. -/
theorem perf_cat (d : Dev) (r : Run) (c i n : Nat) : ∃ p, (d.perf r c i n).cat = { d.cat with perf := p } := by
  unfold Dev.perf; split
  · exact ⟨d.cat.perf, rfl⟩
  · exact ⟨_, rfl⟩

theorem perfIssue_cat (d : Dev) (r : Run) (c m v : Nat) : ∃ p, (d.perfIssue r c m v).cat = { d.cat with perf := p } := by
  obtain ⟨p1, h1⟩ := perf_cat d r c 0 1
  obtain ⟨p2, h2⟩ := perf_cat (d.perf r c 0 1) r c 1 m
  obtain ⟨p3, h3⟩ := perf_cat ((d.perf r c 0 1).perf r c 1 m) r c 2 v
  refine ⟨p3, ?_⟩
  have h : ∀ e : Dev, (if v = 0 then e else e.work r.part 15 256).cat = e.cat := by intro e; split <;> rfl
  unfold Dev.perfIssue
  rw [h, h3, h2, h1]

@[simp] theorem slot_perf (d : Dev) (r : Run) (c i n k : Nat) : (d.perf r c i n).slot k = d.slot k := by
  obtain ⟨p, h⟩ := perf_cat d r c i n; simp [Dev.slot, h]
@[simp] theorem slot_perfIssue (d : Dev) (r : Run) (c m v k : Nat) : (d.perfIssue r c m v).slot k = d.slot k := by
  obtain ⟨p, h⟩ := perfIssue_cat d r c m v; simp [Dev.slot, h]

/-! ### Slots: scalar registers -/

theorem setX_x (s : Slot) (i v j : Nat) :
    (s.setX i v).x j = if j = 0 then 0 else if j = i then v % 2 ^ 32 else s.x j := by
  unfold Slot.x Slot.setX
  by_cases hj : j = 0
  · simp [hj]
  · by_cases hi : i = 0
    · simp [hi, hj]
    · by_cases h : j = i <;> simp [hi, hj, h]

/-! ### Carrels, memory and issuing without errors -/

theorem simple_only (d : Dev) (cell op : Nat) (o : Opds) (f : Slot → Slot) : DevOnly [.cat] d (d.simple cell op o 0 f) := by
  unfold Dev.simple
  split
  · exact DevOnly.refl _ _
  · exact (devOnly_perfIssue0 _ _ _ _).trans (devOnly_upCat _ _)

theorem simple_slot {d : Dev} {cell op : Nat} {o : Opds} {r : Run} {k : Nat} (v : Nat) (f : Slot → Slot) (h : d.canIssue cell op o = some (r, k)) :
    (d.simple cell op o v f).slot k = (f (d.slot k)).advance ∧ But k d.slot (d.simple cell op o v f).slot := by
  unfold Dev.simple
  rw [h]
  refine ⟨by simp, fun j hj => by simp [hj]⟩

theorem memPuts_get (l : List (Nat × Nat)) (t : Tab Byte) (bs : Bytes) (a : Nat) (h : Outside l a) :
    tget 0 (memPuts t l bs) a = tget 0 t a := by
  induction l generalizing t bs with
  | nil => rfl
  | cons x l ih =>
    rw [memPuts, ih _ _ (fun y hy => h y (List.mem_cons_of_mem _ hy)), tget_puts, if_neg]
    have := h x (List.mem_cons_self ..)
    simp only [List.length_take]; omega

theorem memPuts_wf (l : List (Nat × Nat)) (t : Tab Byte) (bs : Bytes) (h : Memory.wf t = true) : Memory.wf (memPuts t l bs) = true := by
  induction l generalizing t bs with
  | nil => exact h
  | cons x l ih => exact ih _ _ (twf_puts _ _ _ _ h)

theorem carrelRead_quiet (d : Dev) (k a n : Nat) (h : (d.slot k).carrelUe = []) :
    d.carrelRead k a n [] [] = (d.upSlot k id, some ((d.slot k).bytes a n)) := by
  have hs : (d.upSlot k id).slot k = d.slot k := by simp
  have e : (d.upSlot k id).slot k = d.slot k → d.carrelRead k a n [] [] =
      (if ((d.upSlot k id).slot k).carrelUe.filter (fun u => meetsCar u a n) = []
       then (d.upSlot k id, some ((carPieces a n).flatMap (fun x => tgets 0 ((d.upSlot k id).slot k).carrel x.1 x.2)))
       else ((d.upSlot k id).each (((d.upSlot k id).slot k).carrelUe.filter (fun u => meetsCar u a n)) (fun d u => d.carrelUe1 k u), none)) :=
    fun _ => rfl
  rw [e hs, hs, h]
  rfl

theorem carrelReads_quiet (n : Nat) (l : List Nat) (d : Dev) (k : Nat) (h : (d.slot k).carrelUe = []) :
    ∃ d', d.carrelReads k n Ecc.quiet l = (d', some (l.map (fun a => (d.slot k).bytes a n))) ∧ (∀ j, d'.slot j = d.slot j) ∧
      d'.cat.chans = d.cat.chans ∧ DevOnly [.cat] d d' := by
  induction l generalizing d with
  | nil => exact ⟨d, rfl, fun _ => rfl, rfl, DevOnly.refl _ _⟩
  | cons a l ih =>
    have hs : ∀ j, (d.upSlot k id).slot j = d.slot j := by
      intro j; rw [slot_upSlot]; split
      · rename_i h; rw [h]; rfl
      · rfl
    obtain ⟨d', e1, e2, e3, e4⟩ := ih (d.upSlot k id) (by rw [hs]; exact h)
    refine ⟨d', ?_, fun j => by rw [e2, hs], by rw [e3]; rfl, (devOnly_upCat _ _).trans e4⟩
    rw [Dev.carrelReads]
    simp only [Ecc.quiet] at e1 ⊢
    rw [carrelRead_quiet d k a n h]
    simp only [e1, hs, List.map_cons]

theorem carrelPut_quiet (d : Dev) (k o : Nat) (bs : Bytes) (h : (d.slot k).carrelUe = []) :
    (d.carrelPut k o bs).2 = true ∧ ((d.carrelPut k o bs).1.slot k) = { d.slot k with carrel := tputs 0 (d.slot k).carrel o bs } ∧
    But k d.slot (d.carrelPut k o bs).1.slot ∧ DevOnly [.cat] d (d.carrelPut k o bs).1 := by
  unfold Dev.carrelPut
  simp only [h, List.filter_nil, Dev.each, List.foldl_nil]
  refine ⟨rfl, by simp [h], fun j hj => by simp [hj], devOnly_upCat _ _⟩

theorem carrelPuts_quiet (l : List (Nat × Nat)) (d : Dev) (k : Nat) (bs : Bytes) (h : (d.slot k).carrelUe = []) :
    (d.carrelPuts k l bs).2 = true ∧ ((d.carrelPuts k l bs).1.slot k) = { d.slot k with carrel := memPuts (d.slot k).carrel l bs } ∧
    But k d.slot (d.carrelPuts k l bs).1.slot ∧ DevOnly [.cat] d (d.carrelPuts k l bs).1 := by
  induction l generalizing d bs with
  | nil => exact ⟨rfl, rfl, fun _ _ => rfl, DevOnly.refl _ _⟩
  | cons x l ih =>
    obtain ⟨o, n⟩ := x
    obtain ⟨p1, p2, p3, p4⟩ := carrelPut_quiet d k o (bs.take n) h
    obtain ⟨q1, q2, q3, q4⟩ := ih (d.carrelPut k o (bs.take n)).1 (bs.drop n) (by rw [p2]; exact h)
    simp only [Dev.carrelPuts]
    refine ⟨by simp [p1, q1], ?_, fun j hj => by rw [q3 j hj, p3 j hj], p4.trans q4⟩
    rw [q2, p2]; rfl

theorem carrelWrite_quiet (d : Dev) (k a : Nat) (bs : Bytes) (h : (d.slot k).carrelUe = []) :
    (d.carrelWrite k a bs).2 = true ∧ ((d.carrelWrite k a bs).1.slot k) = { d.slot k with carrel := carPut (d.slot k).carrel a bs } ∧
    But k d.slot (d.carrelWrite k a bs).1.slot ∧ DevOnly [.cat] d (d.carrelWrite k a bs).1 := carrelPuts_quiet _ d k bs h

theorem unitOk_true {b : Bool} {a : Ans} (h : b = true) : unitOk b a = a := by simp [unitOk, h]

theorem part_upFlight (d : Dev) (q i : Nat) (f : Flight → Flight) (p : Nat) : (d.upFlight q i f).part p = d.part p := rfl

theorem ledger_sat (d : Dev) (p q i : Nat) (l : Led) : ((d.ledger p q i l).part p).sat = satAdd 64 (d.part p).sat l.sat := by
  simp [Dev.ledger, part_upFlight, Part.ledger]

theorem slot_ledger (d : Dev) (p q i : Nat) (l : Led) (k : Nat) : (d.ledger p q i l).slot k = d.slot k := rfl

theorem physRead_quiet (d : Dev) (rd pa n : Nat) (h : ∀ c, locOf pa ≠ .carrel c) (hu : d.mem.ueUnits = []) :
    d.physRead rd pa n Ecc.quiet = (d, some (tgets 0 d.mem.bytes pa n)) := by
  have hm : d.memRead rd pa n Ecc.quiet = (d, some (tgets 0 d.mem.bytes pa n)) := by
    have e : d.memRead rd pa n Ecc.quiet = (if d.mem.ueUnits.filter (fun u => meets (unitOf pa) u pa n) = [] then
        (d, some (tgets 0 d.mem.bytes pa n)) else (d.each (d.mem.ueUnits.filter (fun u => meets (unitOf pa) u pa n)) (fun d u => d.memUe u rd), none)) := rfl
    rw [e, hu]; rfl
  unfold Dev.physRead
  split
  · rename_i c hc; exact absurd hc (h c)
  · exact hm

theorem readPieces_quiet (rd : Nat) (l : List (Nat × Nat)) (d : Dev) (h : ∀ x ∈ l, ∀ c, locOf x.1 ≠ .carrel c) (hu : d.mem.ueUnits = []) :
    d.readPieces rd Ecc.quiet l = (d, some (memGets d.mem.bytes l)) := by
  induction l with
  | nil => rfl
  | cons x l ih =>
    obtain ⟨pa, n⟩ := x
    rw [Dev.readPieces, physRead_quiet d rd pa n (h (pa, n) (List.mem_cons_self ..)) hu]
    simp only [ih (fun y hy => h y (List.mem_cons_of_mem _ hy))]
    rfl

theorem vaRead_quiet {d : Dev} {p va n need : Nat} {own : Bool} {l : List (Nat × Nat)} (rd : Nat) (h : Admits d p va n need own l) :
    d.vaRead p va n need rd own Ecc.quiet = (d, .ok (memGets d.mem.bytes l)) := by
  unfold Dev.vaRead
  rw [h.1]
  simp only [readPieces_quiet rd l d h.2.1 h.2.2.1]

theorem memWrite_quiet (d : Dev) (rd pa : Nat) (bs : Bytes) (ha : d.mem.accs = []) (hu : d.mem.ueUnits = []) :
    (d.memWrite rd pa bs).2 = true ∧ (d.memWrite rd pa bs).1.mem.bytes = tputs 0 d.mem.bytes pa bs ∧
    (d.memWrite rd pa bs).1.mem.accs = [] ∧ (d.memWrite rd pa bs).1.mem.ueUnits = [] ∧ DevOnly [.mem] d (d.memWrite rd pa bs).1 := by
  unfold Dev.memWrite Dev.accHolds
  simp only [ha, List.any_nil, Bool.false_eq_true, if_false]
  unfold Dev.memPut
  simp only [hu, List.filter_nil, Dev.each, List.foldl_nil]
  exact ⟨rfl, rfl, ha, by simp [hu], devOnly_upMem _ _⟩

theorem physWrite_quiet (d : Dev) (rd pa : Nat) (bs : Bytes) (h : ∀ c, locOf pa ≠ .carrel c) :
    d.physWrite rd pa bs = d.memWrite rd pa bs := by
  unfold Dev.physWrite
  split
  · rename_i c hc; exact absurd hc (h c)
  · rfl

theorem writePieces_quiet (rd : Nat) (l : List (Nat × Nat)) (d : Dev) (bs : Bytes) (h : ∀ x ∈ l, ∀ c, locOf x.1 ≠ .carrel c)
    (ha : d.mem.accs = []) (hu : d.mem.ueUnits = []) :
    (d.writePieces rd l bs).2 = true ∧ (d.writePieces rd l bs).1.mem.bytes = memPuts d.mem.bytes l bs ∧
    DevOnly [.mem] d (d.writePieces rd l bs).1 := by
  induction l generalizing d bs with
  | nil => exact ⟨rfl, rfl, DevOnly.refl _ _⟩
  | cons x l ih =>
    obtain ⟨pa, n⟩ := x
    have e := physWrite_quiet d rd pa (bs.take n) (h (pa, n) (List.mem_cons_self ..))
    obtain ⟨p1, p2, p3, p4, p5⟩ := memWrite_quiet d rd pa (bs.take n) ha hu
    obtain ⟨q1, q2, q3⟩ := ih (d.memWrite rd pa (bs.take n)).1 (bs.drop n) (fun y hy => h y (List.mem_cons_of_mem _ hy)) p3 p4
    simp only [Dev.writePieces, e]
    refine ⟨by simp [p1, q1], ?_, p5.trans q3⟩
    rw [q2, p2]; rfl

theorem devOnly_staleRegions (d : Dev) (p va n : Nat) : DevOnly [.mld, .evc] d (d.staleRegions p va n) := by
  unfold Dev.staleRegions
  refine devOnly_each _ _ (fun d a => ?_) d
  exact ((devOnly_upMld _ _).mono (by simp)).trans ((devOnly_raise _ _ _).mono (by simp))

theorem vaWrite_quiet {d : Dev} {p va need : Nat} {own : Bool} {l : List (Nat × Nat)} {bs : Bytes} (rd : Nat)
    (h : Admits d p va bs.length need own l) :
    (d.vaWrite p va need rd own bs).2 = .ok [] ∧ (d.vaWrite p va need rd own bs).1.mem.bytes = memPuts d.mem.bytes l bs ∧
    DevOnly [.mld, .evc, .mem] d (d.vaWrite p va need rd own bs).1 := by
  unfold Dev.vaWrite
  rw [h.1]
  have hs := devOnly_staleRegions d p va bs.length
  have hm : (d.staleRegions p va bs.length).mem = d.mem := hs .mem (by simp)
  obtain ⟨q1, q2, q3⟩ := writePieces_quiet rd l (d.staleRegions p va bs.length) bs h.2.1 (by rw [hm]; exact h.2.2.2) (by rw [hm]; exact h.2.2.1)
  simp only [q1, if_true]
  exact ⟨trivial, by rw [q2, hm], (hs.mono (by simp)).trans (q3.mono (by simp))⟩

theorem devOnly_upCell (d : Dev) (n : Nat) (f : Slot → Slot) : DevOnly [.cat] d (d.upCell n f) := by
  unfold Dev.upCell; split
  · exact devOnly_upCat _ _
  · exact DevOnly.refl _ _

theorem runs_upCell (d : Dev) (n : Nat) (f : Slot → Slot) : (d.upCell n f).cat.runs = d.cat.runs := by
  unfold Dev.upCell; split <;> rfl

theorem each_inv {α β : Type} (g : Dev → β) (l : List α) (f : Dev → α → Dev) (h : ∀ d a, g (f d a) = g d) (d : Dev) : g (d.each l f) = g d := by
  unfold Dev.each
  induction l generalizing d with
  | nil => rfl
  | cons a l ih => rw [List.foldl_cons, ih, h]

theorem trace_runs (d : Dev) (a b c e : Nat) : (d.trace a b c e).cat.runs = d.cat.runs := by
  unfold Dev.trace
  split
  · simp only [upCat_cat]; split <;> rfl
  · rfl

theorem find_updWhere {α : Type} (p : α → Bool) (f : α → α) (hf : ∀ x, p (f x) = p x) (l : List α) : (updWhere p f l).find? p = (l.find? p).map f := by
  unfold updWhere
  induction l with
  | nil => rfl
  | cons a l ih =>
    by_cases h : p a
    · simp [h, hf]
    · simp [h, ih]

theorem flight_endWork (d : Dev) (q i st x y : Nat) (f : Flight) (h : d.flight q i = some f) (hs : f.status = none) :
    ((d.endWork q i st x y).flight q i).map (·.status) = some (some st) := by
  unfold Dev.endWork Dev.upFlight Dev.flight at *
  simp only [upQue_que]
  rw [find_updWhere _ _ (fun x => by split <;> rfl), h]
  simp [hs]

theorem runs_issue {c : Instr} {s : State} {cell op : Nat} {o : Opds} {r : Run} {k : Nat} {bs : List Block} {post : Dev → Prop} {f : Dev → Dev}
    (h : Issues s cell op o r k) (e : exec c s = unitOk (decide (cell < 1024)) (onWork s f)) (D : Dev) (eD : f s.dev = D)
    (ho : DevOnly bs s.dev D) (hp : post D) : Runs c s bs post := by
  refine runs_onWork (f := f) (e.trans (unitOk_true (decide_eq_true h.1))) h.2.1 ?_ ?_ <;> rw [eD] <;> assumption

theorem slot_upSlot_id (d : Dev) (k j : Nat) : (d.upSlot k id).slot j = d.slot j := by
  rw [slot_upSlot]; split
  · rename_i h; rw [h]; rfl
  · rfl

end Sys2Proof.Machine
end

