-- ==== Sys2Proof/Laws/Memory.lean ====
section
/-! SUPPORT. What memory accesses change; what the report to the tray controller leaves as it is; the flight of one work order after an
update of one. -/

namespace Sys2Proof.Machine

/-! ### The report (R426) -/

@[simp] theorem report_now (old d : Dev) : (Dev.report old d).now = d.now := devOnly_report old d .now (by simp)
@[simp] theorem report_free (old d : Dev) : (Dev.report old d).free = d.free := devOnly_report old d .free (by simp)
@[simp] theorem report_cat (old d : Dev) : (Dev.report old d).cat = d.cat := devOnly_report old d .cat (by simp)
@[simp] theorem report_mld (old d : Dev) : (Dev.report old d).mld = d.mld := devOnly_report old d .mld (by simp)
@[simp] theorem report_que (old d : Dev) : (Dev.report old d).que = d.que := devOnly_report old d .que (by simp)
@[simp] theorem report_syn (old d : Dev) : (Dev.report old d).syn = d.syn := devOnly_report old d .syn (by simp)
@[simp] theorem report_evc (old d : Dev) : (Dev.report old d).evc = d.evc := devOnly_report old d .evc (by simp)
@[simp] theorem report_mem (old d : Dev) : (Dev.report old d).mem = d.mem := devOnly_report old d .mem (by simp)
@[simp] theorem report_ports (old d : Dev) : (Dev.report old d).ports = d.ports := devOnly_report old d .ports (by simp)
@[simp] theorem report_rte (old d : Dev) : (Dev.report old d).rte = d.rte := devOnly_report old d .rte (by simp)
@[simp] theorem report_ldl (old d : Dev) : (Dev.report old d).ldl = d.ldl := devOnly_report old d .ldl (by simp)
@[simp] theorem report_hst (old d : Dev) : (Dev.report old d).hst = d.hst := devOnly_report old d .hst (by simp)
@[simp] theorem report_bind (old d : Dev) : (Dev.report old d).bind = d.bind := devOnly_report old d .bind (by simp)
@[simp] theorem report_pwr (old d : Dev) : (Dev.report old d).pwr = d.pwr := devOnly_report old d .pwr (by simp)
@[simp] theorem report_thm (old d : Dev) : (Dev.report old d).thm = d.thm := devOnly_report old d .thm (by simp)
@[simp] theorem report_rst (old d : Dev) : (Dev.report old d).rst = d.rst := devOnly_report old d .rst (by simp)
@[simp] theorem report_flash (old d : Dev) : (Dev.report old d).flash = d.flash := devOnly_report old d .flash (by simp)
@[simp] theorem report_upd (old d : Dev) : (Dev.report old d).upd = d.upd := devOnly_report old d .upd (by simp)
@[simp] theorem report_sec (old d : Dev) : (Dev.report old d).sec = d.sec := devOnly_report old d .sec (by simp)
@[simp] theorem report_twin (old d : Dev) : (Dev.report old d).twin = d.twin := devOnly_report old d .twin (by simp)
@[simp] theorem report_acc (old d : Dev) : (Dev.report old d).acc = d.acc := devOnly_report old d .acc (by simp)
@[simp] theorem report_slot (old d : Dev) (k : Nat) : (Dev.report old d).slot k = d.slot k := by simp only [Dev.slot, report_cat]
@[simp] theorem report_part (old d : Dev) (k : Nat) : (Dev.report old d).part k = d.part k := by simp only [Dev.part, report_mld]
@[simp] theorem report_queue (old d : Dev) (k : Nat) : (Dev.report old d).queue k = d.queue k := by simp only [Dev.queue, report_que]
@[simp] theorem report_counter (old d : Dev) (k : Nat) : (Dev.report old d).counter k = d.counter k := by simp only [Dev.counter, report_syn]
@[simp] theorem report_src (old d : Dev) (k : Nat) : (Dev.report old d).src k = d.src k := by simp only [Dev.src, report_evc]
@[simp] theorem report_group (old d : Dev) (k : Nat) : (Dev.report old d).group k = d.group k := by simp only [Dev.group, report_evc]
@[simp] theorem report_stack (old d : Dev) (k : Nat) : (Dev.report old d).stack k = d.stack k := by simp only [Dev.stack, report_mem]
@[simp] theorem report_port (old d : Dev) (k : Nat) : (Dev.report old d).port k = d.port k := by simp only [Dev.port, report_ports]
@[simp] theorem report_hport (old d : Dev) (k : Nat) : (Dev.report old d).hport k = d.hport k := by simp only [Dev.hport, report_hst]
@[simp] theorem report_qp (old d : Dev) (k : Nat) : (Dev.report old d).qp k = d.qp k := by simp only [Dev.qp, report_hst]
@[simp] theorem report_evq (old d : Dev) (k : Nat) : (Dev.report old d).evq k = d.evq k := by simp only [Dev.evq, report_hst]
@[simp] theorem report_plan (old d : Dev) (k : Nat) : (Dev.report old d).plan k = d.plan k := by simp only [Dev.plan, report_ldl]
@[simp] theorem report_pquad (old d : Dev) (k : Nat) : (Dev.report old d).pquad k = d.pquad k := by simp only [Dev.pquad, report_pwr]
@[simp] theorem report_sensor (old d : Dev) (k : Nat) : (Dev.report old d).sensor k = d.sensor k := by simp only [Dev.sensor, report_thm]
@[simp] theorem report_flight (old d : Dev) (q i : Nat) : (Dev.report old d).flight q i = d.flight q i := by simp only [Dev.flight, report_que]

theorem devOnly_notifyPart (d : Dev) (p : Nat) : DevOnly [.mgmt, .out] d (d.notifyPart p) := devOnly_notify _ _ _

/-! ### Work orders in flight -/

theorem find_updWhere_ne {α : Type} (p r : α → Bool) (f : α → α) (hr : ∀ x, p x = true → r x = false) (hf : ∀ x, p x = true → r (f x) = false)
    (l : List α) : (updWhere p f l).find? r = l.find? r := by
  unfold updWhere
  induction l with
  | nil => rfl
  | cons a l ih =>
    by_cases h : p a
    · simp [h, hr a h, hf a h, ih]
    · simp [h, ih, List.find?_cons]

/-- An update of one work order's flight that keeps its name. -/
theorem flight_upFlight (d : Dev) (q i : Nat) (f : Flight → Flight) (hf : ∀ x, (f x).queue = x.queue ∧ (f x).index = x.index) (q' i' : Nat) :
    (d.upFlight q i f).flight q' i' = if q' = q ∧ i' = i then (d.flight q i).map f else d.flight q' i' := by
  unfold Dev.upFlight Dev.flight
  simp only [upQue_que]
  split
  · rename_i h; obtain ⟨rfl, rfl⟩ := h
    exact find_updWhere _ _ (fun x => by rw [(hf x).1, (hf x).2]) _
  · rename_i h
    refine find_updWhere_ne _ _ _ (fun x hx => ?_) (fun x hx => ?_) _
    · simp at hx ⊢; rintro rfl rfl; exact h ⟨hx.1, hx.2⟩
    · simp at hx ⊢; rw [(hf x).1, (hf x).2]; rintro rfl rfl; exact h ⟨hx.1, hx.2⟩

theorem flight_startWork (d : Dev) (q i q' i' : Nat) :
    (d.startWork q i).flight q' i' = if q' = q ∧ i' = i then (d.flight q i).map (fun f => { f with started := true }) else d.flight q' i' :=
  flight_upFlight d q i (fun f => { f with started := true }) (fun _ => ⟨rfl, rfl⟩) q' i'

/-- R155: the unit's end is the first status that counts. -/
theorem flight_end (d : Dev) (q i st x y q' i' : Nat) :
    (d.endWork q i st x y).flight q' i' = if q' = q ∧ i' = i then
      (d.flight q i).map (fun f => if f.status.isSome then f else { f with status := some st, detail := x, result := y }) else d.flight q' i' :=
  flight_upFlight _ _ _ _ (fun f => by split <;> exact ⟨rfl, rfl⟩) _ _

theorem flight_ledger (d : Dev) (p q i : Nat) (l : Led) (q' i' : Nat) :
    (d.ledger p q i l).flight q' i' = if q' = q ∧ i' = i then
      (d.flight q i).map (fun f => { f with sat := satAdd 32 f.sat l.sat, nan := satAdd 32 f.nan l.nan, inv := satAdd 32 f.inv l.inv })
      else d.flight q' i' :=
  flight_upFlight (d.upPart p (fun x => x.ledger l)) q i
    (fun f => { f with sat := satAdd 32 f.sat l.sat, nan := satAdd 32 f.nan l.nan, inv := satAdd 32 f.inv l.inv }) (fun _ => ⟨rfl, rfl⟩) q' i'

/-- What a unit takes is in flight, of its opcode, untaken and not ended. -/
theorem take_some {d : Dev} {q i op : Nat} {f : Flight} (h : d.take q i op = some f) :
    d.flight q i = some f ∧ woOp f.wo = op ∧ f.started = false ∧ f.status = none := by
  unfold Dev.take at h
  split at h
  · rename_i g hg
    split at h
    · rename_i hc
      cases h
      simp at hc
      exact ⟨hg, hc.1.1, hc.1.2, hc.2⟩
    · cases h
  · cases h

theorem flight_name {d : Dev} {q i : Nat} {f : Flight} (h : d.flight q i = some f) : f.queue = q ∧ f.index = i := by
  have := List.find?_some h; simpa using this

theorem flight_same {d e : Dev} (h : Block.same .que d e) (q i : Nat) : e.flight q i = d.flight q i := by
  simp only [Dev.flight, show e.que = d.que from h]

/-- A trace entry changes no slot. -/
@[simp] theorem slot_trace (d : Dev) (a b c e k : Nat) : (d.trace a b c e).slot k = d.slot k := by
  have h : ∀ x : Cat, ∀ t : TraceEnt, (if x.trStop && trUsed x == 4095 then
      { x with trLost := satAdd 16 x.trLost 1, trMissed := satAdd 48 x.trMissed 1 } else trPut x t).slots = x.slots := by
    intro x t; split <;> rfl
  unfold Dev.trace
  split
  · simp only [Dev.slot, upCat_cat, h]
  · rfl

/-! ### Memory -/

theorem devOnly_stackCe (d : Dev) (s : Nat) : DevOnly [.mem, .evc] d (d.stackCe s) := by
  unfold Dev.stackCe
  dsimp only
  split
  · exact ((devOnly_upMem _ _).mono (by simp)).trans ((devOnly_raise _ _ _).mono (by simp))
  · exact (devOnly_upMem _ _).mono (by simp)

theorem devOnly_memCe (d : Dev) (a : Nat) : DevOnly [.mem, .evc] d (d.memCe a) := by
  unfold Dev.memCe; split
  · exact devOnly_stackCe _ _
  · exact (devOnly_upMem _ _).mono (by simp)
  · exact DevOnly.refl _ _

theorem devOnly_memUe (d : Dev) (a r : Nat) : DevOnly [.mem, .evc] d (d.memUe a r) := by
  unfold Dev.memUe; split
  · exact (((devOnly_upMem _ _).mono (by simp)).trans ((devOnly_upMem _ _).mono (by simp))).trans ((devOnly_raise _ _ _).mono (by simp))
  · exact ((devOnly_upMem _ _).mono (by simp)).trans ((devOnly_raise _ _ _).mono (by simp))
  · exact DevOnly.refl _ _

theorem devOnly_carrelUe1 (d : Dev) (k o : Nat) : DevOnly [.cat, .evc] d (d.carrelUe1 k o) :=
  ((devOnly_upCat _ _).mono (by simp)).trans ((devOnly_raise _ _ _).mono (by simp))

theorem devOnly_carrelRead (d : Dev) (k a n : Nat) (ce ue : List Nat) : DevOnly [.cat, .evc] d (d.carrelRead k a n ce ue).1 := by
  have h := (devOnly_each (bs := [.cat, .evc]) (ce.filter (fun u => meetsCar u a n)) (fun d _ => d.carrelCe1 (k / 512))
    (fun d _ => (devOnly_upCat _ _).mono (by simp)) d).trans ((devOnly_upCat _ (fun c => { c with slots := tup Slot.init c.slots k (fun s =>
      { s with carrelUe := (ue.filter (fun u => meetsCar u a n)).foldl (fun l u => insertNat (u % 2 ^ 21 / 8 * 8) l) s.carrelUe }) })).mono (by simp))
  unfold Dev.carrelRead
  dsimp only
  split
  · exact h
  · exact h.trans (devOnly_each _ _ (fun d u => devOnly_carrelUe1 d k u) _)

theorem devOnly_carrelPut (d : Dev) (k o : Nat) (bs : Bytes) : DevOnly [.cat, .evc] d (d.carrelPut k o bs).1 :=
  ((devOnly_upCat _ _).mono (by simp)).trans (devOnly_each _ _ (fun d u => devOnly_carrelUe1 d k u) _)

theorem devOnly_carrelPuts (l : List (Nat × Nat)) (d : Dev) (k : Nat) (bs : Bytes) : DevOnly [.cat, .evc] d (d.carrelPuts k l bs).1 := by
  induction l generalizing d bs with
  | nil => exact DevOnly.refl _ _
  | cons x l ih => exact (devOnly_carrelPut d k x.1 (bs.take x.2)).trans (ih _ _)

theorem devOnly_carrelWrite (d : Dev) (k a : Nat) (bs : Bytes) : DevOnly [.cat, .evc] d (d.carrelWrite k a bs).1 := devOnly_carrelPuts _ _ _ _

theorem devOnly_memRead (d : Dev) (r pa n : Nat) (e : Ecc) : DevOnly [.mem, .evc] d (d.memRead r pa n e).1 := by
  have h := (devOnly_each (bs := [.mem, .evc]) (e.ce.filter (fun u => meets (unitOf pa) (u / unitOf pa * unitOf pa) pa n)) (fun d u => d.memCe u)
    (fun d u => devOnly_memCe d u) d).trans ((devOnly_upMem _ (fun m => { m with
      ueUnits := (e.ue.filter (fun u => meets (unitOf pa) (u / unitOf pa * unitOf pa) pa n)).foldl (fun l u => insertNat (u / unitOf pa * unitOf pa) l) m.ueUnits })).mono (by simp))
  unfold Dev.memRead
  dsimp only
  split
  · exact h
  · exact h.trans (devOnly_each _ _ (fun d u => devOnly_memUe d u r) _)

theorem devOnly_memPut (d : Dev) (r pa : Nat) (bs : Bytes) : DevOnly [.mem, .evc] d (d.memPut r pa bs).1 :=
  ((devOnly_upMem _ _).mono (by simp)).trans (devOnly_each _ _ (fun d u => devOnly_memUe d u r) _)

theorem devOnly_memWrite (d : Dev) (r pa : Nat) (bs : Bytes) : DevOnly [.mem, .evc] d (d.memWrite r pa bs).1 := by
  unfold Dev.memWrite; split
  · exact (devOnly_upMem _ _).mono (by simp)
  · exact devOnly_memPut _ _ _ _

theorem devOnly_physRead (d : Dev) (r pa n : Nat) (e : Ecc) : DevOnly [.cat, .mem, .evc] d (d.physRead r pa n e).1 := by
  unfold Dev.physRead; split
  · split
    · exact (devOnly_carrelRead _ _ _ _ _ _).mono (by simp)
    · exact DevOnly.refl _ _
  · exact (devOnly_memRead _ _ _ _ _).mono (by simp)

theorem devOnly_physWrite (d : Dev) (r pa : Nat) (bs : Bytes) : DevOnly [.cat, .mem, .evc] d (d.physWrite r pa bs).1 := by
  unfold Dev.physWrite; split
  · split
    · exact (devOnly_carrelWrite _ _ _ _).mono (by simp)
    · exact DevOnly.refl _ _
  · exact (devOnly_memWrite _ _ _ _).mono (by simp)

theorem devOnly_readPieces (r : Nat) (e : Ecc) (l : List (Nat × Nat)) (d : Dev) : DevOnly [.cat, .mem, .evc] d (d.readPieces r e l).1 := by
  induction l generalizing d with
  | nil => exact DevOnly.refl _ _
  | cons x l ih =>
    have h := (devOnly_physRead d r x.1 x.2 e).trans (ih _)
    simp only [Dev.readPieces]
    split <;> exact h

theorem devOnly_writePieces (r : Nat) (l : List (Nat × Nat)) (d : Dev) (bs : Bytes) : DevOnly [.cat, .mem, .evc] d (d.writePieces r l bs).1 := by
  induction l generalizing d bs with
  | nil => exact DevOnly.refl _ _
  | cons x l ih => exact (devOnly_physWrite d r x.1 (bs.take x.2)).trans (ih _ _)

theorem devOnly_vaRead (d : Dev) (p va n need r : Nat) (own : Bool) (e : Ecc) : DevOnly [.cat, .mem, .evc] d (d.vaRead p va n need r own e).1 := by
  unfold Dev.vaRead; split
  · exact (devOnly_denyPage _ _).mono (by simp)
  · rename_i l _
    have h := devOnly_readPieces r e l d
    split <;> (rename_i hq; rw [hq] at h; exact h)

theorem devOnly_vaWrite (d : Dev) (p va need r : Nat) (own : Bool) (bs : Bytes) :
    DevOnly [.cat, .mem, .evc, .mld] d (d.vaWrite p va need r own bs).1 := by
  unfold Dev.vaWrite; split
  · exact (devOnly_denyPage _ _).mono (by simp)
  · exact ((devOnly_staleRegions _ _ _ _).mono (by simp)).trans ((devOnly_writePieces _ _ _ _).mono (by simp))


end Sys2Proof.Machine
end

