-- ==== Sys2Proof/Laws/Registers.lean ====
section
/-! SUPPORT. What register accesses change beside the register: a requester's shadow and pending words, the access-error counter. -/

namespace Sys2Proof.Machine

theorem devOnly_upAccess (d : Dev) (r : Requester) (f : Access → Access) : DevOnly [.acc] d (d.upAccess r f) := by
  intro b h; cases b <;> first | rfl | simp at h

theorem devOnly_accessErr (d : Dev) : DevOnly [.sec] d d.accessErr := devOnly_upSec _ _

@[simp] theorem access_upAccess (d : Dev) (r : Requester) (f : Access → Access) : (d.upAccess r f).access r = f (d.access r) := by
  simp [Dev.access, Dev.upAccess]

theorem devOnly_dropPend (d : Dev) (r : Requester) (o : Option Nat) : DevOnly [.acc, .sec] d (d.dropPend r o) := by
  unfold Dev.dropPend
  dsimp only
  split
  · exact ((devOnly_upAccess _ _ _).mono (by simp)).trans ((devOnly_accessErr _).mono (by simp))
  · exact DevOnly.refl _ _

/-- R16: with nothing pending nothing is discarded. -/
theorem dropPend_none (d : Dev) (r : Requester) (o : Option Nat) (h : (d.access r).pdReg = none) : d.dropPend r o = d := by
  unfold Dev.dropPend; simp [h]

theorem dropPend_sec (d : Dev) (r : Requester) (o : Option Nat) :
    (d.dropPend r o).sec = { d.sec with accessErr := (d.dropPend r o).sec.accessErr } := by
  unfold Dev.dropPend
  dsimp only
  split <;> rfl

/-- R16, R17: a command that is one register write, by a requester that reaches the registers. -/
theorem runs_onReg {c : Instr} {s : State} {r : Requester} {bs : List Block} {post : Dev → Prop} {f : Dev → Dev}
    (h : exec c s = onReg s r f) (hr : s.dev.reaches r = true) (ha : Block.acc ∈ bs) (hs : Block.sec ∈ bs) (hm : Block.mgmt ∈ bs)
    (ho : Block.out ∈ bs) (only : ∀ d, DevOnly [.acc, .sec] s.dev d → DevOnly bs d (f d))
    (p : ∀ d, DevOnly [.acc, .sec] s.dev d → post (Dev.report s.dev (f d))) : Runs c s bs post := by
  have hd := devOnly_dropPend s.dev r none
  refine runs_onDevN (f := fun d => d.regCommand r f) h ?_ hm ho ?_
  · simp only [Dev.regCommand, hr, if_true]
    exact (hd.mono (by simp [ha, hs])).trans (only _ hd)
  · simp only [Dev.regCommand, hr, if_true]
    exact p _ hd

end Sys2Proof.Machine
end

