-- ==== Sys2Proof/Tests/Slice0.lean ====
section
/-! SUPPORT. Tests: what WellFormed refuses, a few single steps, and states that meet the hypotheses of the block's own statements. Expected
results are read from the rules that the names cite. -/

namespace Sys2Proof.Tests

open Sys2Proof Sys2Proof.Machine

/-! ### WellFormed refuses each kind of ill-formed term (R9, R20, R98, R199, R219, R274, R354, R425) -/

def opds : Opds := { fmtA := 0, fmtB := 0, flags := 0, opd0 := 0, opd1 := 0, opd2 := 0 }

theorem test_wf_nop : (Instr.nop 1023 opds).wf = true := by decide
theorem test_wf_cell_beyond : (Instr.nop 1024 opds).wf = false := by decide
theorem test_wf_wide_format_a : (Instr.nop 0 { opds with fmtA := 256 }).wf = false := by decide
theorem test_wf_wide_format_b : (Instr.nop 0 { opds with fmtB := 256 }).wf = false := by decide
theorem test_wf_wide_flags : (Instr.nop 0 { opds with flags := 256 }).wf = false := by decide
theorem test_wf_wide_operand0 : (Instr.jmp 0 { opds with opd0 := 2 ^ 32 }).wf = false := by decide
theorem test_wf_wide_operand1 : (Instr.jmp 0 { opds with opd1 := 2 ^ 32 }).wf = false := by decide
theorem test_wf_wide_operand2 : (Instr.jmp 0 { opds with opd2 := 2 ^ 32 }).wf = false := by decide
theorem test_wf_slot_17 : slotNo 17 = false := by decide
theorem test_wf_slot_2048 : slotNo 2048 = false := by decide
theorem test_wf_slot_16 : slotNo 2032 = true := by decide
theorem test_wf_sensor_84 : (Instr.sensorPlausible 84).wf = false := by decide
theorem test_wf_quadrant_4 : (Instr.junctionThrottleTick 4).wf = false := by decide
theorem test_wf_stack_16 : (Instr.hbmThrottleTick 16).wf = false := by decide
theorem test_wf_partition_16 : (Instr.fenceDrainEnd 16).wf = false := by decide

/-! ### Single steps -/

/-- The reset state with one command in its queue. -/
def at0 (c : Instr) : State := { State.reset with pending := [c] }

/-- The device of a next state. -/
def devOf (a : Host.Outcome State Fault Refusal) : Option Dev := match a with | .next t => some t.dev | _ => none

/-- R9: a cell that the device does not have. -/
theorem test_step_no_such_cell : step (at0 (.nop 1024 opds)) = .fault .noSuchUnit := rfl
/-- R345: the pin's release is seen. -/
theorem test_step_pin_release : (devOf (step (at0 .pinResetRelease))).map (fun d => d.rst.pinHeld) = some false := rfl
/-- R29: a loss of the reference clock. -/
theorem test_step_refclk_return : (devOf (step (at0 .refclkReturn))).map (fun d => d.rst.refclk) = some true := rfl
/-- R437: VBKP is lost. -/
theorem test_step_vbkp_loss : (devOf (step (at0 .vbkpLoss))).map (fun d => d.rst.vbkp) = some false := rfl

/-! ### Witnesses -/

/-- FusesOnlyGrow: reset meets its hypotheses, by a step that runs no command. -/
theorem wit_fuses_idle : FusesFrom VendorFuses.init OwnerFuses.init State.reset ∧ step State.reset = .next State.reset.tick := by
  refine ⟨⟨rfl, ?_⟩, rfl⟩
  unfold OwnerFuses.grew bitsGrew
  simp [State.reset]

/-- FusesOnlyGrow: and by one that runs a command. -/
theorem wit_fuses_command : ∃ t : State, FusesFrom VendorFuses.init OwnerFuses.init (at0 .vbkpLoss) ∧ step (at0 .vbkpLoss) = .next t := by
  refine ⟨_, ⟨rfl, ?_⟩, rfl⟩
  unfold OwnerFuses.grew bitsGrew
  simp [at0, State.reset]

/-- WellFormedCommandsComplete: a command that fits. -/
theorem wit_well_formed : Instr.vbkpLoss.wf = true := by decide

end Sys2Proof.Tests
end

section
/-! PROOFS. Register accesses that have no effect on a register: those that reach none (R11), and writes that the lock refuses (R14). -/

namespace Sys2Proof.Machine

/-! ### Which accesses reach a register (R11) -/

theorem regFor_four {addr : Nat} (h : addr % 4 = 0) : regFor addr 4 = regAt addr := by simp [regFor, h]

/-- R11: a 64-bit access must name word 0 of a register of two words. -/
theorem regFor_eight_isSome {addr : Nat} (h : addr % 8 = 0) :
    (regFor addr 8).isSome = true ↔ ∃ x, regAt addr = some x ∧ x.word = 0 ∧ x.row.words = 2 := by
  cases hx : regAt addr with
  | none => simp [regFor, h, hx]
  | some x => simp [regFor, h, hx]

theorem regFor_isSome_iff (addr size : Nat) : (regFor addr size).isSome = true ↔
    (size = 4 ∧ addr % 4 = 0 ∧ (regAt addr).isSome = true) ∨
    (size = 8 ∧ addr % 8 = 0 ∧ ∃ x, regAt addr = some x ∧ x.word = 0 ∧ x.row.words = 2) := by
  by_cases h4 : size = 4 ∧ addr % 4 = 0
  · obtain ⟨rfl, ha⟩ := h4
    simp [regFor_four ha, ha]
  · by_cases h8 : size = 8 ∧ addr % 8 = 0
    · obtain ⟨rfl, ha⟩ := h8
      simp [regFor_eight_isSome ha, ha]
    · have hn : regFor addr size = none := by simp [regFor, h4, h8]
      rw [hn]
      simp only [Option.isSome_none, Bool.false_eq_true, false_iff]
      rintro (⟨hs, ha, -⟩ | ⟨hs, ha, -⟩)
      · exact h4 ⟨hs, ha⟩
      · exact h8 ⟨hs, ha⟩

/-! ### An access that reaches no register -/

theorem regRead_none (v : VendorFuses) (w : OwnerFuses) (d : Dev) (r : Requester) {addr size : Nat} (h : regFor addr size = none) :
    regRead v w d r addr size = ((d.dropPend r none).accessErr, 0) := by
  unfold regRead; rw [h]

theorem regWrite_none (v : VendorFuses) (w : OwnerFuses) (d : Dev) (r : Requester) {addr size : Nat} (value : Nat)
    (h : regFor addr size = none) : regWrite v w d r addr size value = (d.dropPend r none).accessErr := by
  unfold regWrite; rw [h]

theorem exec_registerLowWordRead_none {s : State} {r : Requester} {addr size : Nat} (hr : s.dev.reaches r = true)
    (h : regFor addr size = none) :
    exec (.registerLowWordRead r addr size) s =
      onDev s (fun d => (d.dropPend r none).accessErr.emit (.regData r addr 0)) := by
  show Host.Outcome.next { s with dev := doRegisterLowWordRead s.vendor s.owner s.dev r addr size } = _
  simp only [doRegisterLowWordRead, hr, if_true, regRead_none _ _ _ _ h, onDev]

theorem exec_registerWrite_none {s : State} {r : Requester} {addr size value : Nat} (hr : s.dev.reaches r = true)
    (h : regFor addr size = none) :
    exec (.registerWrite r addr size value) s = onDevN s (fun d => (d.dropPend r none).accessErr) := by
  show Host.Outcome.next { s with dev := Dev.report s.dev (doRegisterWrite s.vendor s.owner s.dev r addr size value) } = _
  simp only [doRegisterWrite, hr, if_true, regWrite_none _ _ _ _ _ h, onDevN]

/-! ### What such an access leaves of the device -/

@[simp] theorem dropPend_out (d : Dev) (r : Requester) (o : Option Nat) : (d.dropPend r o).out = d.out :=
  devOnly_dropPend d r o .out (by simp)

@[simp] theorem dropPend_locked (d : Dev) (r : Requester) (o : Option Nat) : (d.dropPend r o).sec.locked = d.sec.locked := by
  rw [dropPend_sec]

@[simp] theorem accessErr_out (d : Dev) : d.accessErr.out = d.out := rfl

theorem accessErr_sec (d : Dev) : d.accessErr.sec = { d.sec with accessErr := satAdd 32 d.sec.accessErr 1 } := rfl

theorem devOnly_dropPend_accessErr (d : Dev) (r : Requester) (o : Option Nat) :
    DevOnly [.acc, .sec] d (d.dropPend r o).accessErr :=
  (devOnly_dropPend d r o).trans ((devOnly_accessErr _).mono (by simp))

theorem dropPend_accessErr_sec (d : Dev) (r : Requester) (o : Option Nat) :
    (d.dropPend r o).accessErr.sec = { d.sec with accessErr := (d.dropPend r o).accessErr.sec.accessErr } := by
  simp only [accessErr_sec]
  rw [dropPend_sec]

/-- R11, R16: with nothing pending the access is counted once. -/
theorem dropPend_accessErr_count (d : Dev) (r : Requester) (o : Option Nat) (h : (d.access r).pdReg = none) :
    (d.dropPend r o).accessErr.sec.accessErr = satAdd 32 d.sec.accessErr 1 := by
  rw [dropPend_none d r o h, accessErr_sec]

/-! ### A write that the lock refuses (R14) -/

/-- R16: a write to a 64-bit register discards the requester's shadow of it. -/
def Dev.dropShadow (d : Dev) (r : Requester) (x : RegAt) : Dev :=
  if x.row.words = 2 then d.upAccess r (fun a => if a.shReg = some x.off then { a with shReg := none, shadow := [] } else a) else d

theorem devOnly_dropShadow (d : Dev) (r : Requester) (x : RegAt) : DevOnly [.acc] d (d.dropShadow r x) :=
  (devOnly_upAccess _ _ _).ite (DevOnly.refl _ _)

@[simp] theorem dropShadow_sec (d : Dev) (r : Requester) (x : RegAt) : (d.dropShadow r x).sec = d.sec :=
  devOnly_dropShadow d r x .sec (by simp)

theorem devOnly_dropPend_dropShadow (d : Dev) (r : Requester) (x : RegAt) :
    DevOnly [.acc, .sec] d ((d.dropPend r (some x.off)).dropShadow r x) :=
  (devOnly_dropPend d r _).trans ((devOnly_dropShadow _ r x).mono (by simp))

theorem dropPend_dropShadow_sec (d : Dev) (r : Requester) (x : RegAt) :
    ((d.dropPend r (some x.off)).dropShadow r x).sec =
      { d.sec with accessErr := ((d.dropPend r (some x.off)).dropShadow r x).sec.accessErr } := by
  simp only [dropShadow_sec]
  exact dropPend_sec d r _

/-- A refused write drops what the requester has pending elsewhere and its shadow, and raises 0xD400 with the address. -/
theorem regWrite_locked (v : VendorFuses) (w : OwnerFuses) (d : Dev) (r : Requester) {addr size : Nat} (value : Nat) {x : RegAt}
    (hx : regFor addr size = some x) (hmay : x.row.who.may r = true) (hlock : x.row.lock = true) (hl : d.sec.locked = true) :
    regWrite v w d r addr size value =
      ((d.dropPend r (some x.off)).dropShadow r x).raise 0xD400 (addr % 2 ^ 32) := by
  have hl' : ((d.dropPend r (some x.off)).dropShadow r x).sec.locked = true := by simp [hl]
  unfold Dev.dropShadow at hl' ⊢
  unfold regWrite
  rw [hx]
  simp [hmay, hlock, hl']

end Sys2Proof.Machine
end

section
/-! PROOFS. The obligations about accesses that have no effect on a register, and states that meet their hypotheses. -/

open Sys2Proof Sys2Proof.Machine

/-- Settles O15, from what regFor accepts and from the one effect that read and write share where it accepts nothing. -/
theorem undefinedAccessReadsZeroAndIsCounted : Obligations.UndefinedAccessReadsZeroAndIsCounted := by
  refine ⟨regFor_isSome_iff, fun s r addr size value hr hnone => ⟨?_, ?_⟩⟩
  · refine runs_onDev (exec_registerLowWordRead_none hr hnone) ?_ ⟨?_, ?_, ?_⟩
    · exact ((devOnly_dropPend_accessErr _ _ _).mono (by simp)).trans ((devOnly_emit _ _).mono (by simp))
    · simp
    · exact dropPend_accessErr_sec s.dev r none
    · exact dropPend_accessErr_count s.dev r none
  · refine runs_onDevN (exec_registerWrite_none hr hnone) ?_ (by simp) (by simp) ?_
    · exact (devOnly_dropPend_accessErr _ _ _).mono (by simp)
    · simp only [report_sec]
      exact ⟨dropPend_accessErr_sec s.dev r none, dropPend_accessErr_count s.dev r none⟩

/-- Settles O16: the refused write is a raising of the shell's source 0xD400 on a device whose event concentrator is as it was. -/
theorem lockedRegistersKeepTheirValue : Obligations.LockedRegistersKeepTheirValue := by
  intro s r addr size value x hr hx hmay hlock hl hp
  have hdo : doRegisterWrite s.vendor s.owner s.dev r addr size value = _ :=
    (if_pos hr).trans (regWrite_locked s.vendor s.owner s.dev r value hx hmay hlock hl)
  have hframe := devOnly_dropPend_dropShadow s.dev r x
  have hsec := dropPend_dropShadow_sec s.dev r x
  generalize (s.dev.dropPend r (some x.off)).dropShadow r x = e at hdo hframe hsec
  have hsrc : ∀ k, e.src k = s.dev.src k := src_same (hframe .evc (by simp))
  have hshell : shellSrc 0xD400 = true ∨ (e.src 0xD400).bound = true := Or.inl (by decide)
  have hpend : (e.src 0xD400).pending < 255 := by rwa [hsrc]
  have hraise := devOnly_raise e 0xD400 (addr % 2 ^ 32)
  refine runs_onDevN (f := fun d => doRegisterWrite s.vendor s.owner d r addr size value) rfl ?_ (by simp) (by simp) ?_ <;> rw [hdo]
  · exact (hframe.mono (by simp)).trans (hraise.mono (by simp))
  · have hkeep : (e.raise 0xD400 (addr % 2 ^ 32)).sec = e.sec := hraise .sec (by simp)
    refine ⟨?_, ?_, fun j hj => ?_⟩
    · rwa [report_sec, hkeep]
    · rw [report_src, pending_raise hshell hpend, hsrc]
    · rw [report_src, src_raise hshell hpend, if_neg hj, hsrc]

/-- UndefinedAccessReadsZeroAndIsCounted: a 16-bit access reaches no register, and the host reaches the registers at reset. -/
theorem wit_undefined_access : State.reset.dev.reaches .host = true ∧ regFor regBase 2 = none := ⟨rfl, rfl⟩

/-- The reset state with the ARC lock set. -/
def lockedReset : State := { State.reset with dev := doArcLock State.reset.dev .host }

/-- LockedRegistersKeepTheirValue: once the bound host has set the lock, UPD_CTL is a register that the host may write and that the
lock closes, and nothing is pending at source 0xD400. -/
theorem wit_locked_register : lockedReset.dev.reaches .host = true ∧ lockedReset.dev.sec.locked = true ∧
    (lockedReset.dev.src 0xD400).pending < 255 ∧
    ∃ x, regFor (regBase + winUPD + 4) 4 = some x ∧ x.row.who.may .host = true ∧ x.row.lock = true :=
  ⟨rfl, rfl, by decide, _, rfl, rfl, rfl⟩

end

section
/-! PROOFS. What a command can do to the state beside its effect on the device: whether it completes, and that it leaves the queue, the
vendor fuses and every owner fuse bit that is set. -/

namespace Sys2Proof.Machine

/-! ### Owner fuses only gain bits (R388) -/

theorem bitsGrew_refl {w : Nat} (a : BitVec w) : bitsGrew a a := BitVec.or_self

theorem bitsGrew_or {w : Nat} (a x : BitVec w) : bitsGrew a (a ||| x) := by
  unfold bitsGrew; rw [← BitVec.or_assoc, BitVec.or_self]

theorem bitsGrew_trans {w : Nat} {a b c : BitVec w} (h : bitsGrew a b) (g : bitsGrew b c) : bitsGrew a c := by
  unfold bitsGrew at *; rw [← g, ← BitVec.or_assoc, h]

theorem grew_refl (a : OwnerFuses) : a.grew a := by simp only [OwnerFuses.grew, bitsGrew_refl, and_self]

theorem grew_trans {a b c : OwnerFuses} (h : a.grew b) (g : b.grew c) : a.grew c := by
  obtain ⟨h1, h2, h3, h4, h5, h6, h7, h8, h9, h10, h11, h12⟩ := h
  obtain ⟨g1, g2, g3, g4, g5, g6, g7, g8, g9, g10, g11, g12⟩ := g
  exact ⟨bitsGrew_trans h1 g1, bitsGrew_trans h2 g2, bitsGrew_trans h3 g3, bitsGrew_trans h4 g4, bitsGrew_trans h5 g5,
    bitsGrew_trans h6 g6, bitsGrew_trans h7 g7, bitsGrew_trans h8 g8, bitsGrew_trans h9 g9, bitsGrew_trans h10 g10,
    bitsGrew_trans h11 g11, bitsGrew_trans h12 g12⟩

theorem grew_orHash (w : OwnerFuses) (i : Nat) (x : BitVec 256) : w.grew (w.orHash i x) := by
  have h (p : Prop) [Decidable p] (a : BitVec 256) : bitsGrew a (if p then a ||| x else a) := by
    split
    · exact bitsGrew_or a x
    · exact bitsGrew_refl a
  simp only [OwnerFuses.grew, OwnerFuses.orHash, h, bitsGrew_refl, and_self]

theorem grew_enrolled (w : OwnerFuses) (x : BitVec 4) : w.grew { w with enrolled := w.enrolled ||| x } := by
  simp only [OwnerFuses.grew, bitsGrew_refl, bitsGrew_or, and_self]

/-- R390: a refused owner command leaves the fuses; an executed one leaves them as its action does. -/
theorem ownerCommand_grew (w : OwnerFuses) (d : Dev) (m : Novvan) (req : OwnerFuses → Dev → OwnerReq)
    (act : OwnerFuses → Dev → OwnerFuses × Dev × Nat) (h : ∀ d, w.grew (act w d).1) : w.grew (ownerCommand w d m req act).1 := by
  unfold ownerCommand
  split
  · exact grew_refl w
  · dsimp only
    split
    · exact grew_refl w
    · exact h _

theorem doEnrolKey_grew (v : VendorFuses) (w : OwnerFuses) (d : Dev) (m : Novvan) (slot hash stuck : Nat) (sg : OwnerSig) :
    w.grew (doEnrolKey v w d m slot hash stuck sg).1 := by
  refine ownerCommand_grew _ _ _ _ _ (fun d => ?_)
  dsimp only
  split
  · exact grew_trans (grew_orHash w slot _) (grew_enrolled _ _)
  · exact grew_orHash w slot _

theorem doRevokeSlot_grew (v : VendorFuses) (w : OwnerFuses) (d : Dev) (m : Novvan) (slot stuck : Nat) (sg : OwnerSig) :
    w.grew (doRevokeSlot v w d m slot stuck sg).1 := by
  refine ownerCommand_grew _ _ _ _ _ (fun d => ?_)
  dsimp only
  split <;> simp only [OwnerFuses.grew, bitsGrew_refl, bitsGrew_or, and_self]

theorem doProgramOwnerFuse_grew (v : VendorFuses) (w : OwnerFuses) (d : Dev) (m : Novvan) (field value stuck : Nat) (sg : OwnerSig) :
    w.grew (doProgramOwnerFuse v w d m field value stuck sg).1 := by
  refine ownerCommand_grew _ _ _ _ _ (fun d => ?_)
  dsimp only
  split_ifs <;> simp only [OwnerFuses.grew, bitsGrew_refl, bitsGrew_or, and_self]

/-- R415: the rollback thermometers only rise. -/
theorem rollbackFuses_grew (w : OwnerFuses) (d : Dev) : w.grew (rollbackFuses w d).1 := by
  refine List.foldlRecOn (motive := fun a : OwnerFuses × Dev => w.grew a.1) (List.range 6) _ (grew_refl w) (fun a ha c _ => ?_)
  refine grew_trans ha ?_
  simp only [OwnerFuses.grew, bitsGrew_refl, bitsGrew_or, and_self]

theorem readyBank_grew (w : OwnerFuses) (d : Dev) : w.grew (d.readyBank w).1 := by
  unfold Dev.readyBank
  extract_lets
  split
  · exact grew_refl w
  · exact rollbackFuses_grew w _

theorem doReady_grew (w : OwnerFuses) (d : Dev) : w.grew (doReady w d).1 := by
  unfold doReady
  split
  · exact grew_refl w
  · exact readyBank_grew w _

/-! ### What every command leaves (R9, R388) -/

/-- Answer `a` to state `s` is the fault noSuchUnit unless `ok`, and else a next state with the queue and the vendor fuses of `s` and
every owner fuse bit of `s`. -/
def Ends (s : State) (ok : Bool) (a : Ans) : Prop :=
  ∃ (w : OwnerFuses) (d : Dev), s.owner.grew w ∧ a = unitOk ok (.next { s with owner := w, dev := d })

theorem ends_dev (s : State) (d : Dev) : Ends s true (.next { s with dev := d }) := ⟨s.owner, d, grew_refl _, rfl⟩

theorem ends_owner (s : State) (x : OwnerFuses × Dev) (h : s.owner.grew x.1) : Ends s true (onOwner s x) :=
  ⟨x.1, _, h, rfl⟩

theorem ends_via (s : State) (via : Via) (f : Dev → Dev) : Ends s true (onVia s via f) := by
  cases via <;> exact ends_dev s _

theorem ends_unit {s : State} {a : Ans} (ok : Bool) (h : Ends s true a) : Ends s ok (unitOk ok a) := by
  obtain ⟨w, d, hw, rfl⟩ := h
  exact ⟨w, d, hw, rfl⟩

/-- An owner command whose action burns no fuse. -/
theorem ends_ownerCommand (s : State) (m : Novvan) (req : OwnerFuses → Dev → OwnerReq) (act : OwnerFuses → Dev → OwnerFuses × Dev × Nat)
    (h : ∀ d, (act s.owner d).1 = s.owner) : Ends s true (onOwner s (ownerCommand s.owner s.dev m req act)) :=
  ends_owner s _ (ownerCommand_grew _ _ _ _ _ (fun d => by rw [h d]; exact grew_refl _))

theorem slotIx_eq_slotNo (k : Nat) : slotIx k = slotNo k := by simp [slotIx, slotNo, Nat.lt_succ_iff]

/-- Every command ends so, and the units that a well-formed one names exist. -/
theorem exec_ends (c : Instr) (s : State) : ∃ ok, Ends s ok (exec c s) ∧ (c.wf = true → ok = true) := by
  cases c with
  -- commands that name a unit
  | nop | endRun | jmp | loop | bnz | wait | incr | raise | recv | send | dmain | dmaout | ldw | vld | vst | mma | aclr | acrd
  | acwr | vadd | vmul | vfma | vmax | vmin | vexp2 | vlog2 | vrcp | vrsqrt | vrsum | vrmax | vqnt | vsplat | seti | addi | add
  | muli | runEnd | carrelScrub | ledgerClearSat | ledgerClearNan | ledgerClearInv | ledgerClearResidue | ledgerClearTrips
  | perfClear | patternSwap | queueDoorbell | dispatch | nopWorkOrder | runPattern | copy | copyConvert | digestCopy | gather
  | scatter | ladleRs | ladleAllReduce | ladleAg | ladleXchg | signal | waitWorkOrder | testBarComplete | workOrderComplete
  | queueCancel | queueDisable | syncIncrementApply | syncCounterDoorbell | watchdogTrip | stackTempSample | scrubRead
  | nmuRead | nmuWrite | accOpen | accApply | accAbort | xcode | grow | digest | zero | regionClear | flitData | flitIdle
  | flitNak | flitHello | flitLanemap | nakRepeat | laneFail | lanemapRepeat | laneMaskSwitch | laneRetrain | laneRestore
  | portTrain | helloSend | portLossTimeout | portRetrain | linkRetrain | linkEnable | packetForward | runData | chunkSend
  | chunk | chunkResend | verdictRound | collectiveStall | ldlAbort | hostLinkUp | hostLinkDown | hostPortRetrain | arpRequest
  | neighborSolicitation | pfcFrame | rdmaReadResponse | roceAck | roceAckTimeout | cnp | cnpRateRaise | qpStateWrite
  | regionValidSet | evqConsumerWrite | eventBatch | pfcPauseExpiry | setpointStep | pulsePeriod | droopStart | droopEnd
  | sensorImplausible | sensorPlausible | sensorDisagreeing | junctionThrottleTick | hbmThrottleTick | rstCmdL0 | rstCmdL1
  | rstCmdL2 | hbmTrainingDone | suspectSlotTest | catSuspect | catSlotClear | cellStall | fenceDrainEnd | hangRecordAssembled
  | hangExportComplete | hangExportTimeout | resetL2Failure | twinFilterExpiry =>
    refine ⟨_, ends_unit _ (ends_dev s _), ?_⟩
    simp +contextual [Instr.wf, slotIx_eq_slotNo]
  -- commands that name none
  | registerWrite | registerLowWordRead | refclkFailure | streamWordHop | perfFreeze | traceReadAdvance | traceLostEntry | pour
  | pourFirstPass | pourSecondPass | pourTwinTimeout | pourComplete | patternSwapWrite | unpour | ctlDoorbell | fenceRecover
  | fenceResetCell | fenceResetCluster | fenceResetShell | testBarCell | testBarLadle | testBarNmu | testBarIdleTimeout
  | attest | incrPacket | incrAck | incrResend | incrWithdrawTimeout | withdraw | withdrawResend | withdrawAns | unreach
  | readReq | writeReq | resp | requestResend | requestWithdrawTimeout | senderStateExpiry | rateLimitRaise | runSetup
  | runSetupAnswer | runTeardown | drain | drainComplete | drainTimeout | resume | protectedRegisterWrite | gangBeaconSend
  | gangBeacon | gangMasterTimeout | gangFollowTimeout | chunkAck | sprue | digestPacket | notice | foreignFrame
  | rdmaWriteMemory | rdmaWriteDoorbell | rdmaWriteRegister | rdmaReadMemory | rdmaReadRegister | roceSend | eventRaise
  | eventComplete | powerSample | measurementFaultClear | powerEstimate | effectiveCapRecompute | capHostWrite | capMgmtWrite
  | slackReport | gangPowerRound | slack | alloc | allocAck | allocAckTimeout | capEmergAssert | capEmergRelease
  | junctionSample | packageSensorSample | flowRecover | flowLossTimeout | thermalModelUpdate | allowanceRise | trayStale | por
  | bor | pinReset | pinResetRelease | wdtExpiry | lockUp | jtagReset | rstCmdL3 | idleReached | idleTimeout | resetComplete
  | archivistBoot | spareTestRound | recoverCmd | vmainLoss | vmainRestore | refclkReturn | vbkpLoss | vbkpReturn | pourDigest
  | range | beat | beatSend | leave | diverged | twinSilenceTimeout | presenceAssertion | sealCheck | attestReportComplete
  | arcLock | folioHeader | folioData | bankSyncComplete | ppNRelease | setdasa | rstdaa | setmrl | setmwl | setEndpointId
  | getEndpointId | getEndpointUuid | getMctpVersionSupport | getMessageTypeSupport | mctpUnsupportedMessage | getTid
  | getPldmVersion | getPldmTypes | getPldmCommands | getPdrRepositoryInfo | getPdr | getSensorReading | getStateSensorReadings
  | pldmUnsupported | keepalive | traySensors | isolateNotice | isolateNoticeExpiry | regRead | regWrite | bind | optionWrite
  | subscribe | novvanReset | recover | capSet | novvanAttest | certChain | notificationReply | notificationResend
  | replyExpiry | orphanTimeout | events | strapSample | heartbeat | novvanReservedCommand | replyRead =>
    exact ⟨true, ends_dev s _, fun _ => rfl⟩
  | updateAbort | updateActivate => exact ⟨true, ends_via s _ _, fun _ => rfl⟩
  -- owner commands, and READY, which burns the rollback fuses
  | ready => exact ⟨true, ends_owner s _ (doReady_grew _ _), fun _ => rfl⟩
  | enrolKey =>
    refine ⟨_, ends_unit _ (ends_owner s _ (doEnrolKey_grew _ _ _ _ _ _ _ _)), ?_⟩
    simp +contextual [Instr.wf]
  | revokeSlot =>
    refine ⟨_, ends_unit _ (ends_owner s _ (doRevokeSlot_grew _ _ _ _ _ _ _)), ?_⟩
    simp +contextual [Instr.wf]
  | programOwnerFuse => exact ⟨true, ends_owner s _ (doProgramOwnerFuse_grew _ _ _ _ _ _ _ _), fun _ => rfl⟩
  | tightenPolicy | relaxPolicy | debugUnlockOwner | debugUnlockVendor | recoveryModeEntry | clearAuditCounters
  | acknowledgeSealBreak =>
    exact ⟨true, ends_ownerCommand s _ _ _ (fun _ => rfl), fun _ => rfl⟩

end Sys2Proof.Machine
end

section
/-! PROOFS. The obligations about the step, the reset state and what no command breaks. -/

open Sys2Proof Sys2Proof.Machine

/-- Settles O4: the front command keeps the vendor fuses and every owner fuse bit, and so does a tick. -/
theorem fusesOnlyGrow : Obligations.FusesOnlyGrow := by
  rintro v o s t ⟨hv, ho⟩ hstep
  unfold step at hstep
  split at hstep
  · cases hstep
    exact ⟨hv, ho⟩
  · rename_i c rest _
    obtain ⟨ok, ⟨w, d, hw, he⟩, -⟩ := exec_ends c { s with pending := rest }
    rw [he] at hstep
    cases ok with
    | false => cases hstep
    | true =>
      cases hstep
      exact ⟨hv, grew_trans ho hw⟩

/-- Settles O3, from what every command leaves. -/
theorem wellFormedCommandsComplete : Obligations.WellFormedCommandsComplete := by
  intro c s
  obtain ⟨ok, ⟨w, d, -, he⟩, hwf⟩ := exec_ends c s
  refine ⟨fun h => ⟨_, by rw [he, hwf h]; rfl⟩, ?_⟩
  rw [he]
  cases ok with
  | false => exact Or.inl rfl
  | true => exact Or.inr ⟨_, rfl, rfl, rfl⟩

/-- Settles O1: both sides are the step's two branches. -/
theorem stepRunsTheFrontCommand : Obligations.StepRunsTheFrontCommand :=
  ⟨fun _ _ _ => rfl, fun _ => rfl⟩

/-- Settles O2: no table of the reset state lists anything but the groups that R289 presets, so every entry reads its default. -/
theorem resetStateMeetsTheInvariants : Obligations.ResetStateMeetsTheInvariants := by
  refine ⟨rfl, ⟨rfl, grew_refl _⟩, ⟨rfl, ?_⟩, rfl, rfl, rfl, rfl, rfl, ?_, ?_, ?_, ?_⟩
  · intro kv h; exact absurd h (by simp [State.reset, Dev.init, Cat.init])
  all_goals intro n; rfl

end

section
/-! PROOFS. The pattern instructions of R100: what an issued instruction leaves of its slot, of the carrels and memory, and of the
partition's ledger. -/

namespace Sys2Proof.Machine

/-! ### An instruction whose whole effect is on its own slot -/

theorem devOnly_issueSlot (d : Dev) (r : Run) (cell m k : Nat) (g : Slot → Slot) :
    DevOnly [.cat] d ((d.perfIssue r cell m 0).upSlot k g) :=
  (devOnly_perfIssue0 _ _ _ _).trans (devOnly_upCat _ _)

theorem slot_issueSlot (d : Dev) (r : Run) (cell m v k : Nat) (g : Slot → Slot) :
    ((d.perfIssue r cell m v).upSlot k g).slot k = g (d.slot k) ∧ But k d.slot ((d.perfIssue r cell m v).upSlot k g).slot :=
  ⟨by simp, fun j hj => by simp [hj]⟩

section
variable {c : Instr} {s : State} {cell op : Nat} {o : Opds} {r : Run} {k : Nat} {f : Dev → Dev}

/-- R97: an instruction that issues, uses no vector unit and rewrites its slot by `g`. -/
theorem runs_issueSlot (h : Issues s cell op o r k) (e : exec c s = unitOk (decide (cell < 1024)) (onWork s f)) (m : Nat)
    (g : Slot → Slot) (ef : f s.dev = (s.dev.perfIssue r cell m 0).upSlot k g) :
    Runs c s [.cat] (fun d => d.slot k = g (s.dev.slot k) ∧ But k s.dev.slot d.slot) :=
  runs_issue h e _ ef (devOnly_issueSlot _ _ _ _ _ _) (slot_issueSlot _ _ _ _ _ _ _)

/-- R97: an instruction that issues and ends at once, by `g` and the advance of the program counter. -/
theorem runs_simple (h : Issues s cell op o r k) (g : Slot → Slot)
    (e : exec c s = unitOk (decide (cell < 1024)) (onWork s (fun d => d.simple cell op o 0 g))) :
    Runs c s [.cat] (fun d => d.slot k = (g (s.dev.slot k)).advance ∧ But k s.dev.slot d.slot) :=
  runs_issue h e _ rfl (simple_only _ _ _ _ _) (simple_slot 0 g h.2.2)

/-- An instruction that issues and whose effect leaves the device as it is. -/
theorem next_issue (h : Issues s cell op o r k) (e : exec c s = unitOk (decide (cell < 1024)) (onWork s f)) (ef : f s.dev = s.dev) :
    exec c s = .next s := by
  rw [e, decide_eq_true h.1, unitOk_true rfl, onWork, onDev, h.2.1]
  simp [ef]

/-- R91, R95: an instruction that reads its operands on `D`, rewrites its slot by `g`, and counts `l` in the ledger. -/
theorem runs_counted_on (h : Issues s cell op o r k) (e : exec c s = unitOk (decide (cell < 1024)) (onWork s f)) {D : Dev} {m v : Nat}
    {g : Slot → Slot} {l : Led} (ef : f s.dev = ((D.perfIssue r cell m v).upSlot k g).ledger r.part r.queue r.index l) {bs : List Block}
    (hi : DevOnly bs s.dev ((D.perfIssue r cell m v).upSlot k g)) (hb : Block.mld ∉ bs) (hs : But k s.dev.slot D.slot) :
    Runs c s (bs ++ [.mld, .que]) (fun d => d.slot k = g (D.slot k) ∧ But k s.dev.slot d.slot ∧
      (d.part r.part).sat = satAdd 64 (s.dev.part r.part).sat l.sat) := by
  refine runs_issue h e _ ef ((hi.mono (by simp +contextual)).trans ((devOnly_ledger _ _ _ _ _).mono (by simp))) ⟨?_, fun j hj => ?_, ?_⟩
  · simp [slot_ledger]
  · simp [slot_ledger, hj, hs j hj]
  · rw [ledger_sat, part_same (hi .mld hb)]

/-- As runs_counted_on, of an instruction of the vector unit, whose issue R319 counts as work. -/
theorem runs_counted (h : Issues s cell op o r k) (e : exec c s = unitOk (decide (cell < 1024)) (onWork s f)) {D : Dev} {m v : Nat}
    (g : Slot → Slot) (l : Led) (ef : f s.dev = ((D.perfIssue r cell m v).upSlot k g).ledger r.part r.queue r.index l)
    (hD : DevOnly [.cat, .pwr] s.dev D) (hs : But k s.dev.slot D.slot) :
    Runs c s [.cat, .pwr, .mld, .que] (fun d => d.slot k = g (D.slot k) ∧ But k s.dev.slot d.slot ∧
      (d.part r.part).sat = satAdd 64 (s.dev.part r.part).sat l.sat) :=
  runs_counted_on h e ef ((hD.trans (devOnly_perfIssue _ _ _ _ _)).trans ((devOnly_upCat _ _).mono (by simp))) (by simp) hs

/-- As runs_counted_on, of an instruction of another unit. -/
theorem runs_counted0 (h : Issues s cell op o r k) (e : exec c s = unitOk (decide (cell < 1024)) (onWork s f)) {D : Dev} {m : Nat}
    (g : Slot → Slot) (l : Led) (ef : f s.dev = ((D.perfIssue r cell m 0).upSlot k g).ledger r.part r.queue r.index l)
    (hD : DevOnly [.cat] s.dev D) (hs : But k s.dev.slot D.slot) :
    Runs c s [.cat, .mld, .que] (fun d => d.slot k = g (D.slot k) ∧ But k s.dev.slot d.slot ∧
      (d.part r.part).sat = satAdd 64 (s.dev.part r.part).sat l.sat) :=
  runs_counted_on h e ef (hD.trans (devOnly_issueSlot _ _ _ _ _ _)) (by simp) hs

end

theorem Runs.imp {c : Instr} {s : State} {bs : List Block} {post post' : Dev → Prop} (h : Runs c s bs post) (i : ∀ d, post d → post' d) :
    Runs c s bs post' :=
  let ⟨t, ht, hb, hp⟩ := h
  ⟨t, ht, hb, i _ hp⟩

theorem Runs.mono {c : Instr} {s : State} {bs cs : List Block} {post : Dev → Prop} (h : Runs c s bs post) (sub : ∀ b ∈ bs, b ∈ cs) :
    Runs c s cs post :=
  let ⟨t, ht, ⟨hv, ho, hq, hb⟩, hp⟩ := h
  ⟨t, ht, ⟨hv, ho, hq, hb.mono sub⟩, hp⟩

/-! ### Vector instructions (R91, R92) -/

section
variable {c : Instr} {s : State} {cell op : Nat} {o : Opds} {r : Run} {k : Nat}

/-- A vector result: the lanes of `ws` in the destination register, their saturations counted. -/
def VecGives (s : State) (o : Opds) (r : Run) (k : Nat) (ws : List (Nat × Bool)) (d : Dev) : Prop :=
  d.slot k = ((s.dev.slot k).setV (regIx o.opd0) (ws.map (·.1))).advance ∧ But k s.dev.slot d.slot ∧
    (d.part r.part).sat = satAdd 64 (s.dev.part r.part).sat (ws.filter (·.2)).length

/-- R91: lane by lane, from two operands and the destination; VFMA's second lane operation (R319) is work, not state of the slot. -/
theorem runs_vec2 (h : Issues s cell op o r k) (f : Nat → Nat → Nat → Nat × Bool)
    (e : exec c s = unitOk (decide (cell < 1024)) (onWork s (fun d => d.vec2 cell op o f))) :
    Runs c s [.cat, .pwr, .mld, .que] (VecGives s o r k (((s.dev.slot k).lanes o).map (fun x => f x.1 x.2.1 x.2.2))) := by
  have hD : DevOnly [.pwr] s.dev (if op = 0x82 then s.dev.work r.part 15 256 else s.dev) :=
    (devOnly_work _ _ _ _).ite (DevOnly.refl _ _)
  let ws := ((s.dev.slot k).lanes o).map (fun x => f x.1 x.2.1 x.2.2)
  have hs : ∀ j, (if op = 0x82 then s.dev.work r.part 15 256 else s.dev).slot j = s.dev.slot j := slot_same (hD .cat (by simp))
  have hr := runs_counted h e (fun x => (x.setV (regIx o.opd0) (ws.map (·.1))).advance) ⟨(ws.filter (·.2)).length, 0, 0⟩
    (by unfold Dev.vec2; rw [h.2.2]; rfl) (hD.mono (by simp)) (fun j _ => hs j)
  rw [hs k] at hr
  exact hr

theorem runs_vec1 (h : Issues s cell op o r k) (f : Nat → Nat × Bool)
    (e : exec c s = unitOk (decide (cell < 1024)) (onWork s (fun d => d.vec1 cell op o f))) :
    Runs c s [.cat, .pwr, .mld, .que] (VecGives s o r k (((s.dev.slot k).v (regIx o.opd1)).map f)) := by
  let ws := ((s.dev.slot k).v (regIx o.opd1)).map f
  have hr := runs_counted h e (fun x => (x.setV (regIx o.opd0) (ws.map (·.1))).advance) ⟨(ws.filter (·.2)).length, 0, 0⟩
    (by unfold Dev.vec1; rw [h.2.2]) (DevOnly.refl _ _) (fun _ _ => rfl)
  exact hr

/-- R92: a reduction by the tree, its result in every lane, at most one saturation. -/
theorem runs_vecTree (h : Issues s cell op o r k) (f : Nat → Nat → Nat × Bool)
    (e : exec c s = unitOk (decide (cell < 1024)) (onWork s (fun d => d.vecTree cell op o f))) :
    Runs c s [.cat, .pwr, .mld, .que] (fun d =>
      let w := treeFold f 8 ((s.dev.slot k).v (regIx o.opd1)) false
      d.slot k = ((s.dev.slot k).setV (regIx o.opd0) (List.replicate 256 w.1)).advance ∧ But k s.dev.slot d.slot ∧
      (d.part r.part).sat = satAdd 64 (s.dev.part r.part).sat (if w.2 then 1 else 0)) :=
  let w := treeFold f 8 ((s.dev.slot k).v (regIx o.opd1)) false
  runs_counted h e (fun x => (x.setV (regIx o.opd0) (List.replicate 256 w.1)).advance) ⟨b2n w.2, 0, 0⟩
    (by unfold Dev.vecTree; rw [h.2.2]) (DevOnly.refl _ _) (fun _ _ => rfl)

end

/-! ### Carrel bytes (R99) -/

/-- A carrel range of at most 2 MiB wraps at most once. -/
theorem carPieces_small {a n : Nat} (h : n ≤ 2 ^ 21) : carPieces a n =
    if a % 2 ^ 21 + n ≤ 2 ^ 21 then [(a % 2 ^ 21, n)]
    else [(a % 2 ^ 21, 2 ^ 21 - a % 2 ^ 21), (0, a % 2 ^ 21 + n - 2 ^ 21)] := by
  unfold carPieces
  dsimp only
  split
  · rfl
  · have hq : (a % 2 ^ 21 + n) / 2 ^ 21 - 1 = 0 := by omega
    have hm : (a % 2 ^ 21 + n) % 2 ^ 21 = a % 2 ^ 21 + n - 2 ^ 21 := by omega
    rw [hq, hm]
    rfl

theorem carPut_get {t : Tab Byte} {a : Nat} {bs : Bytes} (h : bs.length ≤ 2 ^ 21) {j : Nat} (hj : j < 2 ^ 21) :
    tget 0 (carPut t a bs) j =
      if (j + 2 ^ 21 - a % 2 ^ 21) % 2 ^ 21 < bs.length then bs.getD ((j + 2 ^ 21 - a % 2 ^ 21) % 2 ^ 21) 0 else tget 0 t j := by
  have ha : a % 2 ^ 21 < 2 ^ 21 := Nat.mod_lt _ (by norm_num)
  unfold carPut
  rw [carPieces_small h]
  generalize a % 2 ^ 21 = b at ha ⊢
  split
  · simp only [memPuts, tget_puts, List.take_length]
    by_cases hb : b ≤ j
    · rw [show (j + 2 ^ 21 - b) % 2 ^ 21 = j - b by omega]
      by_cases hl : j < b + bs.length
      · rw [if_pos ⟨hb, hl⟩, if_pos (by omega)]
      · rw [if_neg (by omega), if_neg (by omega)]
    · rw [if_neg (by omega), if_neg (by omega)]
  · simp only [memPuts, tget_puts, List.length_take, List.length_drop]
    by_cases hb : b ≤ j
    · rw [show (j + 2 ^ 21 - b) % 2 ^ 21 = j - b by omega, if_neg (by omega), if_pos (by omega), if_pos (by omega)]
      simp only [List.getD_eq_getElem?_getD, List.getElem?_take]
      rw [if_pos (by omega)]
    · rw [show (j + 2 ^ 21 - b) % 2 ^ 21 = j + (2 ^ 21 - b) by omega]
      by_cases hl : j + (2 ^ 21 - b) < bs.length
      · rw [if_pos (by omega), if_pos hl]
        simp only [List.getD_eq_getElem?_getD, List.getElem?_take, List.getElem?_drop]
        rw [if_pos (by omega), Nat.sub_zero, Nat.add_comm]
      · rw [if_neg (by omega), if_neg (by omega), if_neg hl]

end Sys2Proof.Machine
end

section
/-! PROOFS. The obligations about scalar, draining and vector instructions and about carrel bytes. -/

open Sys2Proof Sys2Proof.Machine

/-- Settles O5. -/
theorem scalarRegistersReadWhatWasWritten : Obligations.ScalarRegistersReadWhatWasWritten := by
  intro s i v
  refine ⟨setX_x s i v, rfl, ?_⟩
  unfold Slot.setX
  split <;> rfl

/-- Settles O6: the straight-line instructions are simple ones, the branches rewrite their slot as they issue. -/
theorem scalarAndControlInstructions : Obligations.ScalarAndControlInstructions := by
  intro s cell o r k
  refine ⟨fun h => ?_, fun h => ?_, fun h => ?_, fun h => ?_, fun h => ?_, fun h => ?_, fun h => ?_, fun h => ?_⟩
  · exact runs_simple (c := .nop cell o) h id rfl
  · exact runs_issueSlot (c := .jmp cell o) h rfl 0 _ (by unfold doJmp; rw [h.2.2])
  · exact runs_issueSlot (c := .loop cell o) h rfl 0 _ (by unfold doLoop; rw [h.2.2])
  · exact runs_issueSlot (c := .bnz cell o) h rfl 0 _ (by unfold doBnz; rw [h.2.2])
  · exact runs_simple (c := .seti cell o) h _ rfl
  · exact runs_simple (c := .addi cell o) h _ rfl
  · exact runs_simple (c := .add cell o) h _ rfl
  · exact runs_simple (c := .muli cell o) h _ rfl

/-- Settles O8, from the byte that a write leaves at every offset. -/
theorem carrelBytesWrapModuloTwoMebibytes : Obligations.CarrelBytesWrapModuloTwoMebibytes := by
  intro t a bs h
  have hp : (2 : Nat) ^ 21 = 2097152 := by norm_num
  refine ⟨fun i hi => ?_, fun j hj hout => ?_, memPuts_wf _ _ _⟩
  · have hix : ((a + i) % 2 ^ 21 + 2 ^ 21 - a % 2 ^ 21) % 2 ^ 21 = i := by omega
    rw [carPut_get h (Nat.mod_lt _ (by norm_num)), hix, if_pos hi]
  · rw [carPut_get h hj, if_neg]
    intro hlt
    exact hout _ hlt (by omega)

/-- Settles O13: each is a lane-wise instruction of one or two operands, a reduction, or a simple one. -/
theorem vectorInstructions : Obligations.VectorInstructions := by
  intro s cell o r k
  refine ⟨fun h => ?_, fun h => ?_, fun h => ?_, fun h => ?_, fun h => ?_, fun h => ?_, fun h => ?_, fun h => ?_, fun h => ?_, fun h => ?_,
    fun h => ?_, fun h => ?_⟩
  · exact runs_vec2 (c := .vadd cell o) h _ rfl
  · exact runs_vec2 (c := .vmul cell o) h _ rfl
  · exact runs_vec2 (c := .vfma cell o) h _ rfl
  · exact runs_vec2 (c := .vmax cell o) h _ rfl
  · exact runs_vec2 (c := .vmin cell o) h _ rfl
  · exact runs_vec1 (c := .vexp2 cell o) h _ rfl
  · exact runs_vec1 (c := .vlog2 cell o) h _ rfl
  · exact runs_vec1 (c := .vrcp cell o) h _ rfl
  · exact runs_vec1 (c := .vrsqrt cell o) h _ rfl
  · exact runs_vecTree (c := .vrsum cell o) h _ rfl
  · exact (runs_vecTree (c := .vrmax cell o) h _ rfl).imp (fun d hd => ⟨hd.1, hd.2.1⟩)
  · refine runs_issue (c := .vsplat cell o) h rfl _ rfl ?_ (simple_slot 1 _ h.2.2)
    unfold doVsplat Dev.simple
    rw [h.2.2]
    exact (devOnly_perfIssue _ _ _ _ _).trans ((devOnly_upCat _ _).mono (by simp))

end

section
/-! PROOFS. Pattern instructions that wait for earlier ones, move bytes between carrel and memory, or use the accumulators. -/

namespace Sys2Proof.Machine

section
variable {c : Instr} {s : State} {cell op : Nat} {o : Opds} {r : Run} {k : Nat}

/-- A frame that leaves the cells leaves what an issue did to its slot. -/
theorem slot_issueSlot_then {d e : Dev} {m v : Nat} {g : Slot → Slot}
    (h : Block.same .cat ((d.perfIssue r cell m v).upSlot k g) e) : e.slot k = g (d.slot k) ∧ But k d.slot e.slot := by
  obtain ⟨hk, hb⟩ := slot_issueSlot d r cell m v k g
  exact ⟨by rw [slot_same h, hk], fun j hj => by rw [slot_same h, hb j hj]⟩

end

theorem But.trans_of {α : Type} {k : Nat} {v w x : Nat → α} (h : But k w x) (g : But k v w) : But k v x :=
  fun j hj => (h j hj).trans (g j hj)

/-! ### Carrel and memory accesses without an error -/

theorem upSlot_carrelUe_self (d : Dev) (k : Nat) :
    d.upSlot k (fun s => { s with carrelUe := s.carrelUe }) = d.upSlot k id := rfl

theorem carrelWrite_ok (d : Dev) (k a : Nat) (bs : Bytes) (h : (d.slot k).carrelUe = []) : ∃ D, d.carrelWrite k a bs = (D, true) ∧
    DevOnly [.cat] d D ∧ D.slot k = { d.slot k with carrel := carPut (d.slot k).carrel a bs } ∧ But k d.slot D.slot := by
  obtain ⟨w1, w2, w3, w4⟩ := carrelWrite_quiet d k a bs h
  exact ⟨_, by rw [← w1], w4, w2, w3⟩

theorem vaWrite_ok {d : Dev} {p va need : Nat} {own : Bool} {l : List (Nat × Nat)} {bs : Bytes} (rd : Nat)
    (h : Admits d p va bs.length need own l) : ∃ D, d.vaWrite p va need rd own bs = (D, .ok []) ∧
    D.mem.bytes = memPuts d.mem.bytes l bs ∧ DevOnly [.mld, .evc, .mem] d D := by
  obtain ⟨w1, w2, w3⟩ := vaWrite_quiet rd h
  exact ⟨_, by rw [← w1], w2, w3⟩

/-! ### Bytes of a carrel range -/

theorem carPieces_total (a n : Nat) : ((carPieces a n).map (·.2)).sum = n := by
  have ha : a % 2 ^ 21 < 2 ^ 21 := Nat.mod_lt _ (by norm_num)
  have hp : (2 : Nat) ^ 21 = 2097152 := by norm_num
  unfold carPieces
  dsimp only
  generalize a % 2 ^ 21 = b at ha ⊢
  split
  · simp
  · simp only [List.map_cons, List.map_append, List.map_replicate, List.map_nil, List.sum_cons, List.sum_append, List.sum_replicate,
      List.sum_nil, smul_eq_mul]
    have hdiv := Nat.div_add_mod (b + n) (2 ^ 21)
    have hpos : 1 ≤ (b + n) / 2 ^ 21 := by omega
    omega

theorem bytes_length (s : Slot) (a n : Nat) : (s.bytes a n).length = n := by
  unfold Slot.bytes
  rw [List.length_flatMap]
  simp only [tgets_length]
  exact carPieces_total a n

/-! ### Accumulators and vector registers -/

@[simp] theorem advance_acc (s : Slot) : s.advance.acc = s.acc := by unfold Slot.advance; split <;> rfl
@[simp] theorem advance_comp (s : Slot) : s.advance.comp = s.comp := by unfold Slot.advance; split <;> rfl

theorem v_bits (s : Slot) (i : Nat) : (s.v i).map (BitVec.ofNat 32) = tgets 0 s.vr (i * 256) 256 := by
  unfold Slot.v
  rw [List.map_map]
  exact List.map_id'' (fun x => by simp) _

theorem v_length (s : Slot) (i : Nat) : (s.v i).length = 256 := by
  rw [Slot.v, List.length_map, tgets_length]

/-- R100: the tile that MMA multiplies with, zeros of its own format where the buffer was never loaded. -/
def mmaTile (s : State) (k : Nat) (o : Opds) : Nat × List (List El) :=
  ((s.dev.slot k).columns (bit o.flags 0)).getD (o.fmtA, List.replicate 128 (List.replicate 256 elZero))

/-- R86: MMA's activation rows, decoded, each with its ledger counts. -/
def mmaActs (s : State) (k : Nat) (o : Opds) (addrs : List Nat) : List (List El × Led) :=
  (addrs.map (fun a => (s.dev.slot k).bytes a (groupBytes o.fmtA))).map (fun b => dec256 o.fmtA true b)

/-- R90: the elements of ACRD's row pair as they read, and which overflow. -/
def pairReads (s : Slot) (o : Opds) : List (Nat × Bool) :=
  (List.range 256).map (fun i =>
    let key := accKey (s.rowPair o.opd1).1 (2 * (s.rowPair o.opd1).2) 0 + i
    accRead (tget 0 s.acc key).toNat (tget 0 s.comp key).toNat)

/-- R90: ACWR's slot, its row pair written from the v register, their compensation words +0. -/
def acwrSlot (o : Opds) (s : Slot) : Slot :=
  let key := accKey (s.rowPair o.opd1).1 (2 * (s.rowPair o.opd1).2) 0
  ({ s with acc := tputs 0 s.acc key ((s.v (regIx o.opd0)).map (BitVec.ofNat 32)), comp := tclear s.comp key (key + 256) } : Slot).advance

/-- R100: ACLR's slot, the elements and compensation words of its rows cleared. -/
def aclrSlot (o : Opds) (s : Slot) : Slot :=
  let lo := accKey (rowsOf o.opd0).1 (rowsOf o.opd0).2.1 0
  let hi := accKey (rowsOf o.opd0).1 ((rowsOf o.opd0).2.1 + (rowsOf o.opd0).2.2) 0
  ({ s with acc := tclear s.acc lo hi, comp := tclear s.comp lo hi } : Slot).advance

/-! ### Counters -/

/-- R164, R44: the counter takes the amount, saturating; no other counter changes. -/
theorem counter_incrCounter (d : Dev) (n a j : Nat) : (d.incrCounter n a).counter j =
    if j = n then { d.counter n with value := satAdd 64 (d.counter n).value a, ovf := (d.counter n).ovf || satOver 64 (d.counter n).value a }
    else d.counter j := by
  unfold Dev.incrCounter
  dsimp only
  split
  · rw [counter_same (devOnly_raise _ _ _ .syn (by simp)), counter_upCounter]
  · rw [counter_upCounter]

end Sys2Proof.Machine
end

section
/-! PROOFS. The obligations about draining, carrel, accumulator and quantising instructions. -/

open Sys2Proof Sys2Proof.Machine

/-- Settles O7: an instruction that has to wait leaves the device; one whose cell has drained issues, and then acts on its counter or
source. -/
theorem drainingInstructions : Obligations.DrainingInstructions := by
  intro s cell o r k
  refine ⟨fun h hd => ?_, fun h hd => ?_, fun h hd => ?_, fun h hd => ?_, fun h hd => ?_, fun h hd => ?_, fun h hd hb hp => ?_,
    fun h hd => ?_⟩
  · have hr := runs_issueSlot (c := .endRun cell o) h rfl 0
      (fun x => { x with ended := true, pc := if x.pc = 4095 then 4095 else x.pc + 1 }) (by unfold doEndRun; rw [h.2.2]; simp [hd])
    exact hr.imp (fun d ⟨hk, hbut⟩ => ⟨by rw [hk], by rw [hk], hbut⟩)
  · exact next_issue (c := .endRun cell o) h rfl (by unfold doEndRun; rw [h.2.2]; simp [hd])
  · exact runs_issueSlot (c := .wait cell o) h rfl 0 Slot.advance (by unfold doWait; rw [h.2.2]; simp [hd])
  · exact next_issue (c := .wait cell o) h rfl (by unfold doWait; rw [h.2.2]; simp [hd])
  · have hi := devOnly_issueSlot s.dev r cell 0 k Slot.advance
    have hc := devOnly_incrCounter ((s.dev.perfIssue r cell 0 0).upSlot k Slot.advance) o.opd0 o.opd1
    obtain ⟨hk, hbut⟩ := slot_issueSlot_then (hc .cat (by simp))
    refine runs_issue (c := .incr cell o) h rfl _ (by unfold doIncr; rw [h.2.2]; simp only [hd, if_true])
      ((hi.mono (by simp)).trans (hc.mono (by simp))) ⟨hk, hbut, ?_, fun j hj => ?_⟩
    · rw [counter_incrCounter, if_pos rfl, counter_same (hi .syn (by simp))]
    · rw [counter_incrCounter, if_neg hj, counter_same (hi .syn (by simp))]
  · exact next_issue (c := .incr cell o) h rfl (by unfold doIncr; rw [h.2.2]; simp [hd])
  · have hi := devOnly_issueSlot s.dev r cell 0 k Slot.advance
    have hr := devOnly_raise ((s.dev.perfIssue r cell 0 0).upSlot k Slot.advance) o.opd0 0
    have hsrc := fun n => src_same (hi .evc (by simp)) n
    have hraise := src_raise (d := (s.dev.perfIssue r cell 0 0).upSlot k Slot.advance) (n := o.opd0) (i := 0)
      (Or.inr (by rw [hsrc, hb])) (by rw [hsrc]; exact hp)
    obtain ⟨hk, hbut⟩ := slot_issueSlot_then (hr .cat (by simp))
    refine runs_issue (c := .raise cell o) h rfl _ (by unfold doRaise; rw [h.2.2]; simp only [hd, if_true])
      ((hi.mono (by simp)).trans (hr.mono (by simp))) ⟨hk, hbut, ?_, ?_, fun j hj => ?_⟩
    · rw [hraise, if_pos rfl, hsrc]
    · rw [hraise, if_pos rfl]; rfl
    · rw [hraise, if_neg hj, hsrc]
  · exact next_issue (c := .raise cell o) h rfl (by unfold doRaise; rw [h.2.2]; simp [hd])

/-- Settles O11: without an error the carrel and memory accesses are plain table writes. -/
theorem carrelTransfersAndLoads : Obligations.CarrelTransfersAndLoads := by
  intro s cell o r k hue
  refine ⟨fun l h hbusy hreach => ?_, fun l h hbusy hreach => ?_, fun h hbusy hal => ?_, fun h hbusy hal => ?_, fun h hbusy hal => ?_⟩
  · obtain ⟨D, hw, hD, hk, hbut⟩ := carrelWrite_ok s.dev k ((s.dev.slot k).addr o.opd0) (memGets s.dev.mem.bytes l) hue
    obtain ⟨hk', hbut'⟩ := slot_issueSlot D r cell 0 0 k Slot.advance
    refine runs_issue (c := .dmain cell o Ecc.quiet) h rfl _ ?_ (hD.trans (devOnly_issueSlot D r cell 0 k Slot.advance))
      ⟨by rw [hk', hk], hbut'.trans_of hbut⟩
    unfold doDmain
    rw [h.2.2]
    simp only [hbusy, vaRead_quiet 1 hreach, hw, Bool.false_eq_true, if_false]
  · have hreach' : Reaches (s.dev.upSlot k id) r.part ((s.dev.slot k).xPair (regIx o.opd1) % 2 ^ 44)
        ((s.dev.slot k).bytes ((s.dev.slot k).addr o.opd0) o.opd2).length 2 l := by rw [bytes_length]; exact hreach
    obtain ⟨D, hw, hmem, hD⟩ := vaWrite_ok 1 hreach'
    have hslot : ∀ j, D.slot j = s.dev.slot j := fun j => by rw [slot_same (hD .cat (by simp)), slot_upSlot_id]
    obtain ⟨hk, hbut⟩ := slot_issueSlot D r cell 0 0 k Slot.advance
    have hi := devOnly_issueSlot D r cell 0 k Slot.advance
    have hbytes : ((D.perfIssue r cell 0 0).upSlot k Slot.advance).mem.bytes = 
        memPuts s.dev.mem.bytes l ((s.dev.slot k).bytes ((s.dev.slot k).addr o.opd0) o.opd2) := by
      rw [hi .mem (by simp), hmem]; rfl
    refine runs_issue (c := .dmaout cell o Ecc.quiet) h rfl _ ?_
      ((((devOnly_upCat _ _).mono (by simp)).trans (hD.mono (by simp))).trans (hi.mono (by simp)))
      ⟨by rw [hk, hslot], hbut.trans_of (fun j _ => hslot j), hbytes, fun a ha => by rw [hbytes, memPuts_get l _ _ a ha]⟩
    unfold doDmaout
    rw [h.2.2]
    simp only [hbusy, Bool.false_eq_true, if_false, Ecc.quiet, List.map_nil, carrelRead_quiet s.dev k _ _ hue, hw]
  · have hr := runs_counted0 (c := .ldw cell o Ecc.quiet) h rfl (D := s.dev.upSlot k id) (m := 0)
      (fun x => (x.setW (bit o.flags 0) { fmt := o.fmtA, bytes := (s.dev.slot k).bytes ((s.dev.slot k).addr o.opd0) (128 * groupBytes o.fmtA) }).advance)
      (Led.sum ((chunksOf (groupBytes o.fmtA) 128 ((s.dev.slot k).bytes ((s.dev.slot k).addr o.opd0) (128 * groupBytes o.fmtA))).map
        (fun x => (dec256 o.fmtA true x).2)))
      (by
        unfold doLdw
        rw [h.2.2]
        simp [hbusy, hal, Ecc.quiet, carrelRead_quiet s.dev k _ _ hue])
      (devOnly_upCat _ _) (fun j _ => slot_upSlot_id _ _ _)
    exact hr.imp (fun d hd => by rw [slot_upSlot_id] at hd; exact ⟨hd.1, hd.2.1⟩)
  · have hr := runs_counted (c := .vld cell o Ecc.quiet) h rfl (D := s.dev.upSlot k id) (m := 0) (v := 1)
      (fun x => (x.setV (regIx o.opd0) ((dec256 o.fmtA false ((s.dev.slot k).bytes ((s.dev.slot k).addr o.opd1) (groupBytes o.fmtA))).1.map
        (fun x => (elToF32 x).1))).advance)
      (Led.add (dec256 o.fmtA false ((s.dev.slot k).bytes ((s.dev.slot k).addr o.opd1) (groupBytes o.fmtA))).2
        (Led.sum ((dec256 o.fmtA false ((s.dev.slot k).bytes ((s.dev.slot k).addr o.opd1) (groupBytes o.fmtA))).1.map (fun x => (elToF32 x).2))))
      (by
        unfold doVld
        rw [h.2.2]
        simp [hbusy, hal, Ecc.quiet, carrelRead_quiet s.dev k _ _ hue, List.map_map, Function.comp_def])
      ((devOnly_upCat _ _).mono (by simp)) (fun j _ => slot_upSlot_id _ _ _)
    exact hr.imp (fun d hd => by rw [slot_upSlot_id] at hd; exact ⟨hd.1, hd.2.1⟩)
  · have hfst : ∀ w : Nat, (if o.fmtB = 0x32 then (w, false) else f32To (fmtFloat o.fmtB).1 (fmtFloat o.fmtB).2 w).1 =
        if o.fmtB = 0x32 then w else (f32To (fmtFloat o.fmtB).1 (fmtFloat o.fmtB).2 w).1 := fun w => by split <;> rfl
    obtain ⟨D, hw, hD, hk, hbut⟩ := carrelWrite_ok (s.dev.upSlot k id) k ((s.dev.slot k).addr o.opd1)
      (((s.dev.slot k).v (regIx o.opd0)).flatMap (fun w => leBytes (groupBytes o.fmtB / 256)
        (if o.fmtB = 0x32 then w else (f32To (fmtFloat o.fmtB).1 (fmtFloat o.fmtB).2 w).1))) (by rw [slot_upSlot_id]; exact hue)
    have hr := runs_counted (c := .vst cell o Ecc.quiet) h rfl (D := D) (m := 0) (v := 1) Slot.advance
      ⟨((((s.dev.slot k).v (regIx o.opd0)).map (fun w =>
        if o.fmtB = 0x32 then (w, false) else f32To (fmtFloat o.fmtB).1 (fmtFloat o.fmtB).2 w)).filter (·.2)).length, 0, 0⟩
      (by
        unfold doVst
        rw [h.2.2]
        simp [hbusy, hal, Ecc.quiet, List.flatMap_map, hfst, upSlot_carrelUe_self, hw])
      (((devOnly_upCat _ _).trans hD).mono (by simp)) (hbut.trans_of (fun j _ => slot_upSlot_id _ _ _))
    exact hr.imp (fun d hd => by rw [hk, slot_upSlot_id] at hd; exact ⟨hd.1, hd.2.1⟩)

/-- Settles O12: MMA reads its rows without an error and folds them in; the others rewrite table ranges of their slot. -/
theorem accumulatorInstructions : Obligations.AccumulatorInstructions := by
  intro s cell o r k
  refine ⟨fun addrs ha h hue hbusy hal => ?_, fun h => ?_, fun h => ?_, fun h => ?_⟩
  · obtain ⟨D, hread, hslot, -, hD⟩ := carrelReads_quiet (groupBytes o.fmtA) addrs s.dev k hue
    have hany : addrs.any (fun a => a % fmtAlign o.fmtA != 0) = false := by
      rw [List.any_eq_false]; intro a hm; simp [hal a hm]
    have hr := runs_counted (c := .mma cell o Ecc.quiet) h rfl (v := 0)
      (fun _ => ((D.slot k).mmaRows (bit o.flags 1) (fmtOwnTerm o.fmtA || fmtOwnTerm (mmaTile s k o).1) (rowsOf o.opd0).1 (mmaTile s k o).2
        (rowsOf o.opd0).2.1 ((mmaActs s k o addrs).map (·.1))).1.advance)
      (Led.add ⟨((D.slot k).mmaRows (bit o.flags 1) (fmtOwnTerm o.fmtA || fmtOwnTerm (mmaTile s k o).1) (rowsOf o.opd0).1
        (mmaTile s k o).2 (rowsOf o.opd0).2.1 ((mmaActs s k o addrs).map (·.1))).2, 0, 0⟩ (Led.sum ((mmaActs s k o addrs).map (·.2))))
      (by
        unfold doMma
        rw [h.2.2]
        simp only [← ha, hbusy, hany, hread, Bool.false_eq_true, if_false, mmaActs, mmaTile]
        rfl)
      ((hD.mono (by simp)).trans ((devOnly_work _ _ _ _).mono (by simp))) (fun j _ => hslot j)
    refine hr.imp (fun d hd => ⟨?_, hd.2.1⟩)
    rw [hd.1, hslot]
    simp only [mmaActs, List.map_map, Function.comp_def]
    rfl
  · refine (runs_issueSlot (c := .aclr cell o) h rfl (ceilDiv (rowsOf o.opd0).2.2 16) (aclrSlot o) (by unfold doAclr; rw [h.2.2]; rfl)).imp ?_
    rintro d ⟨hk, hbut⟩
    refine ⟨fun key => ?_, ?_, hbut⟩
    · rw [hk]
      simp only [aclrSlot, advance_acc, advance_comp, tget_clear]
      split <;> rfl
    · rw [hk]; simp only [aclrSlot, advance_acc, advance_comp]
  · have hr := runs_counted0 (c := .acrd cell o) h rfl (D := s.dev) (m := 1)
      (fun x => (x.setV (regIx o.opd0) ((pairReads (s.dev.slot k) o).map (·.1))).advance)
      ⟨((pairReads (s.dev.slot k) o).filter (·.2)).length, 0, 0⟩
      (by unfold doAcrd; rw [h.2.2]; rfl) (DevOnly.refl _ _) (fun _ _ => rfl)
    refine hr.imp (fun d hd => ⟨?_, hd.2.1⟩)
    rw [hd.1, pairReads, List.map_map]
    rfl
  · refine (runs_issueSlot (c := .acwr cell o) h rfl 1 (acwrSlot o) (by unfold doAcwr; rw [h.2.2]; rfl)).imp ?_
    rintro d ⟨hk, hbut⟩
    refine ⟨fun i hi => ?_, fun j hj => ?_, ?_, hbut⟩
    · rw [hk]
      simp only [acwrSlot, advance_acc, advance_comp, tget_puts, tget_clear, List.length_map, v_length]
      rw [if_pos (by omega), if_pos (by omega), Nat.add_sub_cancel_left, v_bits, tgets_getD _ _ _ _ _ hi]
      exact ⟨rfl, rfl⟩
    · rw [hk]
      simp only [acwrSlot, advance_acc, advance_comp, tget_puts, tget_clear, List.length_map, v_length]
      rw [if_neg (by omega), if_neg (by omega)]
      exact ⟨rfl, rfl⟩
    · rw [hk]; simp only [acwrSlot, advance_acc, advance_comp]

/-- Settles O14: one carrel write, or two, of what the quantiser gives. -/
theorem quantisingStore : Obligations.QuantisingStore := by
  intro s cell o r k
  dsimp only
  intro h hue hal
  generalize hsr : (if bit o.flags 0 then some _ else none : Option Sr) = sr
  generalize hz : quantise o.fmtB (vqntRatio o.flags) (((s.dev.slot k).v (regIx o.opd0)).map f32) sr = z
  have hue' : ((s.dev.upSlot k id).slot k).carrelUe = [] := by rw [slot_upSlot_id]; exact hue
  have hid : DevOnly [.cat] s.dev (s.dev.upSlot k id) := devOnly_upCat _ _
  refine ⟨fun htwo hbusy => ?_, fun htwo hbusy => ?_⟩
  · obtain ⟨D, hw, hD, hk, hbut⟩ := carrelWrite_ok (s.dev.upSlot k id) k ((s.dev.slot k).addr o.opd1)
      (if fmtMx o.fmtB then mxGroup z.1 z.2.1 else z.1) hue'
    have hr := runs_counted (c := .vqnt cell o Ecc.quiet) h rfl (D := D) (m := 0) (v := if bit o.flags 1 then 6 else 4) Slot.advance z.2.2
      (by
        unfold doVqnt
        rw [h.2.2]
        simp only [htwo, hbusy, hal, bne_self_eq_false, Bool.false_eq_true, if_false, if_true, hsr, hz, Ecc.quiet, List.filter_nil,
          List.foldl_nil, upSlot_carrelUe_self, Bool.and_self, hw])
      ((hid.trans hD).mono (by simp)) (hbut.trans_of (fun j _ => slot_upSlot_id _ _ _))
    exact hr.imp (fun d hd => by rw [hk, slot_upSlot_id] at hd; exact ⟨hd.1, hd.2.1⟩)
  · obtain ⟨D, hw, hD, hk, hbut⟩ := carrelWrite_ok (s.dev.upSlot k id) k ((s.dev.slot k).addr o.opd1) z.1 hue'
    obtain ⟨D', hw', hD', hk', hbut'⟩ := carrelWrite_ok D k ((s.dev.slot k).x (fld o.opd2 19 16) % 2 ^ 21) z.2.1 (by rw [hk]; exact hue')
    have hr := runs_counted (c := .vqnt cell o Ecc.quiet) h rfl (D := D') (m := 0) (v := if bit o.flags 1 then 6 else 4) Slot.advance z.2.2
      (by
        unfold doVqnt
        rw [h.2.2]
        simp only [htwo, hbusy, hal, bne_self_eq_false, Bool.false_eq_true, if_false, if_true, hsr, hz, Ecc.quiet, List.filter_nil,
          List.foldl_nil, upSlot_carrelUe_self, Bool.and_self, hw, hw'])
      (((hid.trans hD).trans hD').mono (by simp)) (hbut'.trans_of (hbut.trans_of (fun j _ => slot_upSlot_id _ _ _)))
    exact hr.imp (fun d hd => by rw [hk', hk, slot_upSlot_id] at hd; exact ⟨hd.1, hd.2.1⟩)

end

section
/-! PROOFS. Reads and writes of registers that take effect, commands that are one register write, carrel scrubbing and tracing. -/

namespace Sys2Proof.Machine

/-! ### Blocks that raising an event leaves -/

@[simp] theorem raise_now (d : Dev) (n i : Nat) : (d.raise n i).now = d.now := devOnly_raise d n i .now (by simp)
@[simp] theorem raise_free (d : Dev) (n i : Nat) : (d.raise n i).free = d.free := devOnly_raise d n i .free (by simp)
@[simp] theorem raise_cat (d : Dev) (n i : Nat) : (d.raise n i).cat = d.cat := devOnly_raise d n i .cat (by simp)
@[simp] theorem raise_mld (d : Dev) (n i : Nat) : (d.raise n i).mld = d.mld := devOnly_raise d n i .mld (by simp)
@[simp] theorem raise_que (d : Dev) (n i : Nat) : (d.raise n i).que = d.que := devOnly_raise d n i .que (by simp)
@[simp] theorem raise_syn (d : Dev) (n i : Nat) : (d.raise n i).syn = d.syn := devOnly_raise d n i .syn (by simp)
@[simp] theorem raise_mem (d : Dev) (n i : Nat) : (d.raise n i).mem = d.mem := devOnly_raise d n i .mem (by simp)
@[simp] theorem raise_ports (d : Dev) (n i : Nat) : (d.raise n i).ports = d.ports := devOnly_raise d n i .ports (by simp)
@[simp] theorem raise_rte (d : Dev) (n i : Nat) : (d.raise n i).rte = d.rte := devOnly_raise d n i .rte (by simp)
@[simp] theorem raise_ldl (d : Dev) (n i : Nat) : (d.raise n i).ldl = d.ldl := devOnly_raise d n i .ldl (by simp)
@[simp] theorem raise_hst (d : Dev) (n i : Nat) : (d.raise n i).hst = d.hst := devOnly_raise d n i .hst (by simp)
@[simp] theorem raise_bind (d : Dev) (n i : Nat) : (d.raise n i).bind = d.bind := devOnly_raise d n i .bind (by simp)
@[simp] theorem raise_pwr (d : Dev) (n i : Nat) : (d.raise n i).pwr = d.pwr := devOnly_raise d n i .pwr (by simp)
@[simp] theorem raise_thm (d : Dev) (n i : Nat) : (d.raise n i).thm = d.thm := devOnly_raise d n i .thm (by simp)
@[simp] theorem raise_rst (d : Dev) (n i : Nat) : (d.raise n i).rst = d.rst := devOnly_raise d n i .rst (by simp)
@[simp] theorem raise_flash (d : Dev) (n i : Nat) : (d.raise n i).flash = d.flash := devOnly_raise d n i .flash (by simp)
@[simp] theorem raise_upd (d : Dev) (n i : Nat) : (d.raise n i).upd = d.upd := devOnly_raise d n i .upd (by simp)
@[simp] theorem raise_sec (d : Dev) (n i : Nat) : (d.raise n i).sec = d.sec := devOnly_raise d n i .sec (by simp)
@[simp] theorem raise_mgmt (d : Dev) (n i : Nat) : (d.raise n i).mgmt = d.mgmt := devOnly_raise d n i .mgmt (by simp)
@[simp] theorem raise_twin (d : Dev) (n i : Nat) : (d.raise n i).twin = d.twin := devOnly_raise d n i .twin (by simp)
@[simp] theorem raise_acc (d : Dev) (n i : Nat) : (d.raise n i).acc = d.acc := devOnly_raise d n i .acc (by simp)
@[simp] theorem raise_out (d : Dev) (n i : Nat) : (d.raise n i).out = d.out := devOnly_raise d n i .out (by simp)
@[simp] theorem raise_slot (d : Dev) (n i k : Nat) : (d.raise n i).slot k = d.slot k := by simp only [Dev.slot, raise_cat]
@[simp] theorem raise_part (d : Dev) (n i p : Nat) : (d.raise n i).part p = d.part p := by simp only [Dev.part, raise_mld]
@[simp] theorem raise_queue (d : Dev) (n i q : Nat) : (d.raise n i).queue q = d.queue q := by simp only [Dev.queue, raise_que]
@[simp] theorem raise_flight (d : Dev) (n i q j : Nat) : (d.raise n i).flight q j = d.flight q j := by simp only [Dev.flight, raise_que]
@[simp] theorem raise_port (d : Dev) (n i p : Nat) : (d.raise n i).port p = d.port p := by simp only [Dev.port, raise_ports]
@[simp] theorem raise_plan (d : Dev) (n i p : Nat) : (d.raise n i).plan p = d.plan p := by simp only [Dev.plan, raise_ldl]
@[simp] theorem raise_stack (d : Dev) (n i p : Nat) : (d.raise n i).stack p = d.stack p := by simp only [Dev.stack, raise_mem]
@[simp] theorem raise_counter (d : Dev) (n i p : Nat) : (d.raise n i).counter p = d.counter p := by simp only [Dev.counter, raise_syn]

@[simp] theorem emit_access (d : Dev) (o : Out) (r : Requester) : (d.emit o).access r = d.access r := rfl

/-- R10: the word that an address names is a word of its register. -/
theorem regAt_word_lt {addr : Nat} {x : RegAt} (h : regAt addr = some x) : x.word < x.row.words := by
  unfold regAt at h
  split at h
  · cases h
  · obtain ⟨row, hrow, rfl⟩ := Option.map_eq_some_iff.mp h
    have hhas := List.find?_some hrow
    simp only [RegRow.has, Bool.and_eq_true, decide_eq_true_eq] at hhas
    obtain ⟨⟨-, hw⟩, -⟩ := hhas
    dsimp only
    omega

theorem regFor_four_regAt {addr : Nat} {x : RegAt} (h : regFor addr 4 = some x) : regAt addr = some x := by
  unfold regFor at h
  split at h
  · exact h
  · simp at h

/-! ### Reads and writes of one register (R11, R16) -/

/-- R16: a 32-bit read of word 0 of a 64-bit register latches its high word. -/
theorem regRead_low {v : VendorFuses} {w : OwnerFuses} {d : Dev} {r : Requester} {addr : Nat} {x : RegAt} (hp : (d.access r).pdReg = none)
    (hx : regFor addr 4 = some x) (hw : x.row.words = 2) (h0 : x.word = 0) :
    regRead v w d r addr 4 =
      let cur := x.row.rd { v := v, w := w, d := d, r := r } x.ix
      (d.upAccess r (fun a => { a with shReg := some x.off, shadow := [wordOf cur 1] }), wordOf cur 0) := by
  unfold regRead
  rw [hx]
  simp [dropPend_none d r _ hp, hw, h0]

/-- R16: a 32-bit read of word 1 of a 64-bit register whose shadow stands hands out the shadow, and drops it. -/
theorem regRead_high {v : VendorFuses} {w : OwnerFuses} {d : Dev} {r : Requester} {addr : Nat} {x : RegAt} (hp : (d.access r).pdReg = none)
    (hx : regFor addr 4 = some x) (hw : x.row.words = 2) (h1 : x.word = 1) (hs : (d.access r).shReg = some x.off) :
    regRead v w d r addr 4 =
      (d.upAccess r (fun a => if a.shReg = some x.off then { a with shReg := none, shadow := [] } else a), (d.access r).shadow.getD 0 0) := by
  unfold regRead
  rw [hx]
  simp [dropPend_none d r _ hp, hw, h1, hs]

theorem exec_registerLowWordRead {s : State} {r : Requester} {addr size : Nat} {x : Dev × Nat} (hr : s.dev.reaches r = true)
    (h : regRead s.vendor s.owner s.dev r addr size = x) :
    exec (.registerLowWordRead r addr size) s = onDev s (fun _ => x.1.emit (.regData r addr x.2)) := by
  show Host.Outcome.next { s with dev := doRegisterLowWordRead s.vendor s.owner s.dev r addr size } = _
  simp only [doRegisterLowWordRead, hr, if_true, h, onDev]

/-- R11: a permitted 32-bit write of a one-word register commits at once. -/
theorem regWrite_one {v : VendorFuses} {w : OwnerFuses} {d : Dev} {r : Requester} {addr : Nat} (value : Nat) {x : RegAt}
    (hp : (d.access r).pdReg = none) (hq : (d.access r).pend = []) (hx : regFor addr 4 = some x) (hw : x.row.words = 1)
    (hmay : x.row.who.may r = true) (hlock : (x.row.lock && d.sec.locked) = false) :
    regWrite v w d r addr 4 value = x.row.wr
      { v := v, w := w, d := d.upAccess r (fun a => { a with pdReg := none, pend := [] }), r := r } x.ix (value % 2 ^ 32) [0] := by
  have hword : x.word = 0 := by have := regAt_word_lt (regFor_four_regAt hx); omega
  unfold regWrite
  rw [hx]
  simp [dropPend_none d r _ hp, hw, hword, hmay, hlock, hq, mergeWords, tset, tdrop, tins, tcons, tget]

theorem exec_registerWrite_one {s : State} {r : Requester} {addr : Nat} (value : Nat) {x : RegAt} (hr : s.dev.reaches r = true)
    (hp : (s.dev.access r).pdReg = none) (hq : (s.dev.access r).pend = []) (hx : regFor addr 4 = some x) (hw : x.row.words = 1)
    (hmay : x.row.who.may r = true) (hlock : (x.row.lock && s.dev.sec.locked) = false) :
    exec (.registerWrite r addr 4 value) s = onDevN s (fun d => x.row.wr
      { v := s.vendor, w := s.owner, d := d.upAccess r (fun a => { a with pdReg := none, pend := [] }), r := r } x.ix
      (value % 2 ^ 32) [0]) := by
  show Host.Outcome.next { s with dev := Dev.report s.dev (doRegisterWrite s.vendor s.owner s.dev r addr 4 value) } = _
  rw [doRegisterWrite, if_pos hr, regWrite_one value hp hq hx hw hmay hlock]
  rfl

/-! ### Commands that are one register write of a partition's ledger -/

theorem runs_ledgerClear {c : Instr} {s : State} {r : Requester} {p : Nat} (f : Part → Part) (hr : s.dev.reaches r = true) (hp : p < 16)
    (h : exec c s = unitOk (decide (p < 16)) (onReg s r (fun d => doLedgerClear d p f))) :
    Runs c s [.mld, .acc, .sec, .mgmt, .out] (fun d => d.part p = f (s.dev.part p) ∧ But p s.dev.part d.part) := by
  refine runs_onReg (h.trans (unitOk_true (decide_eq_true hp))) hr (by simp) (by simp) (by simp) (by simp) ?_ ?_
  · exact fun d _ => (devOnly_upMld _ _).mono (by simp)
  · intro d hd
    have hpart := part_same (hd .mld (by simp))
    refine ⟨?_, fun j hj => ?_⟩
    · rw [report_part, doLedgerClear, part_upPart, if_pos rfl, hpart]
    · rw [report_part, doLedgerClear, part_upPart, if_neg hj, hpart]

/-! ### Performance counters and trace (R110, R111) -/

/-- A command that writes a register of the cells' block, by a requester other than the management port. -/
theorem runs_onCat {c : Instr} {s : State} {r : Requester} {g : Dev → Cat} (hr : s.dev.reaches r = true) {f : Dev → Dev}
    (h : exec c s = onReg s r f) (hf : ∀ d, f d = { d with cat := g d }) (hg : ∀ d, DevOnly [.acc, .sec] s.dev d → g d = g s.dev) :
    Runs c s [.cat, .acc, .sec, .mgmt, .out] (fun d => d.cat = g s.dev) := by
  refine runs_onReg h hr (by simp) (by simp) (by simp) (by simp) (fun d _ => ?_) (fun d hd => ?_)
  · rw [hf]
    exact (devOnly_upCat d (fun _ => g d)).mono (by simp)
  · rw [report_cat, hf]
    exact hg d hd

/-- R111: the management port's write is refused and counted. -/
theorem runs_mgmtRefused {c : Instr} {s : State} {f : Dev → Dev} (h : exec c s = onReg s .mgmt f) (hf : ∀ d, f d = d.accessErr)
    (hp : (s.dev.access .mgmt).pdReg = none) :
    Runs c s [.sec, .mgmt, .out] (fun d => d.sec = { s.dev.sec with accessErr := satAdd 32 s.dev.sec.accessErr 1 }) := by
  have hreg : s.dev.regCommand .mgmt f = s.dev.accessErr := by
    rw [Dev.regCommand, dropPend_none _ _ _ hp, hf]; rfl
  refine runs_onDevN (f := fun d => d.regCommand .mgmt f) h ?_ (by simp) (by simp) ?_ <;> rw [hreg]
  · exact (devOnly_accessErr _).mono (by simp)
  · rw [report_sec]; rfl

theorem perfWriter_of_ne {r : Requester} (h : r ≠ .mgmt) : perfWriter r = true := by simpa [perfWriter] using h

/-! ### Carrel scrubbing (R107) -/

theorem meetsCar_all (u : Nat) : meetsCar u 0 (2 ^ 21) = true := by
  have : (u + 2 ^ 21 - 0 / 8 * 8 % 2 ^ 21) % 2 ^ 21 < 2 ^ 21 := Nat.mod_lt _ (by norm_num)
  simpa [meetsCar] using this

theorem slot_upCat_carrelUe (d : Dev) (f : Cat → Tab Nat) (k : Nat) : (d.upCat (fun c => { c with carrelUe := f c })).slot k = d.slot k := rfl

/-- A corrected error is counted; the bytes stay. -/
theorem doCarrelScrub_ce (d : Dev) (k u : Nat) (h : (d.slot k).carrelUe = []) :
    doCarrelScrub d k { ce := [u], ue := [] } = (d.carrelCe1 (k / 512)).upSlot k id := by
  have hs : ((d.carrelCe1 (k / 512)).slot k).carrelUe = [] := h
  have hread : d.carrelRead k 0 (2 ^ 21) [u] [] = (d.carrelCe1 (k / 512)).carrelRead k 0 (2 ^ 21) [] [] := by
    unfold Dev.carrelRead
    simp only [List.filter_cons, List.filter_nil, meetsCar_all, if_true, Dev.each, List.foldl_cons, List.foldl_nil]
  rw [doCarrelScrub, hread, carrelRead_quiet _ _ _ _ hs]

/-- An uncorrectable word is marked, counted and reported. -/
theorem doCarrelScrub_ue (d : Dev) (k u : Nat) (h : (d.slot k).carrelUe = []) :
    doCarrelScrub d k { ce := [], ue := [u] } =
      (d.upSlot k (fun s => { s with carrelUe := [u % 2 ^ 21 / 8 * 8] })).carrelUe1 k (u % 2 ^ 21 / 8 * 8) := by
  have hmark : d.upSlot k (fun s => { s with carrelUe := insertNat (u % 2 ^ 21 / 8 * 8) s.carrelUe }) =
      d.upSlot k (fun s => { s with carrelUe := [u % 2 ^ 21 / 8 * 8] }) := by
    unfold Dev.slot at h
    simp only [Dev.upSlot, Dev.upCat, tup, h, insertNat]
  unfold doCarrelScrub Dev.carrelRead
  simp only [List.filter_cons, List.filter_nil, meetsCar_all, if_true, Dev.each, List.foldl_cons, List.foldl_nil, hmark, slot_upSlot,
    reduceCtorEq, if_false]

end Sys2Proof.Machine
end

section
/-! PROOFS. The obligations about register accesses that take effect, ledger clears, performance counters and carrel scrubbing. -/

open Sys2Proof Sys2Proof.Machine

/-- Settles O17: the first read leaves the high word in the shadow, and the second takes it from there. -/
theorem lowWordReadLatchesTheHighWord : Obligations.LowWordReadLatchesTheHighWord := by
  intro s r a b x y hr hp hx hxw hx0 hy hyw hy1 hoff
  dsimp only
  generalize hcur : x.row.rd { v := s.vendor, w := s.owner, d := s.dev, r := r } x.ix = cur
  have hlow := regRead_low (v := s.vendor) (w := s.owner) hp hx hxw hx0
  dsimp only at hlow
  rw [hcur] at hlow
  have hzero : wordOf cur 0 = cur % 2 ^ 32 := by simp [wordOf]
  have hone : wordOf cur 1 = cur / 2 ^ 32 % 2 ^ 32 := by simp [wordOf]
  refine runs_onDev (exec_registerLowWordRead hr hlow) (((devOnly_upAccess _ _ _).mono (by simp)).trans ((devOnly_emit _ _).mono (by simp)))
    ⟨by rw [emit_out, hzero]; rfl, ?_, ?_⟩
  · rw [emit_access, access_upAccess]
  · intro t htr hta
    rw [emit_access, access_upAccess] at hta
    have hhigh := regRead_high (v := t.vendor) (w := t.owner) (by rw [hta]; exact hp) hy hyw hy1 (by rw [hta, hoff])
    rw [hta] at hhigh
    refine runs_onDev (exec_registerLowWordRead htr hhigh)
      (((devOnly_upAccess _ _ _).mono (by simp)).trans ((devOnly_emit _ _).mono (by simp))) ?_
    rw [emit_out, ← hone]
    rfl

/-- Settles O18: with nothing pending the write commits its one word; MEM_SCRUB_CTL's row splits the value. -/
theorem writesOfOneWordRegistersCommit : Obligations.WritesOfOneWordRegistersCommit := by
  refine ⟨fun s r addr value x hr hp hq hx hw hmay hlock => ?_, fun s r hours on hr hp hq h1 h2 => ?_⟩
  · refine ⟨_, devOnly_upAccess s.dev r _, ?_, exec_registerWrite_one value hr hp hq hx hw hmay hlock⟩
    rw [access_upAccess]
  · obtain ⟨x, hx, hw, hwho, hlock, hwr⟩ : ∃ x, regFor (regBase + winMEM + 0x10) 4 = some x ∧ x.row.words = 1 ∧ x.row.who = .anyone ∧
        x.row.lock = false ∧ ∀ c i v l, x.row.wr c i v l = c.d.upMem (fun m => { m with
          scrubH := if 1 ≤ fld v 7 0 && fld v 7 0 ≤ 168 then fld v 7 0 else m.scrubH, scrubOn := bit v 31 }) :=
      ⟨_, rfl, rfl, rfl, rfl, fun _ _ _ _ => rfl⟩
    have hexec := exec_registerWrite_one (hours + (if on then 2 ^ 31 else 0)) hr hp hq hx hw (by rw [hwho]; rfl)
      (by rw [hlock]; rfl)
    have hv : (hours + (if on then 2 ^ 31 else 0)) % 2 ^ 32 = hours + (if on then 2 ^ 31 else 0) := by split <;> omega
    have hfld : fld (hours + (if on then 2 ^ 31 else 0)) 7 0 = hours := by unfold fld; split <;> omega
    have hbit : bit (hours + (if on then 2 ^ 31 else 0)) 31 = on := by
      cases on <;> simp only [bit, if_true, Bool.false_eq_true, if_false]
      · simp only [beq_eq_false_iff_ne]; omega
      · rw [beq_iff_eq]; omega
    simp only [hwr, hv, hfld, hbit, h1, h2, decide_true, Bool.and_self, if_true] at hexec
    refine runs_onDevN hexec ?_ (by simp) (by simp) ?_
    · exact ((devOnly_upAccess _ _ _).mono (by simp)).trans ((devOnly_upMem _ _).mono (by simp))
    · rw [report_mem]; rfl

/-- Settles O19: a pass reads the whole carrel, and meets every word of it. -/
theorem carrelScrubFindsErrors : Obligations.CarrelScrubFindsErrors := by
  intro s k u hk hue
  have hunit : decide (slotIx k = true) = true := by simp [hk]
  refine ⟨?_, ?_, fun hp => ?_⟩
  · refine runs_onDev (unitOk_true hunit) ?_ (fun j => ?_) <;> rw [doCarrelScrub, Ecc.quiet, carrelRead_quiet s.dev k 0 _ hue]
    · exact devOnly_upCat _ _
    · exact slot_upSlot_id _ _ _
  · refine runs_onDev (unitOk_true hunit) ?_ ⟨fun j => ?_, ?_⟩ <;> rw [doCarrelScrub_ce _ _ _ hue]
    · exact (devOnly_upCat _ _).trans (devOnly_upCat _ _)
    · rw [slot_upSlot_id]; rfl
    · simp only [Dev.upSlot, Dev.carrelCe1, upCat_cat, tget_up, if_true]
  · have hsrc : shellSrc (0xC824 + k / 512) = true := by
      have hk' : k < 2048 := by simp only [slotIx, Bool.and_eq_true, decide_eq_true_eq] at hk; exact hk.1
      simp only [shellSrc, Bool.and_eq_true, decide_eq_true_eq]
      omega
    refine runs_onDev (unitOk_true hunit) ?_ ⟨?_, fun j hj => ?_, ?_, ?_⟩ <;> rw [doCarrelScrub_ue _ _ _ hue]
    · exact ((devOnly_upCat _ _).mono (by simp)).trans (devOnly_carrelUe1 _ _ _)
    · rw [Dev.carrelUe1, raise_slot, slot_upCat_carrelUe, slot_upSlot, if_pos rfl]
    · rw [Dev.carrelUe1, raise_slot, slot_upCat_carrelUe, slot_upSlot, if_neg hj]
    · simp only [Dev.carrelUe1, raise_cat, Dev.upSlot, upCat_cat, tget_up, if_true]
    · exact pending_raise (Or.inl hsrc) hp

/-- Settles O20. -/
theorem ledgerClears : Obligations.LedgerClears := by
  intro s r p hr hp
  exact ⟨runs_ledgerClear (fun x => { x with sat := 0, satOvf := false }) hr hp rfl,
    runs_ledgerClear (fun x => { x with nan := 0, nanOvf := false }) hr hp rfl,
    runs_ledgerClear (fun x => { x with inv := 0, invOvf := false }) hr hp rfl,
    runs_ledgerClear (fun x => { x with residue := 0, resOvf := false }) hr hp rfl,
    runs_ledgerClear (fun x => { x with trips := 0 }) hr hp rfl⟩

/-- Settles O21. -/
theorem performanceCountersAndTrace : Obligations.PerformanceCountersAndTrace := by
  refine ⟨fun s r b p n hr hm hp => ⟨?_, ?_, ?_⟩, fun s b p n hp hpend c hc => ?_, fun s hen hmiss hroom => ?_⟩
  · exact runs_onCat (g := fun d => { d.cat with freeze := b }) hr rfl
      (fun d => by rw [doPerfFreeze, if_pos (perfWriter_of_ne hm)]; rfl) (fun d hd => by rw [hd .cat (by simp)])
  · refine (runs_onCat (c := .perfClear r p) (f := fun d => doPerfClear d r p) (g := fun d => { d.cat with perf := tdrop d.cat.perf (fun key => bit (d.part p).clusters.toNat (key / 128)) }) hr
      (unitOk_true (decide_eq_true hp)) (fun d => by rw [doPerfClear, if_pos (perfWriter_of_ne hm)]; rfl)
      (fun d hd => by rw [hd .cat (by simp), part_same (hd .mld (by simp))])).imp (fun d hd => ⟨by rw [hd], fun cell i hi => ?_⟩)
    rw [hd]
    dsimp only
    rw [tget_drop, show (cell * 8 + i) / 128 = cell / 16 by omega]
  · exact runs_onCat (g := fun d => { d.cat with trRead := n % 4096 }) hr rfl
      (fun d => by rw [doTraceReadAdvance, if_pos (perfWriter_of_ne hm)]; rfl) (fun d hd => by rw [hd .cat (by simp)])
  · simp only [List.mem_cons, List.not_mem_nil, or_false] at hc
    obtain rfl | rfl | rfl := hc
    · exact runs_mgmtRefused rfl (fun d => rfl) hpend
    · exact runs_mgmtRefused (unitOk_true (decide_eq_true hp)) (fun d => rfl) hpend
    · exact runs_mgmtRefused rfl (fun d => rfl) hpend
  · have hdo : doTraceLostEntry s.dev = s.dev.upCat (fun c => { trPut c { kind := 0x07, part := 0, quad := 0, ts := s.dev.now, payload := c.trMissed } with trMissed := 0 }) := by
      simp only [doTraceLostEntry, Dev.upCat, hen, hroom]
      simp [hmiss]
    refine runs_onDev (f := doTraceLostEntry) rfl ?_ ?_ <;> rw [hdo]
    · exact devOnly_upCat _ _
    · simp [trPut]

end

section
/-! PROOFS. Queues, doorbells, counters, dispatch, and the work orders that need no other unit (R144–R156). -/

namespace Sys2Proof.Machine

/-! ### A queue of a partition, or the control queue -/

theorem anyQueue_of_lt {d : Dev} {q : Nat} (h : q < 32768) : d.anyQueue q = d.queue q := if_neg (by unfold ctlQ; omega)

theorem upAnyQueue_of_lt {d : Dev} {q : Nat} (h : q < 32768) (f : Queue → Queue) : d.upAnyQueue q f = d.upQueue q f :=
  if_neg (by unfold ctlQ; omega)

theorem anyQueue_same {d e : Dev} (h : Block.same .que d e) (q : Nat) : e.anyQueue q = d.anyQueue q := by
  simp only [Dev.anyQueue, Dev.ctlQueue, Dev.queue, show e.que = d.que from h]

/-- The counts and the head of a queue after an update of it. -/
theorem anyQueue_upAnyQueue (d : Dev) (q : Nat) (f : Queue → Queue) :
    ((d.upAnyQueue q f).anyQueue q).prod = (f (d.anyQueue q)).prod ∧ ((d.upAnyQueue q f).anyQueue q).disp = (f (d.anyQueue q)).disp ∧
    ((d.upAnyQueue q f).anyQueue q).ret = (f (d.anyQueue q)).ret ∧ ((d.upAnyQueue q f).anyQueue q).head = (f (d.anyQueue q)).head := by
  unfold Dev.upAnyQueue Dev.anyQueue
  split
  · exact ⟨rfl, rfl, rfl, rfl⟩
  · rw [queue_upQueue, if_pos rfl]
    exact ⟨rfl, rfl, rfl, rfl⟩

theorem devOnly_upAnyQueue (d : Dev) (q : Nat) (f : Queue → Queue) : DevOnly [.que] d (d.upAnyQueue q f) := by
  unfold Dev.upAnyQueue
  split <;> exact devOnly_upQue _ _

theorem queue_upAnyQueue_ne (d : Dev) {q j : Nat} (f : Queue → Queue) (h : j ≠ q) : (d.upAnyQueue q f).queue j = d.queue j := by
  unfold Dev.upAnyQueue
  split
  · rfl
  · rw [queue_upQueue, if_neg h]

@[simp] theorem upAnyQueue_flights (d : Dev) (q : Nat) (f : Queue → Queue) : (d.upAnyQueue q f).que.flights = d.que.flights := by
  unfold Dev.upAnyQueue
  split <;> rfl

/-! ### Reading the head (R147) -/

theorem devOnly_readWo (d : Dev) (q i : Nat) (e : Ecc) : DevOnly [.cat, .mem, .evc] d (d.readWo q i e).1 := by
  unfold Dev.readWo
  split
  · exact DevOnly.refl _ _
  · have h := devOnly_vaRead d (d.queue q).part ((d.queue q).ring + 64 * (i % (d.queue q).size)) 64 1 2 true e
    dsimp only
    split <;> (rename_i hq; rw [hq] at h; exact h)

theorem devOnly_readHead (d : Dev) (q : Nat) (e : Ecc) : DevOnly [.que, .cat, .mem, .evc] d (d.readHead q e) := by
  unfold Dev.readHead
  dsimp only
  split
  · exact DevOnly.refl _ _
  · exact ((devOnly_readWo _ _ _ _).mono (by simp)).trans ((devOnly_upAnyQueue _ _ _).mono (by simp))

/-- R147: reading the head changes no count, no other queue and no flight. -/
theorem readHead_keeps (d : Dev) (q : Nat) (e : Ecc) :
    ((d.readHead q e).anyQueue q).prod = (d.anyQueue q).prod ∧ ((d.readHead q e).anyQueue q).disp = (d.anyQueue q).disp ∧
    ((d.readHead q e).anyQueue q).ret = (d.anyQueue q).ret ∧ (∀ j, j ≠ q → (d.readHead q e).queue j = d.queue j) ∧
    (d.readHead q e).que.flights = d.que.flights := by
  unfold Dev.readHead
  dsimp only
  split
  · exact ⟨rfl, rfl, rfl, fun _ _ => rfl, rfl⟩
  · have hq := devOnly_readWo d q (d.anyQueue q).disp e .que (by simp)
    obtain ⟨hp, hd, hr, -⟩ := anyQueue_upAnyQueue (d.readWo q (d.anyQueue q).disp e).1 q
      (fun x => { x with head := some (d.readWo q (d.anyQueue q).disp e).2 })
    rw [anyQueue_same hq] at hp hd hr
    exact ⟨hp, hd, hr, fun j hj => by rw [queue_upAnyQueue_ne _ _ hj, queue_same hq],
      by rw [upAnyQueue_flights, show (d.readWo q (d.anyQueue q).disp e).1.que = d.que from hq]⟩

/-- R147: with a head at hand nothing is read. -/
theorem readHead_some (d : Dev) (q : Nat) (e : Ecc) (h : (d.anyQueue q).head.isSome = true) : d.readHead q e = d := by
  unfold Dev.readHead
  simp [h]

/-- R147: the head that has become available is read whole from a ring in granted memory without an error. -/
theorem readHead_ring {d : Dev} {q : Nat} {l : List (Nat × Nat)} (hq : q < 32768) (hh : (d.queue q).head = none)
    (hp : (d.queue q).prod ≠ (d.queue q).disp)
    (hl : Reaches d (d.queue q).part ((d.queue q).ring + 64 * ((d.queue q).disp % (d.queue q).size)) 64 1 l) :
    d.readHead q Ecc.quiet = d.upQueue q (fun x => { x with head := some (memGets d.mem.bytes l) }) := by
  have hctl : q ≠ ctlQ := by unfold ctlQ; omega
  unfold Dev.readHead
  simp only [anyQueue_of_lt hq, hh, Option.isSome_none, Bool.false_or, beq_iff_eq, if_neg hp, Dev.readWo, if_neg hctl, vaRead_quiet 2 hl,
    upAnyQueue_of_lt hq]

/-- R150: the control queue's head is one of its slots. -/
theorem readHead_ctl (d : Dev) (e : Ecc) : d.readHead ctlQ e = d.upQue (fun m => { m with
    ctlHead := if m.ctlHead.isSome || m.ctlProd == m.ctlDisp then m.ctlHead
      else some (leBytes 64 (tget 0 m.ctlSlot (m.ctlDisp % 16))) }) := by
  unfold Dev.readHead
  simp only [Dev.anyQueue, if_true, Dev.ctlQueue, Dev.readWo, Dev.upAnyQueue]
  split
  · rename_i h
    simp only [Dev.upQue, h, if_true]
  · rename_i h
    simp only [Dev.upQue, h, Bool.false_eq_true, if_false]

/-! ### Doorbells (R146) -/

/-- A value within the ring sets the produced count. -/
theorem bell_within {d : Dev} {q v : Nat} (e : Ecc) (h0 : (v % 2 ^ 32 + 2 ^ 32 - (d.anyQueue q).prod) % 2 ^ 32 ≠ 0)
    (h : (v % 2 ^ 32 + 2 ^ 32 - (d.anyQueue q).prod) % 2 ^ 32 ≤ (v % 2 ^ 32 + 2 ^ 32 - (d.anyQueue q).ret) % 2 ^ 32)
    (hs : (v % 2 ^ 32 + 2 ^ 32 - (d.anyQueue q).ret) % 2 ^ 32 ≤ (d.anyQueue q).size) :
    d.bell q v e = (d.upAnyQueue q (fun x => { x with prod := v % 2 ^ 32 })).readHead q e := by
  unfold Dev.bell
  simp only [if_neg h0, h, hs, decide_true, Bool.and_self, if_true]

/-- Any other value is only counted. -/
theorem bell_outside {d : Dev} {q v : Nat} (e : Ecc) (h0 : (v % 2 ^ 32 + 2 ^ 32 - (d.anyQueue q).prod) % 2 ^ 32 ≠ 0)
    (h : ¬((v % 2 ^ 32 + 2 ^ 32 - (d.anyQueue q).prod) % 2 ^ 32 ≤ (v % 2 ^ 32 + 2 ^ 32 - (d.anyQueue q).ret) % 2 ^ 32 ∧
      (v % 2 ^ 32 + 2 ^ 32 - (d.anyQueue q).ret) % 2 ^ 32 ≤ (d.anyQueue q).size)) : d.bell q v e = d.countBadBell := by
  unfold Dev.bell
  simp only [if_neg h0, ← Bool.decide_and, decide_eq_true_eq, if_neg h]

theorem devOnly_ctlBell (d : Dev) (v : Nat) (e : Ecc) : DevOnly [.que] d (d.bell ctlQ v e) := by
  unfold Dev.bell
  dsimp only
  split_ifs
  · exact DevOnly.refl _ _
  · rw [readHead_ctl]
    exact (devOnly_upAnyQueue _ _ _).trans (devOnly_upQue _ _)
  · exact devOnly_upQue _ _

theorem doCtlDoorbell_host (d : Dev) (v : Nat) : doCtlDoorbell d .host v = d.bell ctlQ v { ce := [], ue := [] } := by
  unfold doCtlDoorbell
  rw [if_pos (show hostOnly .host = true from rfl)]

theorem devOnly_doCtlDoorbell (d : Dev) (v : Nat) : DevOnly [.que] d (doCtlDoorbell d .host v) := by
  rw [doCtlDoorbell_host]
  exact devOnly_ctlBell d v _

/-- R135, R146: the doorbell of an enabled queue whose partition is not being poured reaches the queue. -/
theorem runs_queueDoorbell {s : State} {q v : Nat} {e : Ecc} {bs : List Block} {post : Dev → Prop} {D : Dev} (hq : q < 32768)
    (hst : (s.dev.queue q).state = 1) (hpart : (s.dev.part (s.dev.queue q).part).state ≠ 1) (hD : s.dev.bell q v e = D)
    (o : DevOnly bs s.dev D) (p : post D) : Runs (.queueDoorbell q 0 v e) s bs post := by
  have hdo : doQueueDoorbell s.dev q 0 v e = D := by
    unfold doQueueDoorbell
    simp [hst, hpart, hD]
  refine runs_onDev (f := fun d => doQueueDoorbell d q 0 v e) (unitOk_true (decide_eq_true hq)) ?_ ?_ <;> rw [hdo] <;> assumption

/-! ### Counters (R164) -/

/-- R290: raising a source leaves every other. -/
theorem src_raise_ne (d : Dev) (n i : Nat) {j : Nat} (h : j ≠ n) : (d.raise n i).src j = d.src j := by
  unfold Dev.raise
  dsimp only
  split
  · rfl
  · split
    · rw [src_upSrc, if_neg h]
    · rw [show ∀ x : Dev, ∀ g f, (x.upGroup g f).src j = x.src j from fun _ _ _ => rfl, src_upSrc, if_neg h]

theorem runs_dev {c : Instr} {s : State} {bs : List Block} {post : Dev → Prop} {D : Dev} (h : exec c s = .next { s with dev := D })
    (o : DevOnly bs s.dev D) (p : post D) : Runs c s bs post :=
  ⟨_, h, only_dev o, p⟩


/-- R164: an applied increment's counter, its source, and what it leaves. -/
theorem incrCounter_src (d : Dev) (n a : Nat) :
    ((d.src (0x8000 + n)).bound = true → (d.src (0x8000 + n)).pending < 255 →
      ((d.incrCounter n a).src (0x8000 + n)).pending = (d.src (0x8000 + n)).pending + 1 ∧
      ((d.incrCounter n a).src (0x8000 + n)).info = ((d.incrCounter n a).counter n).value % 2 ^ 48) ∧
    (∀ j, j ≠ 0x8000 + n → (d.incrCounter n a).src j = d.src j) := by
  have hsrc : ∀ f j, (d.upCounter n f).src j = d.src j := fun _ _ => rfl
  refine ⟨fun hb hp => ?_, fun j hj => ?_⟩
  · have hc : (d.incrCounter n a).counter n = _ := counter_incrCounter d n a n
    rw [if_pos rfl] at hc
    rw [hc]
    unfold Dev.incrCounter
    simp only [hsrc, hb, if_true, counter_upCounter]
    rw [src_raise (Or.inr (by rw [hsrc]; exact hb)) (by rw [hsrc]; exact hp), if_pos rfl]
    exact ⟨rfl, rfl⟩
  · unfold Dev.incrCounter
    dsimp only
    split
    · rw [src_raise_ne _ _ _ hj, hsrc]
    · rw [hsrc]

end Sys2Proof.Machine
end

section
/-! PROOFS. The obligations about doorbells, counters, dispatch and simple work orders. -/

open Sys2Proof Sys2Proof.Machine

/-- Settles O22. -/
theorem doorbellsAndCounterIncrements : Obligations.DoorbellsAndCounterIncrements := by
  refine ⟨fun s q v hq hst hpart => ?_, fun s v hr => ?_, fun s n a hn => ⟨fun hb hrdy ha cmd hcmd => ?_, fun hno => ?_⟩⟩
  · dsimp only
    intro h0
    rw [← anyQueue_of_lt hq] at h0
    refine ⟨fun e h1 h2 hh => ?_, fun l h1 h2 hh hne hl => ?_, fun e hout => ?_⟩
    · have hb := bell_within e h0 (by rwa [anyQueue_of_lt hq]) (by rwa [anyQueue_of_lt hq])
      rw [readHead_some, upAnyQueue_of_lt hq] at hb
      · exact runs_queueDoorbell hq hst hpart hb (devOnly_upQue _ _) ⟨by simp, fun j hj => by simp [hj]⟩
      · rw [upAnyQueue_of_lt hq, anyQueue_of_lt hq, queue_upQueue, if_pos rfl]; exact hh
    · have hb := bell_within Ecc.quiet h0 (by rwa [anyQueue_of_lt hq]) (by rwa [anyQueue_of_lt hq])
      rw [upAnyQueue_of_lt hq, readHead_ring (l := l) hq (by rw [queue_upQueue, if_pos rfl]; exact hh)
        (by rw [queue_upQueue, if_pos rfl]; exact hne) (by rw [queue_upQueue, if_pos rfl]; exact hl)] at hb
      exact runs_queueDoorbell hq hst hpart hb ((devOnly_upQue _ _).trans (devOnly_upQue _ _)) ⟨by simp, fun j hj => by simp [hj]⟩
    · have hb := bell_outside e h0 (by rwa [anyQueue_of_lt hq])
      exact runs_queueDoorbell hq hst hpart hb (devOnly_upQue _ _) rfl
  · dsimp only
    intro h0 h1 h2
    refine runs_onReg rfl hr (by simp) (by simp) (by simp) (by simp) (fun d _ => ?_) (fun d hd => ?_)
    · exact (devOnly_doCtlDoorbell d v).mono (by simp)
    · have hq : d.que = s.dev.que := hd .que (by simp)
      have hb := bell_within (d := d) (q := ctlQ) (v := v) { ce := [], ue := [] }
      simp only [Dev.anyQueue, if_true, Dev.ctlQueue, Queue.size, hq] at hb
      rw [report_que, doCtlDoorbell_host, hb h0 h1 h2, readHead_ctl]
      simp only [Dev.upAnyQueue, if_true, Dev.ctlQueue, upQue_que, hq]
  · obtain rfl | rfl : cmd = .syncIncrementApply n a ∨ cmd = .syncCounterDoorbell n a := by simpa using hcmd
    all_goals
      refine runs_dev (D := s.dev.incrCounter n a) ((unitOk_true (decide_eq_true hn)).trans ?_) (devOnly_incrCounter _ _ _)
        ⟨by rw [counter_incrCounter, if_pos rfl], fun j hj => by rw [counter_incrCounter, if_neg hj], incrCounter_src s.dev n a⟩
    · rw [onDev, doSyncIncrementApply]; simp [hb, hrdy, ha]
    · rw [onDev, doSyncCounterDoorbell]; simp [hb, hrdy, ha]
  · refine runs_dev (D := s.dev.refuseIncr) ((unitOk_true (decide_eq_true hn)).trans ?_) (devOnly_upSyn _ _) rfl
    have hcond : ((s.dev.counter n).bound && (s.dev.part (s.dev.counter n).part).ready && a != 0) = false := by
      rw [Bool.eq_false_iff]; intro h; exact hno (by simpa [and_assoc] using h)
    rw [onDev, doSyncIncrementApply, hcond]
    rfl

end

section
/-! PROOFS. Dispatch, and the work orders that need no other unit (R148, R156, R83). -/

namespace Sys2Proof.Machine

/-! ### What a flight keeps at its dispatch -/

/-- The two flights are of the same work order, as far taken. -/
def Flight.like (f g : Flight) : Prop :=
  g.queue = f.queue ∧ g.index = f.index ∧ g.part = f.part ∧ g.wo = f.wo ∧ g.started = f.started

theorem like_refl (f : Flight) : f.like f := ⟨rfl, rfl, rfl, rfl, rfl⟩

theorem like_trans {f g h : Flight} (a : f.like g) (b : g.like h) : f.like h := by
  obtain ⟨a1, a2, a3, a4, a5⟩ := a
  obtain ⟨b1, b2, b3, b4, b5⟩ := b
  exact ⟨b1.trans a1, b2.trans a2, b3.trans a3, b4.trans a4, b5.trans a5⟩

theorem takeRegion_spec (d : Dev) (f : Flight) : DevOnly [.mld] d (d.takeRegion f).1 ∧ f.like (d.takeRegion f).2 ∧
    (woOp f.wo ≠ 0x02 → (d.takeRegion f).2 = f) := by
  unfold Dev.takeRegion
  split
  · rename_i h
    simp only [Bool.and_eq_true, decide_eq_true_eq] at h
    refine ⟨?_, ?_, fun hne => absurd h.1 hne⟩
    · split
      · exact devOnly_upMld _ _
      · exact DevOnly.refl _ _
    · split <;> exact ⟨rfl, rfl, rfl, rfl, rfl⟩
  · exact ⟨DevOnly.refl _ _, like_refl f, fun _ => rfl⟩

theorem devOnly_upPlan (d : Dev) (n : Nat) (f : Plan → Plan) : DevOnly [.ldl] d (d.upPlan n f) := devOnly_upLdl _ _

theorem takeInst_spec (d : Dev) (f : Flight) : DevOnly [.ldl] d (d.takeInst f).1 ∧ f.like (d.takeInst f).2 ∧
    (isCol f.wo = false → (d.takeInst f).2 = f) := by
  unfold Dev.takeInst
  split
  · exact ⟨DevOnly.refl _ _, like_refl f, fun _ => rfl⟩
  · rename_i h
    have hcol : isCol f.wo = true := by simpa using h
    refine ⟨?_, ?_, fun hno => absurd hno (by simp [hcol])⟩ <;> dsimp only <;> split
    · exact DevOnly.refl _ _
    · split
      · split <;> exact (devOnly_upPlan _ _ _).trans (devOnly_upPlan _ _ _)
      · exact (devOnly_upPlan _ _ _).trans (devOnly_upPlan _ _ _)
    · exact like_refl f
    · split
      · split <;> exact ⟨rfl, rfl, rfl, rfl, rfl⟩
      · exact like_refl f

theorem takeBlock_spec (d : Dev) (f : Flight) : DevOnly [.twin] d (d.takeBlock f).1 ∧ f.like (d.takeBlock f).2 ∧
    (d.takeBlock f).2.status = f.status := by
  unfold Dev.takeBlock
  dsimp only
  split
  · exact ⟨DevOnly.refl _ _, like_refl f, rfl⟩
  · exact ⟨devOnly_upTwin _ _, ⟨rfl, rfl, rfl, rfl, rfl⟩, rfl⟩

/-- R192, R247, R375: what a dispatched work order of a partition's queue reserves. -/
def Dev.reserve (d : Dev) (f : Flight) : Dev × Flight :=
  let x := d.takeRegion f
  let y := x.1.takeInst x.2
  y.1.takeBlock y.2

theorem reserve_spec (d : Dev) (f : Flight) : DevOnly [.mld, .ldl, .twin] d (d.reserve f).1 ∧ f.like (d.reserve f).2 ∧
    (woOp f.wo ≠ 0x02 → isCol f.wo = false → (d.reserve f).2.status = f.status) := by
  obtain ⟨o1, l1, s1⟩ := takeRegion_spec d f
  obtain ⟨o2, l2, s2⟩ := takeInst_spec (d.takeRegion f).1 (d.takeRegion f).2
  obtain ⟨o3, l3, s3⟩ := takeBlock_spec ((d.takeRegion f).1.takeInst (d.takeRegion f).2).1 ((d.takeRegion f).1.takeInst (d.takeRegion f).2).2
  refine ⟨((o1.mono (by simp)).trans (o2.mono (by simp))).trans (o3.mono (by simp)), like_trans l1 (like_trans l2 l3), fun hop hcol => ?_⟩
  rw [Dev.reserve, s3, s2 (by rw [s1 hop]; exact hcol), s1 hop]

/-! ### The flight that a dispatch makes (R147, R148, R163) -/

/-- The flight as the engine makes it from the head, before it reserves anything. -/
def Dev.headFlight (d : Dev) (q : Nat) : Flight :=
  let x := d.anyQueue q
  let w := x.head.getD []
  let p := if q = ctlQ then 0 else x.part
  let det := if w = [] then 0 else d.malformed w (q == ctlQ) p
  let f := Flight.make q x.disp p (if w = [] then List.replicate 64 0 else w)
  if w = [] then { f with status := some stUe, nojudge := true }
  else if det != 0 then { f with status := some stMould, detail := det, nojudge := true }
  else if w != [] && det == 0 && woOp w == 0x01 && d.groupFailed p (woOpd w 0 2) then { f with status := some stShort } else f

/-- Everything that a dispatch does: the head leaves the queue, the flight joins those in flight, the next head is read. -/
theorem doDispatch_chosen {d : Dev} {q : Nat} (e : Ecc) (h : d.chosen q = true) : doDispatch d q e =
    let x := d.anyQueue q
    let f := d.headFlight q
    let d1 := d.upAnyQueue q (fun x => { x with disp := (x.disp + 1) % 2 ^ 32, head := none })
    let y := if f.status.isNone && q != ctlQ then d1.reserve f else (d1, f)
    let d2 := y.1.upQue (fun m => { m with
      flights := m.flights ++ [y.2], rr := if q = ctlQ then m.rr else tset 0 m.rr (engineOf q * 4 + x.prio) q })
    let d3 := if y.2.status.isNone && q != ctlQ then
        d2.trace 0x01 (if q = ctlQ then 0 else x.part) (engineOf q / 4)
          (q % 2 ^ 15 + woOp (x.head.getD []) * 2 ^ 15 + x.disp % 2 ^ 25 * 2 ^ 23)
      else d2
    d3.readHead q e := by
  unfold doDispatch
  rw [if_pos h]
  rfl

/-- R147, R163: the flight of the head names it, and ends at once where the head could not be read or is malformed. -/
theorem headFlight_spec (d : Dev) (q : Nat) :
    let x := d.anyQueue q
    let w := x.head.getD []
    let p := if q = ctlQ then 0 else x.part
    let f := d.headFlight q
    f.queue = q ∧ f.index = x.disp ∧ f.part = p ∧ f.started = false ∧
    (w = [] → f.status = some stUe ∧ f.wo = List.replicate 64 0) ∧ (w ≠ [] → f.wo = w) ∧
    (w ≠ [] → d.malformed w (q == ctlQ) p ≠ 0 → f.status = some stMould ∧ f.detail = d.malformed w (q == ctlQ) p) ∧
    (w ≠ [] → d.malformed w (q == ctlQ) p = 0 → (woOp w = 0x01 → d.groupFailed p (woOpd w 0 2) = false) → f.status = none) := by
  dsimp only
  unfold Dev.headFlight
  dsimp only
  by_cases hw : (d.anyQueue q).head.getD [] = []
  · simp [hw, Flight.make]
  · by_cases hm : d.malformed ((d.anyQueue q).head.getD []) (q == ctlQ) (if q = ctlQ then 0 else (d.anyQueue q).part) = 0
    · by_cases hs : woOp ((d.anyQueue q).head.getD []) = 0x01 ∧
        d.groupFailed (if q = ctlQ then 0 else (d.anyQueue q).part) (woOpd ((d.anyQueue q).head.getD []) 0 2) = true
      · simp [hw, hm, hs, Flight.make]
      · simp [hw, hm, hs, Flight.make]
    · simp [hw, hm, Flight.make]

end Sys2Proof.Machine
end

section
/-! PROOFS. The obligations about dispatch and about work orders that need no other unit. -/

open Sys2Proof Sys2Proof.Machine

/-- Settles O23: the head's flight, with what it reserves, joins those in flight; reading the next head changes no count. -/
theorem dispatchTakesTheHead : Obligations.DispatchTakesTheHead := by
  intro s q e hq
  have hunit : decide (q ≤ 32768) = true := decide_eq_true hq
  refine ⟨fun hno => ?_, fun hyes => ?_⟩
  · refine (unitOk_true hunit).trans ?_
    have hdo : doDispatch s.dev q e = s.dev := by unfold doDispatch; rw [hno]; rfl
    rw [onDevN, hdo, report_quiet s.dev s.dev (fun _ _ => rfl) rfl rfl]
  · dsimp only
    obtain ⟨hfq, hfi, hfp, hfs, hfe, hfw, hfm, hfn⟩ := headFlight_spec s.dev q
    have hdo := doDispatch_chosen e hyes
    dsimp only at hdo
    generalize s.dev.headFlight q = f at *
    obtain ⟨hp1, hd1, hr1, -⟩ := anyQueue_upAnyQueue s.dev q (fun x => { x with disp := (x.disp + 1) % 2 ^ 32, head := none })
    have hq1 := fun j hj => queue_upAnyQueue_ne s.dev (q := q) (j := j) (fun x => { x with disp := (x.disp + 1) % 2 ^ 32, head := none }) hj
    have hf1 := upAnyQueue_flights s.dev q (fun x => { x with disp := (x.disp + 1) % 2 ^ 32, head := none })
    have ho1 := devOnly_upAnyQueue s.dev q (fun x => { x with disp := (x.disp + 1) % 2 ^ 32, head := none })
    generalize s.dev.upAnyQueue q (fun x => { x with disp := (x.disp + 1) % 2 ^ 32, head := none }) = d1 at *
    have hy : ∃ d2 g, (if f.status.isNone && q != ctlQ then d1.reserve f else (d1, f)) = (d2, g) ∧ DevOnly [.mld, .ldl, .twin] d1 d2 ∧
        f.like g ∧ (f.status ≠ none → g = f) ∧ (woOp f.wo ≠ 0x02 → isCol f.wo = false → g.status = f.status) := by
      obtain ⟨o, l, st⟩ := reserve_spec d1 f
      split
      · rename_i h
        simp only [Bool.and_eq_true, Option.isNone_iff_eq_none] at h
        exact ⟨_, _, rfl, o, l, fun hne => absurd h.1 hne, st⟩
      · exact ⟨_, _, rfl, DevOnly.refl _ _, like_refl f, fun _ => rfl, fun _ _ => rfl⟩
    obtain ⟨d2, g, hy, ho2, ⟨lq, li, lp, lw, ls⟩, hgf, hgs⟩ := hy
    rw [hy] at hdo
    dsimp only at hdo
    have hque2 : d2.que = d1.que := ho2 .que (by simp)
    generalize hd3 : d2.upQue _ = d3 at hdo
    have ho3 : DevOnly [.que] d2 d3 := hd3 ▸ devOnly_upQue _ _
    have hany3 : d3.anyQueue q = d1.anyQueue q := by
      rw [← anyQueue_same (d := d1) (e := d2) hque2, ← hd3]; rfl
    have hque3 : ∀ j, d3.queue j = d1.queue j := fun j => by
      rw [← queue_same (d := d1) (e := d2) hque2, ← hd3]; rfl
    have hfl3 : d3.que.flights = d1.que.flights ++ [g] := by rw [← hque2, ← hd3]; rfl
    generalize hd4 : (if g.status.isNone && q != ctlQ then _ else d3) = d4 at hdo
    have ho4 : DevOnly [.cat] d3 d4 := hd4 ▸ (devOnly_trace _ _ _ _ _).ite (DevOnly.refl _ _)
    have hque4 : d4.que = d3.que := ho4 .que (by simp)
    obtain ⟨hp5, hd5, hr5, hq5, hf5⟩ := readHead_keeps d4 q e
    rw [anyQueue_same hque4, hany3] at hp5 hd5 hr5
    have ho5 := devOnly_readHead d4 q e
    rw [← hdo] at hp5 hd5 hr5 hq5 hf5 ho5
    refine runs_onDevN (f := fun d => doDispatch d q e) (unitOk_true hunit) ?_ (by simp) (by simp) ?_
    · exact ((((ho1.mono (by simp)).trans (ho2.mono (by simp))).trans (ho3.mono (by simp))).trans (ho4.mono (by simp))).trans
        (ho5.mono (by simp))
    · rw [anyQueue_same (d := doDispatch s.dev q e) (report_que _ _)]
      refine ⟨hd5.trans hd1, hp5.trans hp1, hr5.trans hr1, fun j hj => ?_, g, ?_, lq.trans hfq, li.trans hfi, lp.trans hfp, ls.trans hfs,
        fun hw => ?_, fun hw => lw.trans (hfw hw), fun hw hm => ?_, fun hw hm hop hcol hsh => ?_⟩
      · rw [report_queue, hq5 j hj, queue_same hque4, hque3, hq1 j hj]
      · rw [report_que, hf5, hque4, hfl3, hf1]
      · obtain ⟨hst, hwo⟩ := hfe hw
        rw [hgf (by rw [hst]; simp)]
        exact ⟨hst, hwo⟩
      · obtain ⟨hst, hdet⟩ := hfm hw hm
        rw [hgf (by rw [hst]; simp)]
        exact ⟨hst, hdet⟩
      · rw [hgs (by rw [hfw hw]; exact hop) (by rw [hfw hw]; exact hcol)]
        exact hfn hw hm hsh

end

section
/-! PROOFS. Work orders that end as they start, and the start of a run (R83, R156). -/

namespace Sys2Proof.Machine

/-! ### Shapes of exec's arms: the device after the effect -/

section
variable {c : Instr} {s : State} {ok : Bool} {f : Dev → Dev} {D : Dev} {bs : List Block} {post : Dev → Prop}

/-- A command of a unit that exists, whose effect outside the hold state is `D`. -/
theorem runs_unitWork (h : exec c s = unitOk ok (onWork s f)) (hok : ok = true) (hold : s.dev.thm.hold = false) (hD : f s.dev = D)
    (o : DevOnly bs s.dev D) (p : post D) : Runs c s bs post := by
  subst hok hD
  exact runs_onWork (h.trans (unitOk_true rfl)) hold o p

/-- A command of a unit that exists, whose effect `D` the report follows. -/
theorem runs_unitDevN (h : exec c s = unitOk ok (onDevN s f)) (hok : ok = true) (hD : f s.dev = D) (o : DevOnly bs s.dev D)
    (hm : Block.mgmt ∈ bs) (ho : Block.out ∈ bs) (p : post (Dev.report s.dev D)) : Runs c s bs post := by
  subst hok hD
  exact runs_onDevN (h.trans (unitOk_true rfl)) o hm ho p

/-- As runs_unitDevN, outside the hold state. -/
theorem runs_unitWorkN (h : exec c s = unitOk ok (onWorkN s f)) (hok : ok = true) (hold : s.dev.thm.hold = false) (hD : f s.dev = D)
    (o : DevOnly bs s.dev D) (hm : Block.mgmt ∈ bs) (ho : Block.out ∈ bs) (p : post (Dev.report s.dev D)) : Runs c s bs post := by
  have hD' : (fun d : Dev => if d.thm.hold then d else f d) s.dev = D := by simp only [hold, Bool.false_eq_true, if_false, hD]
  exact runs_unitDevN h hok hD' o hm ho p

end

/-! ### Work orders that end as they start -/

/-- R155: a work order that its unit takes and ends at once, whatever else the unit did before. -/
theorem ended_startWork {d e : Dev} {q i : Nat} {f : Flight} (hf : d.flight q i = some f) (hs : f.status = none)
    (he : ∀ q' i', e.flight q' i' = d.flight q' i') (st x y : Nat) :
    Ended q i f st x y d ((e.startWork q i).endWork q i st x y) := by
  refine ⟨?_, fun q' i' hne => ?_⟩
  · simp only [flight_end, flight_startWork, he, hf, and_self, if_true, Option.map_some, hs, Option.isSome_none, Bool.false_eq_true,
      if_false]
  · rw [flight_end, if_neg hne, flight_startWork, if_neg hne, he]

theorem devOnly_startWork (d : Dev) (q i : Nat) : DevOnly [.que] d (d.startWork q i) := devOnly_upQue _ _

theorem devOnly_startEnd (d : Dev) (q i st x y : Nat) : DevOnly [.que] d ((d.startWork q i).endWork q i st x y) :=
  (devOnly_startWork _ _ _).trans (devOnly_endWork _ _ _ _ _ _)

/-! ### The start of a run -/

@[simp] theorem slotOf_upCell (d : Dev) (n : Nat) (f : Slot → Slot) (m : Nat) : (d.upCell n f).slotOf m = d.slotOf m := by
  unfold Dev.upCell
  split <;> rfl

theorem slot_upCell_of_ne {d : Dev} {n k : Nat} (f : Slot → Slot) (h : d.slotOf n ≠ some k) : (d.upCell n f).slot k = d.slot k := by
  unfold Dev.upCell
  split
  · rename_i j hj
    rw [slot_upSlot, if_neg]
    rintro rfl
    exact h hj
  · rfl

theorem slot_upCell_of_eq {d : Dev} {n k : Nat} (f : Slot → Slot) (h : d.slotOf n = some k) : (d.upCell n f).slot k = f (d.slot k) := by
  unfold Dev.upCell
  rw [h]
  simp

/-- Cells updated in order, no two of which are on one slot: each slot takes its own update. -/
theorem slot_eachCell {α : Type} (cell : α → Nat) (F : α → Slot → Slot) (l : List α) (d : Dev)
    (hne : l.Pairwise (fun x y => d.slotOf (cell x) ≠ d.slotOf (cell y))) :
    (∀ x ∈ l, ∀ k, d.slotOf (cell x) = some k → (d.each l (fun d x => d.upCell (cell x) (F x))).slot k = F x (d.slot k)) ∧
    (∀ k, (∀ x ∈ l, d.slotOf (cell x) ≠ some k) → (d.each l (fun d x => d.upCell (cell x) (F x))).slot k = d.slot k) := by
  induction l generalizing d with
  | nil => exact ⟨fun x hx => absurd hx (by simp), fun _ _ => rfl⟩
  | cons a l ih =>
    obtain ⟨ha, hl⟩ := List.pairwise_cons.mp hne
    have hstep : d.each (a :: l) (fun d x => d.upCell (cell x) (F x)) =
        (d.upCell (cell a) (F a)).each l (fun d x => d.upCell (cell x) (F x)) := rfl
    obtain ⟨ih1, ih2⟩ := ih (d.upCell (cell a) (F a)) (by simpa using hl)
    simp only [slotOf_upCell] at ih1 ih2
    rw [hstep]
    refine ⟨fun x hx k hk => ?_, fun k hk => ?_⟩
    · rcases List.mem_cons.mp hx with rfl | hx
      · rw [ih2 k (fun y hy hyk => ha y hy (by rw [hk, hyk])), slot_upCell_of_eq _ hk]
      · rw [ih1 x hx k hk, slot_upCell_of_ne]
        intro hak
        exact ha x hx (by rw [hak, hk])
    · rw [ih2 k (fun y hy => hk y (List.mem_cons_of_mem _ hy)), slot_upCell_of_ne _ (hk a (List.mem_cons_self ..))]

theorem devOnly_eachCell {α : Type} (cell : α → Nat) (F : α → Slot → Slot) (l : List α) (d : Dev) :
    DevOnly [.cat] d (d.each l (fun d x => d.upCell (cell x) (F x))) :=
  devOnly_each _ _ (fun _ _ => devOnly_upCell _ _ _) _

theorem runs_eachCell {α : Type} (cell : α → Nat) (F : α → Slot → Slot) (l : List α) (d : Dev) :
    (d.each l (fun d x => d.upCell (cell x) (F x))).cat.runs = d.cat.runs :=
  each_inv (fun d => d.cat.runs) l _ (fun _ _ => runs_upCell _ _ _) d

theorem bitsOf_nodup (n v : Nat) : (bitsOf n v).Nodup := List.nodup_range.filter _

theorem devOnly_upCat_runs (d : Dev) (f : Cat → List Run) : DevOnly [.cat] d (d.upCat (fun c => { c with runs := f c })) := devOnly_upCat _ _

/-- R83: a run starts, its cells taking their start values by rank, where nothing keeps it from starting. -/
theorem doRunPattern_starts {d : Dev} {q i : Nat} {f : Flight} {g : Group} (h : d.take q i 0x01 = some f)
    (hg : d.groupOf f.part (woOpd f.wo 0 2) = some g) (hfree : ∀ r ∈ d.cat.runs, ∀ n ∈ r.cells, n ∉ g.list)
    (hswap : d.swapCovers g.list = false) (hbad : ∀ n ∈ g.list, bit d.cat.swapBad n = false)
    (hpar : ∀ n ∈ g.list, ∀ k, d.slotOf n = some k → ∀ kv ∈ (d.slot k).inBuf, ∀ w ∈ kv.2, w.bad = false) :
    doRunPattern d q i =
      let d1 := (d.startWork q i).each g.list.zipIdx (fun d x => d.upCell x.1 (fun s => s.startRun f.wo x.1 x.2))
      let d2 := d1.upCat (fun c => { c with runs := c.runs ++ [⟨q, i, woOpd f.wo 0 2, f.part, g.list, woOpd f.wo 2 2, none⟩] })
      d2.trace 0x03 f.part (engineOf q / 4) (woOpd f.wo 0 2 % 2 ^ 10 + woOpd f.wo 2 2 % 2 ^ 12 * 2 ^ 10) := by
  have hany : d.cat.runs.any (fun r => r.cells.any (fun n => g.list.contains n)) = false := by
    simp only [List.any_eq_false, Bool.not_eq_true, List.contains_eq_mem, decide_eq_false_iff_not]
    exact fun r hr n hn => hfree r hr n hn
  have hsb : g.list.any (fun n => bit d.cat.swapBad n) = false := by
    rw [List.any_eq_false]
    intro n hn
    rw [hbad n hn]
    simp
  unfold doRunPattern
  rw [h]
  simp only [hg, hany, hswap, hsb, Bool.or_self, Bool.false_eq_true, if_false]
  split
  · rename_i n port hhead
    obtain ⟨m, hm, hmem⟩ := List.mem_flatMap.mp (List.mem_of_mem_head? hhead)
    split at hmem
    · rename_i k hk
      obtain ⟨kv, hkv, -⟩ := List.mem_map.mp hmem
      obtain ⟨hin, hbadw⟩ := List.mem_filter.mp hkv
      obtain ⟨w, hw, hwb⟩ := List.any_eq_true.mp hbadw
      rw [hpar m hm k hk kv hin w hw] at hwb
      cases hwb
    · cases hmem
  · rfl

/-- The cells of a list whose slots are distinct, ranked, are pairwise on different slots. -/
theorem zipIdx_pairwise_slot {d : Dev} {l : List Nat} (hd : l.Nodup) (hinj : ∀ n ∈ l, ∀ m ∈ l, d.slotOf n = d.slotOf m → n = m) :
    l.zipIdx.Pairwise (fun x y => d.slotOf x.1 ≠ d.slotOf y.1) := by
  have h : (l.zipIdx.map (·.1)).Pairwise (fun a b => d.slotOf a ≠ d.slotOf b) := by
    rw [List.zipIdx_map_fst]
    exact hd.imp_of_mem (fun {a b} ha hb hne heq => hne (hinj a ha b hb heq))
  exact List.Pairwise.of_map _ (fun _ _ hne heq => hne heq) h

end Sys2Proof.Machine
end

section
/-! PROOFS. The obligation about work orders that need no other unit. -/

open Sys2Proof Sys2Proof.Machine

/-- Settles O24. -/
theorem workOrdersThatNeedNoOtherUnit : Obligations.WorkOrdersThatNeedNoOtherUnit := by
  intro s q i f hq
  have hle : decide (q ≤ 32768) = true := decide_eq_true hq.le
  have hlt : decide (q < 32768) = true := decide_eq_true hq
  refine ⟨fun h => ?_, fun h => ?_, fun h hn => ?_, fun h hn hb hp => ?_, fun g h hold hg hfree hswap hcells hinj => ?_⟩
  · obtain ⟨hf, -, -, hs⟩ := take_some h
    exact runs_dev ((unitOk_true hle).trans (by rw [onDev, doNopWorkOrder, h]; rfl)) (devOnly_startEnd _ _ _ _ _ _)
      (ended_startWork hf hs (fun _ _ => rfl) 0 0 0)
  · obtain ⟨hf, -, -, hs⟩ := take_some h
    exact runs_dev ((unitOk_true hle).trans (by rw [onDev, doWaitWorkOrder, h]; rfl)) (devOnly_startEnd _ _ _ _ _ _)
      (ended_startWork hf hs (fun _ _ => rfl) 0 0 0)
  · obtain ⟨hf, -, -, hs⟩ := take_some h
    refine runs_dev ((unitOk_true hlt).trans ?_) (devOnly_startEnd _ _ _ _ _ _) (ended_startWork hf hs (fun _ _ => rfl) 0 0 0)
    rw [onDev, doSignal, h]
    simp only [hn, if_true]
    rfl
  · obtain ⟨hf, -, -, hs⟩ := take_some h
    have hend := devOnly_startEnd (s.dev.raise (woOpd f.wo 0 2) 0) q i 0 0 0
    have hsrc := fun j => src_same (hend .evc (by simp)) j
    have hr := src_raise (i := 0) (Or.inr hb) hp
    refine runs_dev ((unitOk_true hlt).trans ?_) (((devOnly_raise _ _ _).mono (by simp)).trans (hend.mono (by simp)))
      ⟨ended_startWork hf hs (fun _ _ => raise_flight _ _ _ _ _) 0 0 0, ?_, ?_, fun j hj => ?_⟩
    · rw [onDev, doSignal, h]
      simp only [hn, if_false]
      rfl
    · rw [hsrc, hr, if_pos rfl]
    · rw [hsrc, hr, if_pos rfl]; rfl
    · rw [hsrc, hr, if_neg hj]
  · obtain ⟨hf, -, -, -⟩ := take_some h
    have hdo := doRunPattern_starts h hg hfree hswap (fun n hn => (hcells n hn).1) (fun n hn k hk => by
      obtain ⟨-, k', hk', hw⟩ := hcells n hn
      rw [hk] at hk'
      cases hk'
      exact hw)
    dsimp only at hdo
    have hst := devOnly_startWork s.dev q i
    have hcell := devOnly_eachCell Prod.fst (fun x y => y.startRun f.wo x.1 x.2) g.list.zipIdx (s.dev.startWork q i)
    have hruns := runs_eachCell Prod.fst (fun x y => y.startRun f.wo x.1 x.2) g.list.zipIdx (s.dev.startWork q i)
    have hslots := slot_eachCell Prod.fst (fun x y => y.startRun f.wo x.1 x.2) g.list.zipIdx (s.dev.startWork q i)
      (zipIdx_pairwise_slot (d := s.dev) (bitsOf_nodup _ _) hinj)
    generalize (s.dev.startWork q i).each g.list.zipIdx _ = d1 at *
    obtain ⟨hin, hout⟩ := hslots
    have hrest := hcell.trans ((devOnly_upCat_runs _ (fun c => c.runs ++
      [⟨q, i, woOpd f.wo 0 2, f.part, g.list, woOpd f.wo 2 2, none⟩])).trans (devOnly_trace _ 0x03 f.part (engineOf q / 4)
        (woOpd f.wo 0 2 % 2 ^ 10 + woOpd f.wo 2 2 % 2 ^ 12 * 2 ^ 10)))
    refine runs_unitWork rfl hlt hold hdo ((hst.mono (by simp)).trans (hrest.mono (by simp))) ⟨?_, ?_, fun q' i' hne => ?_, fun n rank k hmem hk => ?_, fun k hk => ?_⟩
    · rw [trace_runs, upCat_cat, hruns]; rfl
    · rw [flight_same (hrest .que (by simp)), flight_startWork, if_pos ⟨rfl, rfl⟩, hf]
      rfl
    · rw [flight_same (hrest .que (by simp)), flight_startWork, if_neg hne]
    · rw [slot_trace]; exact hin (n, rank) hmem k hk
    · rw [slot_trace]
      exact hout k (fun x hx => hk x.1 (List.fst_mem_of_mem_zipIdx hx))

end

section
/-! PROOFS. Accesses to granted memory without an error: what they read and write, and that whatever was granted before stays so
(R42, R175). -/

namespace Sys2Proof.Machine

/-! ### The pieces of a granted range -/

/-- R42, R174: a translation depends on the page map, the stacks and the clusters of the partition only. -/
theorem pieces_congr {x y : Part} (hp : y.pages = x.pages) (hs : y.stackSet = x.stackSet) (hc : y.clusters = x.clusters) (need : Nat)
    (own : Bool) (fuel va n : Nat) : y.pieces need own fuel va n = x.pieces need own fuel va n := by
  have hx : ∀ va, y.xlate va need own = x.xlate va need own := fun va => by simp only [Part.xlate, Part.page, hp, hs, hc]
  induction fuel generalizing va n with
  | zero => rfl
  | succ fuel ih => simp only [Part.pieces, hx, ih]

/-- R175: the pieces of a granted range make up the range. -/
theorem pieces_total {x : Part} {need : Nat} {own : Bool} {fuel va n : Nat} {l : List (Nat × Nat)} (hf : n = 0 ∨ n + va % 2048 ≤ 2048 * fuel)
    (h : x.pieces need own fuel va n = .ok l) : (l.map (·.2)).sum = n := by
  induction fuel generalizing va n l with
  | zero =>
    cases h
    simp only [List.map_nil, List.sum_nil]
    omega
  | succ fuel ih =>
    unfold Part.pieces at h
    dsimp only at h
    split at h
    · rename_i hn
      cases h
      simp [hn]
    · split at h
      · rename_i pa l' _ hl
        cases h
        have hrest : n - min n (2048 - va % 2048) = 0 ∨
            n - min n (2048 - va % 2048) + (va + min n (2048 - va % 2048)) % 2048 ≤ 2048 * fuel := by
          rcases Nat.le_total n (2048 - va % 2048) with hle | hle
          · rw [min_eq_left hle]; omega
          · rw [min_eq_right hle]; omega
        rw [List.map_cons, List.sum_cons, ih hrest hl]
        omega
      · cases h
      · cases h

theorem memGets_length (t : Tab Byte) (l : List (Nat × Nat)) : (memGets t l).length = (l.map (·.2)).sum := by
  unfold memGets
  rw [List.length_flatMap]
  simp only [tgets_length]

/-- An admitted read gives as many bytes as it asks for. -/
theorem Admits.length {d : Dev} {p va n need : Nat} {own : Bool} {l : List (Nat × Nat)} (h : Admits d p va n need own l) (t : Tab Byte) :
    (memGets t l).length = n := by
  rw [memGets_length]
  refine pieces_total (Or.inr ?_) h.1
  unfold pieceFuel
  omega

/-! ### What keeps the grants -/

/-- Whatever access `d` admits, `e` admits as well, in the same pieces. -/
def Carries (d e : Dev) : Prop := ∀ p va n need own l, Admits d p va n need own l → Admits e p va n need own l

theorem Carries.refl (d : Dev) : Carries d d := fun _ _ _ _ _ _ h => h

theorem Carries.trans {d e f : Dev} (h : Carries d e) (g : Carries e f) : Carries d f := fun p va n need own l a =>
  g p va n need own l (h p va n need own l a)

theorem carries_of {d e : Dev} (hp : ∀ p, (e.part p).pages = (d.part p).pages ∧ (e.part p).stackSet = (d.part p).stackSet ∧
      (e.part p).clusters = (d.part p).clusters)
    (hu : d.mem.ueUnits = [] → e.mem.ueUnits = []) (ha : d.mem.accs = [] → e.mem.accs = []) : Carries d e := by
  rintro p va n need own l ⟨h1, h2, h3, h4⟩
  obtain ⟨e1, e2, e3⟩ := hp p
  exact ⟨by rw [pieces_congr e1 e2 e3]; exact h1, h2, hu h3, ha h4⟩

/-- R192: marking regions stale leaves all else of every partition. -/
theorem part_staleRegions (d : Dev) (p va n j : Nat) : ∃ r, (d.staleRegions p va n).part j = { d.part j with regions := r } := by
  unfold Dev.staleRegions Dev.each
  generalize (d.part p).regions.filter _ = l
  induction l generalizing d with
  | nil => exact ⟨(d.part j).regions, rfl⟩
  | cons a l ih =>
    obtain ⟨r, hr⟩ := ih ((d.upPart p (fun x => { x with regions := tup Region.init x.regions a.1 (fun r => { r with stale := true }) })).raise
      (0xC840 + p) a.1)
    rw [List.foldl_cons, hr, raise_part, part_upPart]
    split
    · rename_i hj
      subst hj
      exact ⟨_, rfl⟩
    · exact ⟨_, rfl⟩

theorem writePieces_sound (rd : Nat) (l : List (Nat × Nat)) (d : Dev) (bs : Bytes) (h : ∀ x ∈ l, ∀ c, locOf x.1 ≠ .carrel c)
    (ha : d.mem.accs = []) (hu : d.mem.ueUnits = []) :
    (d.writePieces rd l bs).1.mem.accs = [] ∧ (d.writePieces rd l bs).1.mem.ueUnits = [] := by
  induction l generalizing d bs with
  | nil => exact ⟨ha, hu⟩
  | cons x l ih =>
    have e := physWrite_quiet d rd x.1 (bs.take x.2) (h x (List.mem_cons_self ..))
    obtain ⟨-, -, p3, p4, -⟩ := memWrite_quiet d rd x.1 (bs.take x.2) ha hu
    simp only [Dev.writePieces, e]
    exact ih _ _ (fun y hy => h y (List.mem_cons_of_mem _ hy)) p3 p4

/-- An admitted write stores its bytes, and leaves the grants and the partitions but for their weight regions. -/
theorem vaWrite_admitted {d : Dev} {p va need : Nat} {own : Bool} {l : List (Nat × Nat)} {bs : Bytes} (rd : Nat)
    (h : Admits d p va bs.length need own l) : ∃ D, d.vaWrite p va need rd own bs = (D, .ok []) ∧
    D.mem.bytes = memPuts d.mem.bytes l bs ∧ DevOnly [.mld, .evc, .mem] d D ∧ Carries d D ∧
    (∀ j, ∃ r, D.part j = { d.part j with regions := r }) := by
  obtain ⟨D, hD, hb, ho⟩ := vaWrite_ok rd h
  have hs := devOnly_staleRegions d p va bs.length
  have hm : (d.staleRegions p va bs.length).mem = d.mem := hs .mem (by simp)
  have hw := devOnly_writePieces rd l (d.staleRegions p va bs.length) bs
  have hsound := writePieces_sound rd l (d.staleRegions p va bs.length) bs h.2.1 (by rw [hm]; exact h.2.2.2) (by rw [hm]; exact h.2.2.1)
  have hDe : D = ((d.staleRegions p va bs.length).writePieces rd l bs).1 := by
    have : (d.vaWrite p va need rd own bs).1 = ((d.staleRegions p va bs.length).writePieces rd l bs).1 := by
      unfold Dev.vaWrite; rw [h.1]
    rw [← this, hD]
  have hpart : ∀ j, ∃ r, D.part j = { d.part j with regions := r } := fun j => by
    rw [hDe, part_same (hw .mld (by simp))]
    exact part_staleRegions d p va bs.length j
  refine ⟨D, hD, hb, ho, carries_of (fun j => ?_) (fun _ => hDe ▸ hsound.2) (fun _ => hDe ▸ hsound.1), hpart⟩
  obtain ⟨r, hr⟩ := hpart j
  rw [hr]
  exact ⟨rfl, rfl, rfl⟩

end Sys2Proof.Machine
end

section
/-! PROOFS. Copies, conversions, gathers, scatters and digests within this device (R157, R183, R188, R190, R191). -/

namespace Sys2Proof.Machine

/-! ### The end of a work order that its unit has taken -/

/-- R155: between taking and ending the work order its unit changed no flight. -/
theorem ended_endWork {d e : Dev} {q i : Nat} {f : Flight} (hf : d.flight q i = some f) (hs : f.status = none)
    (he : Block.same .que (d.startWork q i) e) (st x y : Nat) : Ended q i f st x y d (e.endWork q i st x y) := by
  refine ⟨?_, fun q' i' hne => ?_⟩
  · simp only [flight_end, flight_same he, flight_startWork, hf, and_self, if_true, Option.map_some, hs, Option.isSome_none,
      Bool.false_eq_true, if_false]
  · rw [flight_end, if_neg hne, flight_same he, flight_startWork, if_neg hne]

theorem ended_report {old d e : Dev} {q i st x y : Nat} {f : Flight} (h : Ended q i f st x y d e) :
    Ended q i f st x y d (Dev.report old e) := by
  simpa only [Ended, ButWork, report_flight] using h

/-! ### Copies in order -/

theorem memMoves_outside (src dst : Nat → List (Nat × Nat)) (l : List (Nat × Nat)) (t : Tab Byte) (a : Nat)
    (h : ∀ x ∈ l, Outside (dst x.2) a) : tget 0 (memMoves t src dst l) a = tget 0 t a := by
  unfold memMoves
  induction l generalizing t with
  | nil => rfl
  | cons x l ih =>
    rw [List.foldl_cons, ih _ (fun y hy => h y (List.mem_cons_of_mem _ hy)), memPuts_get _ _ _ _ (h x (List.mem_cons_self ..))]

/-- A read and a write, both admitted, move the bytes. -/
theorem move_admitted {d : Dev} {p src dst n need need' : Nat} {own own' : Bool} {ls ld : List (Nat × Nat)} (rd rd' : Nat)
    (hs : Admits d p src n need own ls) (hd : Admits d p dst n need' own' ld) :
    d.vaRead p src n need rd own Ecc.quiet = (d, .ok (memGets d.mem.bytes ls)) ∧
    ∃ D, d.vaWrite p dst need' rd' own' (memGets d.mem.bytes ls) = (D, .ok []) ∧
      D.mem.bytes = memPuts d.mem.bytes ld (memGets d.mem.bytes ls) ∧ DevOnly [.mld, .evc, .mem] d D ∧ Carries d D := by
  have hlen : (memGets d.mem.bytes ls).length = n := hs.length _
  obtain ⟨D, hD, hb, ho, hc, -⟩ := vaWrite_admitted rd' (bs := memGets d.mem.bytes ls) (by rw [hlen]; exact hd)
  exact ⟨vaRead_quiet rd hs, D, hD, hb, ho, hc⟩

/-- R157: the pieces of a local COPY, all granted, in order. -/
theorem copyLocal_admitted (p src dst : Nat) (ls ld : Nat → List (Nat × Nat)) (l : List (Nat × Nat)) (d : Dev) (b : Nat)
    (h : ∀ x ∈ l, Admits d p (src + x.1) x.2 1 true (ls x.1) ∧ Admits d p (dst + x.1) x.2 2 true (ld x.1)) :
    ∃ D, Dev.copyLocal p src dst Ecc.quiet l d b stOk = (D, b + (l.map (·.2)).sum, stOk) ∧
      D.mem.bytes = memMoves d.mem.bytes ls ld (l.map (fun x => (x.1, x.1))) ∧ DevOnly [.mld, .evc, .mem] d D := by
  induction l generalizing d b with
  | nil => exact ⟨d, rfl, rfl, DevOnly.refl _ _⟩
  | cons x l ih =>
    obtain ⟨o, n⟩ := x
    obtain ⟨hs, hd⟩ := h (o, n) (List.mem_cons_self ..)
    obtain ⟨hr, D, hw, hb, ho, hc⟩ := move_admitted 4 4 hs hd
    have hpiece : d.copyPiece p (src + o) (dst + o) n Ecc.quiet = (D, stOk) := by
      unfold Dev.copyPiece
      rw [hr]
      simp only [hw]
      rfl
    obtain ⟨E, he, heb, heo⟩ := ih D (b + n) (fun y hy =>
      ⟨hc _ _ _ _ _ _ (h y (List.mem_cons_of_mem _ hy)).1, hc _ _ _ _ _ _ (h y (List.mem_cons_of_mem _ hy)).2⟩)
    refine ⟨E, ?_, ?_, ho.trans heo⟩
    · rw [Dev.copyLocal, hpiece]
      simp only [if_true, he, List.map_cons, List.sum_cons, Nat.add_assoc]
    · rw [heb, hb]; rfl

/-- R190: the rows of a GATHER or SCATTER, all granted, in list order. -/
theorem growList_admitted (p table row dst : Nat) (sc : Bool) (ls ld : Nat → List (Nat × Nat)) (l : List Nat) (k : Nat) (d : Dev)
    (h : ∀ x ∈ l.zipIdx k,
      Admits d p (if sc then dst + x.2 * row else table + x.1 * row) row 0x21 true (ls (if sc then x.2 else x.1)) ∧
      Admits d p (if sc then table + x.1 * row else dst + x.2 * row) row 0x22 true (ld (if sc then x.1 else x.2))) :
    ∃ D, Dev.growList p table row dst sc Ecc.quiet l k d = (D, k + l.length, .ok []) ∧
      D.mem.bytes = memMoves d.mem.bytes ls ld ((l.zipIdx k).map (fun x => if sc then (x.2, x.1) else x)) ∧
      DevOnly [.mld, .evc, .mem] d D := by
  induction l generalizing k d with
  | nil => exact ⟨d, rfl, rfl, DevOnly.refl _ _⟩
  | cons ix l ih =>
    rw [List.zipIdx_cons] at h ⊢
    obtain ⟨hs, hd⟩ := h (ix, k) (List.mem_cons_self ..)
    obtain ⟨hr, D, hw, hb, ho, hc⟩ := move_admitted 4 4 hs hd
    have hgrow : d.grow p (table + ix * row) (dst + k * row) row sc Ecc.quiet = (D, .ok []) := by
      unfold Dev.grow
      dsimp only
      rw [hd.1]
      simp only [hr, hw]
    obtain ⟨E, he, heb, heo⟩ := ih (k + 1) D (fun y hy =>
      ⟨hc _ _ _ _ _ _ (h y (List.mem_cons_of_mem _ hy)).1, hc _ _ _ _ _ _ (h y (List.mem_cons_of_mem _ hy)).2⟩)
    refine ⟨E, ?_, ?_, ho.trans heo⟩
    · rw [Dev.growList, hgrow]
      simp only [he, List.length_cons]
      rw [show k + 1 + l.length = k + (l.length + 1) by omega]
    · rw [heb, hb]
      cases sc <;> rfl

theorem chunksOf_length {α : Type} {w n : Nat} {l : List α} (hw : 0 < w) (h : l.length = w * n) : (chunksOf w n l).length = n := by
  induction n generalizing l with
  | zero => rfl
  | succ n ih =>
    cases l with
    | nil => simp at h; omega
    | cons a l =>
      rw [chunksOf, List.length_cons, ih]
      · rw [List.length_drop, h, Nat.mul_succ]; omega
      · simp

/-! ### Conversion (R188) -/

/-- R188: a granted conversion: the ledger takes the counts, the destination the transcoder's bytes. -/
theorem xcode_admitted {d : Dev} {p q i src dst n fa fb : Nat} {ls lc ld : List (Nat × Nat)}
    (hs : Admits d p src (tensorBytes fa n) 0x21 true ls) (hc : Admits d p dst (tensorBytes fb n) 0x22 true lc)
    (hd : Admits d p dst (transcode fa fb n (memGets d.mem.bytes ls)).1.length 0x22 true ld) :
    ∃ D, d.xcode p q i src dst n fa fb Ecc.quiet = (D, .ok []) ∧
      D.mem.bytes = memPuts d.mem.bytes ld (transcode fa fb n (memGets d.mem.bytes ls)).1 ∧
      DevOnly [.mld, .evc, .mem] (d.ledger p q i (transcode fa fb n (memGets d.mem.bytes ls)).2) D ∧
      (D.part p).sat = satAdd 64 (d.part p).sat (transcode fa fb n (memGets d.mem.bytes ls)).2.sat := by
  generalize hout : transcode fa fb n (memGets d.mem.bytes ls) = out at hd ⊢
  have hled : Carries d (d.ledger p q i out.2) := carries_of (fun j => by
      simp only [Dev.ledger, part_upFlight, part_upPart]
      split
      · rename_i hj
        subst hj
        exact ⟨rfl, rfl, rfl⟩
      · exact ⟨rfl, rfl, rfl⟩) id id
  obtain ⟨D, hw, hb, ho, -, hp⟩ := vaWrite_admitted 4 (hled _ _ _ _ _ _ hd)
  refine ⟨D, ?_, hb, ho, ?_⟩
  · unfold Dev.xcode
    rw [hc.1]
    simp only [vaRead_quiet 4 hs, hout, hw]
  · obtain ⟨r, hr⟩ := hp p
    rw [hr]
    exact ledger_sat d p q i out.2

end Sys2Proof.Machine
end

section
/-! PROOFS. The obligation about copies, conversions, gathers, scatters and digests. -/

open Sys2Proof Sys2Proof.Machine

/-- Settles O25: every access is a granted one, so each command is a chain of plain table writes. -/
theorem copiesConversionsGathersAndScatters : Obligations.CopiesConversionsGathersAndScatters := by
  refine ⟨?_, ?_, ?_, ?_, ?_, ?_⟩
  · intro s q i f dg ls ld hq hold
    dsimp only
    intro htake hfmt hdg hfa hfb hbad hden hl
    have hlt : decide (q < 32768) = true := decide_eq_true hq
    obtain ⟨hf, -, -, hst⟩ := take_some htake
    obtain ⟨D, hD, hb, ho⟩ := copyLocal_admitted f.part (woOpd f.wo 0 8 % 2 ^ 44) (woOpd f.wo 8 8 % 2 ^ 44) ls ld (copyPieces f.wo)
      (s.dev.startWork q i) 0 hl
    have hcopy : s.dev.copy q i dg Ecc.quiet = D.endWork q i stOk 0 ((copyPieces f.wo).map (·.2)).sum := by
      have hnear : ∀ a, (s.dev.startWork q i).far a = s.dev.far a := fun _ => rfl
      have hden' : (s.dev.startWork q i).copyDenied f.part (woOpd f.wo 0 8) (woOpd f.wo 8 8) (woOpd f.wo 16 4)
        (woOpd f.wo 0 8 == woOpd f.wo 8 8) dg = none := hden
      have hnmu : (dg && (s.dev.startWork q i).nmuBad f.part) = false := by
        cases dg
        · rfl
        · exact (hbad rfl).1
      have hsame : (dg && woOpd f.wo 0 8 == woOpd f.wo 8 8) = false := by
        cases dg
        · rfl
        · simpa using (hbad rfl).2
      unfold Dev.copy
      rw [htake]
      simp only [hfmt, hdg, hnmu, hden', hsame, hnear, hfa, hfb, bne_self_eq_false, Bool.or_self, Bool.or_false, Bool.false_eq_true,
        if_false, decide_eq_true_eq]
      split
      · rename_i hn
        have hnil : copyPieces f.wo = [] := by simp [copyPieces, hn, cutPieces]
        rw [hnil] at hD ⊢
        cases hD
        rfl
      · rw [hD, Nat.zero_add]
    have hends := ended_endWork hf hst (ho .que (by simp)) stOk 0 ((copyPieces f.wo).map (·.2)).sum
    have honly : DevOnly [.que, .mem, .mld, .evc, .mgmt, .out] s.dev (D.endWork q i stOk 0 ((copyPieces f.wo).map (·.2)).sum) :=
      (((devOnly_startWork _ _ _).mono (by simp)).trans (ho.mono (by simp))).trans ((devOnly_endWork _ _ _ _ _ _).mono (by simp))
    have hmem : (D.endWork q i stOk 0 ((copyPieces f.wo).map (·.2)).sum).mem.bytes =
        memMoves s.dev.mem.bytes ls ld ((copyPieces f.wo).map (fun x => (x.1, x.1))) := hb
    have hpost : ∀ e, Dev.report s.dev (D.endWork q i stOk 0 ((copyPieces f.wo).map (·.2)).sum) = e →
        e.mem.bytes = memMoves s.dev.mem.bytes ls ld ((copyPieces f.wo).map (fun x => (x.1, x.1))) ∧
        (∀ adr, (∀ x ∈ copyPieces f.wo, Outside (ld x.1) adr) → tget 0 e.mem.bytes adr = tget 0 s.dev.mem.bytes adr) ∧
        Ended q i f 0 0 ((copyPieces f.wo).map (fun x => x.2)).sum s.dev e := by
      rintro e rfl
      rw [report_mem, hmem]
      refine ⟨rfl, fun adr hout => memMoves_outside _ _ _ _ _ (fun x hx => ?_), ended_report hends⟩
      obtain ⟨y, hy, rfl⟩ := List.mem_map.mp hx
      exact hout y hy
    cases dg
    · exact runs_unitWorkN rfl hlt hold hcopy honly (by simp) (by simp) (hpost _ rfl)
    · exact runs_unitWorkN rfl hlt hold hcopy honly (by simp) (by simp) (hpost _ rfl)
  · intro s q i f ls lc ld hq hold
    dsimp only
    intro htake hfa hbad hs hc hd
    obtain ⟨hf, -, -, hst⟩ := take_some htake
    obtain ⟨D, hx, hb, ho, hsat⟩ := xcode_admitted (d := s.dev.startWork q i) (q := q) (i := i) hs hc hd
    have hdo : doCopyConvert s.dev q i Ecc.quiet = D.endWork q i stOk 0 (tensorBytes (woFmtB f.wo) (woOpd f.wo 16 4)) := by
      have hnmu : (s.dev.startWork q i).nmuBad f.part = false := hbad
      unfold doCopyConvert
      rw [htake]
      simp only [hfa, if_false, hnmu, Bool.false_eq_true, hx]
    have hflight : ∀ q' i', D.flight q' i' = ((s.dev.startWork q i).ledger f.part q i _).flight q' i' := flight_same (ho .que (by simp))
    have honly := (((devOnly_startWork s.dev q i).mono (cs := [.que, .mem, .mld, .evc, .mgmt, .out]) (by simp)).trans
      (((devOnly_ledger _ _ _ _ _).mono (by simp)).trans (ho.mono (by simp)))).trans
      ((devOnly_endWork D q i stOk 0 (tensorBytes (woFmtB f.wo) (woOpd f.wo 16 4))).mono (by simp))
    refine runs_unitWorkN rfl (decide_eq_true hq) hold hdo honly (by simp) (by simp) ?_
    have hmem : ∀ e, (Dev.report e (D.endWork q i stOk 0 (tensorBytes (woFmtB f.wo) (woOpd f.wo 16 4)))).mem.bytes = D.mem.bytes :=
      fun e => by rw [report_mem]; rfl
    refine ⟨?_, fun adr hout => ?_, ?_, ?_, fun q' i' hne => ?_⟩
    · rw [hmem, hb]; rfl
    · rw [hmem, hb, memPuts_get _ _ _ _ hout]; rfl
    · rw [report_part]; exact hsat
    · simp only [report_flight, flight_end, hflight, flight_ledger, flight_startWork, hf, and_self, if_true, Option.map_some, hst,
        Option.isSome_none, Bool.false_eq_true, if_false]
      rfl
    · simp only [report_flight, flight_end, hflight, flight_ledger, flight_startWork, if_neg hne]
  · intro s q i src dst n fa fb f ls lc ld hq hold
    dsimp only
    intro hf hst hok hn hs hc hd
    obtain ⟨D, hx, hb, ho, hsat⟩ := xcode_admitted (q := q) (i := i) hs hc hd
    have hdo : doXcode s.dev q i src dst n fa fb Ecc.quiet = D := by
      unfold doXcode
      rw [hf]
      simp only [hok, hn, hst, beq_self_eq_true, Option.isNone_none, Bool.and_self, if_true, hx]
    refine runs_unitWork rfl (decide_eq_true hq) hold hdo (((devOnly_ledger _ _ _ _ _).mono (by simp)).trans (ho.mono (by simp)))
      ⟨hb, fun adr hout => by rw [hb, memPuts_get _ _ _ _ hout], hsat, fun q' i' hne => ?_⟩
    rw [flight_same (ho .que (by simp)), flight_ledger, if_neg hne]
  · intro s q i f sc lx ls ld hq hold
    dsimp only
    intro htake hsc hbad hidx hrows
    obtain ⟨hf, -, -, hst⟩ := take_some htake
    generalize hw : (if bit (woFlags f.wo) 5 = true then 8 else 4) = w at hidx hrows ⊢
    have hwpos : 0 < w := by rw [← hw]; split <;> decide
    generalize hrow : (woFmtA f.wo + 256 * woFmtB f.wo) * 16 = row at hrows ⊢
    generalize hlist : (chunksOf w (woOpd f.wo 18 2) (memGets s.dev.mem.bytes lx)).map ofLe = l at hrows ⊢
    have hlen : 0 + l.length = woOpd f.wo 18 2 := by
      rw [← hlist, List.length_map, chunksOf_length hwpos (hidx.length _), Nat.zero_add]
    obtain ⟨D, hg, hb, ho⟩ := growList_admitted f.part (woOpd f.wo 0 6 % 2 ^ 44) row (woOpd f.wo 12 6 % 2 ^ 44) sc ls ld l 0
      (s.dev.startWork q i) hrows
    have hdo : s.dev.gather q i sc Ecc.quiet = D.endWork q i stOk 0 (woOpd f.wo 18 2 * row) := by
      have hnmu : (s.dev.startWork q i).nmuBad f.part = false := hbad
      have hread := vaRead_quiet (d := s.dev.startWork q i) 4 hidx
      unfold Dev.gather
      rw [htake]
      simp only [hsc, bne_self_eq_false, Bool.false_eq_true, if_false, hnmu, hw, hrow, hread]
      rw [show memGets (s.dev.startWork q i).mem.bytes lx = memGets s.dev.mem.bytes lx from rfl, hlist, hg, hlen]
      rfl
    have hends := ended_endWork hf hst (ho .que (by simp)) stOk 0 (woOpd f.wo 18 2 * row)
    have honly : DevOnly [.que, .mem, .mld, .evc, .mgmt, .out] s.dev (D.endWork q i stOk 0 (woOpd f.wo 18 2 * row)) :=
      (((devOnly_startWork _ _ _).mono (by simp)).trans (ho.mono (by simp))).trans ((devOnly_endWork _ _ _ _ _ _).mono (by simp))
    have hmem : (D.endWork q i stOk 0 (woOpd f.wo 18 2 * row)).mem.bytes =
        memMoves s.dev.mem.bytes ls ld (l.zipIdx.map (fun x => if sc then (x.2, x.1) else x)) := hb
    have hpost : ∀ e, Dev.report s.dev (D.endWork q i stOk 0 (woOpd f.wo 18 2 * row)) = e →
        e.mem.bytes = memMoves s.dev.mem.bytes ls ld (l.zipIdx.map (fun x => if sc then (x.2, x.1) else x)) ∧
        (∀ adr, (∀ x ∈ l.zipIdx, Outside (ld (if sc then x.1 else x.2)) adr) → tget 0 e.mem.bytes adr = tget 0 s.dev.mem.bytes adr) ∧
        Ended q i f 0 0 (woOpd f.wo 18 2 * row) s.dev e := by
      rintro e rfl
      rw [report_mem, hmem]
      refine ⟨rfl, fun adr hout => memMoves_outside _ _ _ _ _ (fun x hx => ?_), ended_report hends⟩
      obtain ⟨y, hy, rfl⟩ := List.mem_map.mp hx
      have := hout y hy
      cases sc <;> exact this
    cases sc
    · exact runs_unitWorkN rfl (decide_eq_true hq) hold hdo honly (by simp) (by simp) (hpost _ rfl)
    · exact runs_unitWorkN rfl (decide_eq_true hq) hold hdo honly (by simp) (by simp) (hpost _ rfl)
  · intro s p table ix row dst sc ls ld hp hold hs hd
    obtain ⟨hr, D, hw, hb, ho, -⟩ := move_admitted 4 4 hs hd
    have hdo : doGrow s.dev p table ix row dst sc Ecc.quiet = D := by
      unfold doGrow Dev.grow
      dsimp only
      rw [hd.1]
      simp only [hr, hw]
    exact runs_unitWork rfl (decide_eq_true hp) hold hdo (ho.mono (by simp)) ⟨hb, fun adr hout => by rw [hb, memPuts_get _ _ _ _ hout]⟩
  · intro s p r va n l hp hr hold hl
    have hdo : doDigest s.dev p r va n Ecc.quiet = s.dev.upRegion p r (fun _ =>
        { digest := rangeDigest (memGets s.dev.mem.bytes l), addr := va, length := n, valid := true, stale := false, busy := false }) := by
      unfold doDigest Dev.digestInto
      simp only [vaRead_quiet 4 hl]
    refine runs_unitWork rfl (decide_eq_true ⟨hp, hr⟩) hold hdo (devOnly_upMld _ _) ⟨?_, fun j hj => ?_, fun j hj => ?_⟩
    · rw [Dev.upRegion, part_upPart, if_pos rfl, tget_up, if_pos rfl]
    · rw [Dev.upRegion, part_upPart, if_pos rfl, tget_up, if_neg hj]
    · rw [Dev.upRegion, part_upPart, if_neg hj]

end

section
/-! PROOFS. What the parts of a collective change: streams, ranges and packets that leave the device; the plan's collective; a collective
that waits (R246–R270, R374–R379). -/

namespace Sys2Proof.Machine

/-! ### Packets that this device sends -/

/-- At most the blocks listed change, and of the routers' block only the packets that wait to enter it. -/
def Feeds (bs : List Block) (d e : Dev) : Prop := DevOnly bs d e ∧ ∃ l, e.rte = { d.rte with heldInj := l }

theorem Feeds.refl (bs : List Block) (d : Dev) : Feeds bs d d := ⟨DevOnly.refl _ _, d.rte.heldInj, rfl⟩

theorem Feeds.trans {bs : List Block} {d e f : Dev} (h : Feeds bs d e) (g : Feeds bs e f) : Feeds bs d f := by
  obtain ⟨ho, l, hl⟩ := h
  obtain ⟨go, m, hm⟩ := g
  exact ⟨ho.trans go, m, by rw [hm, hl]⟩

theorem Feeds.mono {bs cs : List Block} {d e : Dev} (h : Feeds bs d e) (sub : ∀ b ∈ bs, b ∈ cs) : Feeds cs d e := ⟨h.1.mono sub, h.2⟩

theorem DevOnly.feeds {bs : List Block} {d e : Dev} (h : DevOnly bs d e) (hr : Block.rte ∉ bs) : Feeds bs d e :=
  ⟨h, d.rte.heldInj, h .rte hr⟩

theorem feeds_each {α : Type} {bs : List Block} (l : List α) (f : Dev → α → Dev) (hf : ∀ d a, Feeds bs d (f d a)) (d : Dev) :
    Feeds bs d (d.each l f) := by
  unfold Dev.each
  induction l generalizing d with
  | nil => exact Feeds.refl _ _
  | cons a l ih => exact (hf d a).trans (ih (f d a))

theorem feeds_inject (d : Dev) (p : Packet) : Feeds [.rte, .out] d (d.inject p) :=
  ⟨((devOnly_upRte _ _).mono (by simp)).trans ((devOnly_emit _ _).mono (by simp)), _, rfl⟩

theorem feeds_sendTwin (d : Dev) (p sub : Nat) (bs : Bytes) : Feeds [.rte, .out] d (d.sendTwin p sub bs) := feeds_inject _ _

theorem devOnly_upPart (d : Dev) (p : Nat) (f : Part → Part) : DevOnly [.mld] d (d.upPart p f) := devOnly_upMld _ _

/-- R364: a fence. -/
theorem feeds_fence (d : Dev) (p c x q : Nat) : Feeds [.mld, .evc, .rte, .out] d (d.fence p c x q) := by
  unfold Dev.fence
  dsimp only
  split
  · have hpart := (devOnly_upPart d p (fun x' => { x' with
      state := 3, fencedAt := d.now, rcCell := x, rcQueue := q, unpour := c == 6,
      rcStep := if c = 6 then x'.rcStep else 2, rcCause := if c = 6 then x'.rcCause else c,
      rcCount := if c = 6 then x'.rcCount else satAdd 16 x'.rcCount 1 })).feeds (by simp)
    have hraise := fun e : Dev => (devOnly_raise e (0xD080 + p) (causeInfo c (if x != 0xFFFFFFFF then x else q))).feeds (by simp)
    split
    · exact ((hpart.mono (by simp)).trans ((hraise _).mono (by simp))).trans ((feeds_sendTwin _ _ _ _).mono (by simp))
    · exact (hpart.mono (by simp)).trans ((hraise _).mono (by simp))
  · exact Feeds.refl _ _

/-! ### Streams and their ranges (R375–R379) -/

theorem devOnly_upStream (d : Dev) (p n : Nat) (f : Stream → Stream) : DevOnly [.twin] d (d.upStream p n f) := devOnly_upTwin _ _

theorem devOnly_reheld (d : Dev) (p : Nat) : DevOnly [.mld] d (d.reheld p) := devOnly_upPart _ _ _

theorem feeds_diverge (d : Dev) (r : Range) : Feeds [.mld, .evc, .rte, .out] d (d.diverge r) := by
  unfold Dev.diverge
  exact ((feeds_sendTwin _ _ _ _).mono (by simp)).trans (feeds_each _ _ (fun e p =>
    (((feeds_fence _ _ _ _ _).mono (by simp)).trans (((devOnly_upPart _ _ _).feeds (by simp)).mono (by simp))).trans
      (((devOnly_raise _ _ _).feeds (by simp)).mono (by simp))) _)

theorem feeds_compareRange (d : Dev) (a b : Range) : Feeds [.twin, .mld, .evc, .rte, .out] d (d.compareRange a b) := by
  unfold Dev.compareRange
  dsimp only
  have hkeep : ∀ e : Dev, DevOnly [.twin, .mld] d ((((d.upTwin (fun t =>
      { t with own := t.own.filter (· != a), theirs := t.theirs.filter (· != b) })).upPart a.part
        (fun x => { x with twRanges := (x.twRanges + 1) % 2 ^ 16 })).reheld a.part)) := fun e =>
    (((devOnly_upTwin _ _).mono (by simp)).trans ((devOnly_upPart _ _ _).mono (by simp))).trans ((devOnly_reheld _ _).mono (by simp))
  split
  · exact ((hkeep d).feeds (by simp)).mono (by simp)
  · exact (((hkeep d).feeds (by simp)).mono (by simp)).trans ((feeds_diverge _ _).mono (by simp))

theorem feeds_closeRange (d : Dev) (p n : Nat) (st : Option Nat) : Feeds [.twin, .mld, .evc, .rte, .out] d (d.closeRange p n st) := by
  unfold Dev.closeRange
  dsimp only
  split
  · exact Feeds.refl _ _
  · split
    · refine Feeds.trans ?_ (feeds_compareRange _ _ _)
      exact ((((devOnly_upStream _ _ _ _).feeds (by simp)).mono (by simp)).trans (((devOnly_upTwin _ _).feeds (by simp)).mono (by simp))).trans
        (((feeds_sendTwin _ _ _ _).mono (by simp)).trans (((devOnly_reheld _ _).feeds (by simp)).mono (by simp)))
    · exact ((((devOnly_upStream _ _ _ _).feeds (by simp)).mono (by simp)).trans (((devOnly_upTwin _ _).feeds (by simp)).mono (by simp))).trans
        (((feeds_sendTwin _ _ _ _).mono (by simp)).trans (((devOnly_reheld _ _).feeds (by simp)).mono (by simp)))

theorem feeds_noteTwin (d : Dev) (n t : Nat) (k : Packet) : Feeds [.twin, .mld, .evc, .rte, .out] d (d.noteTwin n t k) := by
  unfold Dev.noteTwin
  dsimp only
  have hstream := fun f => ((devOnly_upStream d k.srcPart n f).feeds (by simp)).mono (cs := [.twin, .mld, .evc, .rte, .out]) (by simp)
  split
  · split
    · exact (hstream _).trans (feeds_closeRange _ _ _ _)
    · exact hstream _
  · exact Feeds.refl _ _

/-- R374: a packet that twin operation does not touch. -/
theorem copies_single {d : Dev} {k : Packet} (ht : d.twinned k.srcPart = false) (hp : d.twinPeer k.dst k.dstPart = false) (n t : Nat) :
    d.copies n t k = [k] := by
  simp only [Dev.copies, ht, hp, Bool.or_self, Bool.false_eq_true, if_false]

theorem copies_ne_nil (d : Dev) (n t : Nat) (k : Packet) : d.copies n t k ≠ [] := by
  unfold Dev.copies
  dsimp only
  split
  · split <;> exact List.cons_ne_nil _ _
  · exact List.cons_ne_nil _ _

theorem noteTwin_single {d : Dev} {k : Packet} (ht : d.twinned k.srcPart = false) (n t : Nat) : d.noteTwin n t k = d := by
  have : (d.part k.srcPart).twin ≠ 1 := by
    intro h
    simp [Dev.twinned, h] at ht
  exact if_neg this

/-! ### The plan's collective -/

theorem plan_same {d e : Dev} (h : Block.same .ldl d e) (n : Nat) : e.plan n = d.plan n := by simp only [Dev.plan, show e.ldl = d.ldl from h]

theorem instOf_same {d e : Dev} (h : Block.same .ldl d e) (n : Nat) : e.instOf n = d.instOf n := by simp only [Dev.instOf, plan_same h]

theorem instOf_eq {d : Dev} {n : Nat} {pl : Plan} {x : Inst} (h : d.plan n = some pl) (hi : pl.inst = some x) : d.instOf n = some (pl, x) := by
  simp only [Dev.instOf, h, hi, Option.map_some]

theorem instOf_some {d : Dev} {n : Nat} {pl : Plan} {x : Inst} (h : d.instOf n = some (pl, x)) : d.plan n = some pl ∧ pl.inst = some x := by
  unfold Dev.instOf at h
  cases hp : d.plan n with
  | none => rw [hp] at h; cases h
  | some pl' =>
    rw [hp] at h
    obtain ⟨y, hy, he⟩ := Option.map_eq_some_iff.mp h
    cases he
    exact ⟨rfl, hy⟩

@[simp] theorem report_instOf (old d : Dev) (n : Nat) : (Dev.report old d).instOf n = d.instOf n := by simp only [Dev.instOf, report_plan]

theorem devOnly_upInst (d : Dev) (n : Nat) (f : Inst → Inst) : DevOnly [.ldl] d (d.upInst n f) := devOnly_upPlan _ _ _

theorem plan_upInst_ne (d : Dev) {n m : Nat} (f : Inst → Inst) (h : m ≠ n) : (d.upInst n f).plan m = d.plan m := by
  rw [Dev.upInst, plan_upPlan, if_neg h]

theorem but_upInst (d : Dev) (n : Nat) (f : Inst → Inst) : But n d.plan (d.upInst n f).plan := fun _ h => plan_upInst_ne d f h

theorem instOf_upInst {d : Dev} {n : Nat} {pl : Plan} {x : Inst} (f : Inst → Inst) (h : d.instOf n = some (pl, x)) :
    (d.upInst n f).instOf n = some ({ pl with inst := some (f x) }, f x) := by
  obtain ⟨hp, hi⟩ := instOf_some h
  refine instOf_eq ?_ rfl
  rw [Dev.upInst, plan_upPlan, if_pos rfl, hp, Option.map_some, hi, Option.map_some]

/-- R247: a collective that its Ladle may take. -/
theorem takeCol_some {d : Dev} {q i op : Nat} {sprue : Bool} {f : Flight} {n : Nat} {pl : Plan} {x : Inst}
    (h : d.takeCol q i op sprue = some (f, n, pl, x)) : d.flight q i = some f ∧ d.instOf n = some (pl, x) ∧ x.sprue = sprue := by
  unfold Dev.takeCol at h
  cases ht : d.take q i (0x10 + op) with
  | none => rw [ht] at h; cases h
  | some g =>
    rw [ht] at h
    dsimp only at h
    split at h
    · rename_i pl' x' hi
      split at h
      · rename_i hc
        cases h
        simp only [Bool.and_eq_true, beq_iff_eq] at hc
        exact ⟨(take_some ht).1, hi, hc.2⟩
      · cases h
    · cases h

/-! ### A collective that waits (R247, R264) -/

/-- A collective whose Ladle has not taken it, or whose current step has chunks to start, and for which no early chunk is held. -/
def Inst.waits (pl : Plan) (x : Inst) : Prop :=
  x.hold = [] ∧ (x.started = true → x.pos ≠ pl.steps x.op ∧ x.out ≠ pl.startsIn x.op x.bytes (pl.stepAt x.op x.pos))

theorem colAdvance_waits {d : Dev} {n : Nat} {pl : Plan} {x : Inst} (h : d.instOf n = some (pl, x)) (hw : x.waits pl) (fuel : Nat) :
    Dev.colAdvance n fuel d = d := by
  cases fuel with
  | zero => rfl
  | succ fuel =>
    rw [Dev.colAdvance, h]
    dsimp only
    split
    · rfl
    · rename_i hc
      simp only [Bool.or_eq_true, Bool.not_eq_true', decide_eq_true_eq, not_or] at hc
      obtain ⟨⟨hs, -⟩, -⟩ := hc
      obtain ⟨-, hout⟩ := hw.2 (by simpa using hs)
      rw [hw.1, List.filter_nil, Dev.colTakeUp]
      simp only [h, hout, decide_false, Bool.false_and, Bool.false_eq_true, if_false]

/-- R264: a collective that is not over on the chunk path does not complete. -/
theorem colFinish_waits {d : Dev} {n : Nat} {pl : Plan} {x : Inst} (h : d.instOf n = some (pl, x))
    (hw : x.started = true → x.sprue = false ∧ x.pos ≠ pl.steps x.op) : d.colFinish n = d := by
  unfold Dev.colFinish
  rw [h]
  dsimp only
  split
  · rfl
  · rename_i hc
    simp only [Bool.or_eq_true, Bool.not_eq_true', not_or, Bool.and_eq_true, bne_iff_ne, not_and] at hc
    obtain ⟨⟨⟨hs, -⟩, -⟩, hpos⟩ := hc
    obtain ⟨h1, h2⟩ := hw (by simpa using hs)
    exact absurd h2 (hpos h1)

/-- R260, R264: a collective whose result is awaited does not complete. -/
theorem colFinish_awaits {d : Dev} {n : Nat} {pl : Plan} {x : Inst} (h : d.instOf n = some (pl, x)) (hf : x.final = none)
    (hw : x.sprue = true ∨ pl.wantsVerdict x = true) : d.colFinish n = d := by
  unfold Dev.colFinish
  rw [h]
  dsimp only
  split
  · rfl
  · split
    · rw [hf]; rfl
    · rename_i hs
      rw [if_pos (hw.resolve_left hs), hf]

/-- What follows progress of a collective that waits: it is no longer stalled. -/
theorem colNext_waits {d : Dev} {n : Nat} {pl : Plan} {x : Inst} (h : d.instOf n = some (pl, x)) (hw : x.waits pl) (hs : x.sprue = false) :
    d.colNext n = d.upInst n (fun x => { x with stalled := false }) := by
  rw [Dev.colNext, colAdvance_waits h hw]
  exact colFinish_waits (instOf_upInst _ h) (fun hst => ⟨hs, (hw.2 hst).1⟩)

/-! ### Packets of the collective -/

/-- The device has sent packets of plan `n`'s collective. -/
def SendsMore (n : Nat) (d e : Dev) : Prop :=
  Feeds [.ldl, .twin, .mld, .evc, .rte, .out] d e ∧ But n d.plan e.plan ∧
  ∀ pl x, d.instOf n = some (pl, x) → ∃ l, e.instOf n = some ({ pl with inst := some { x with sent := l } }, { x with sent := l })

theorem SendsMore.trans {n : Nat} {d e f : Dev} (h : SendsMore n d e) (g : SendsMore n e f) : SendsMore n d f := by
  obtain ⟨h1, h2, h3⟩ := h
  obtain ⟨g1, g2, g3⟩ := g
  refine ⟨h1.trans g1, g2.trans_of h2, fun pl x hi => ?_⟩
  obtain ⟨l, hl⟩ := h3 pl x hi
  obtain ⟨m, hm⟩ := g3 _ _ hl
  exact ⟨m, hm⟩

theorem sendsMore_of {n : Nat} {d e : Dev} (h : Feeds [.twin, .mld, .evc, .rte, .out] d e) : SendsMore n d e := by
  have hl : Block.same .ldl d e := h.1 .ldl (by simp)
  refine ⟨h.mono (by simp), fun m _ => plan_same hl m, fun pl x hi => ⟨x.sent, ?_⟩⟩
  rw [instOf_same hl, hi]
  obtain ⟨-, hx⟩ := instOf_some hi
  cases pl
  cases hx
  rfl

theorem sendsMore_each {α : Type} {n : Nat} (l : List α) (f : Dev → α → Dev) (hf : ∀ d a, SendsMore n d (f d a)) (d : Dev) :
    SendsMore n d (d.each l f) := by
  unfold Dev.each
  induction l generalizing d with
  | nil => exact sendsMore_of (Feeds.refl _ _)
  | cons a l ih => exact (hf d a).trans (ih (f d a))

theorem feeds_injectCol (d : Dev) (k : Packet) : Feeds [.rte, .out] d (d.injectCol k) := by
  unfold Dev.injectCol
  split
  · exact Feeds.refl _ _
  · exact feeds_inject _ _

theorem sendsMore_upSent (d : Dev) (n : Nat) (f : Inst → List ColSent) : SendsMore n d (d.upInst n (fun x => { x with sent := f x })) :=
  ⟨((devOnly_upInst _ _ _).feeds (by simp)).mono (by simp), but_upInst _ _ _, fun _ x hi => ⟨f x, instOf_upInst _ hi⟩⟩

theorem sendsMore_sendCol (d : Dev) (n : Nat) (pl : Plan) (x : Inst) (r kind low addr t : Nat) (src : Option Nat) (bs : Bytes) :
    SendsMore n d (d.sendCol n pl x r kind low addr t src bs) := by
  unfold Dev.sendCol
  dsimp only
  refine (sendsMore_of (feeds_noteTwin _ _ _ _)).trans (sendsMore_each _ _ (fun e a => ?_) _)
  exact (sendsMore_upSent _ _ _).trans (sendsMore_of ((feeds_injectCol _ _).mono (by simp)))

theorem devOnly_nextCol (d : Dev) (pl : Plan) (n : Nat) : DevOnly [.twin] d (d.nextCol pl n).2 := devOnly_upStream _ _ _ _

theorem sendsMore_sendSprue (d : Dev) (n : Nat) (pl : Plan) (x : Inst) (r j : Nat) (down : Bool) (o : Nat) (v : Bytes) :
    SendsMore n d (d.sendSprue n pl x r j down o v) :=
  sendsMore_each _ _ (fun e a => (sendsMore_of (((devOnly_nextCol e pl n).feeds (by simp)).mono (by simp))).trans
    (sendsMore_sendCol _ _ _ _ _ _ _ _ _ _ _)) _

/-- R256: a packet between untwinned partitions, to a member that is not lost. -/
theorem sendCol_single {d : Dev} {n : Nat} {pl : Plan} {x : Inst} {r : Nat} (ht : d.twinned pl.part = false)
    (hp : d.twinPeer (memberDev pl r) (memberPart pl r) = false) (hl : d.isLost (memberDev pl r) = false) (kind low addr t : Nat)
    (src : Option Nat) (bs : Bytes) : ∃ E k, d.sendCol n pl x r kind low addr t src bs = E.inject k ∧
      k = d.packet kind (memberDev pl r) (memberPart pl r) pl.part x.inst addr (low + pl.sig % 2 ^ 16 * 2 ^ 16) (crc32c bs) bs ∧
      DevOnly [.ldl] d E ∧ But n d.plan E.plan ∧
      ∀ pl' x', d.instOf n = some (pl', x') → ∃ c, E.instOf n =
        some ({ pl' with inst := some { x' with sent := x'.sent ++ [c] } }, { x' with sent := x'.sent ++ [c] }) := by
  refine ⟨_, _, ?_, rfl, devOnly_upInst _ n _, but_upInst _ _ _, fun pl' x' h => ⟨⟨d.packet kind (memberDev pl r)
    (memberPart pl r) pl.part x.inst addr (low + pl.sig % 2 ^ 16 * 2 ^ 16) (crc32c bs) bs, r, src, false, 0, 0⟩, instOf_upInst _ h⟩⟩
  unfold Dev.sendCol
  dsimp only
  rw [copies_single ht hp, noteTwin_single ht]
  simp only [List.zipIdx_cons, List.zipIdx_nil, Dev.each, List.foldl_cons, List.foldl_nil, Dev.injectCol, Nat.lt_irrefl, decide_false]
  exact if_neg (fun h => Bool.false_ne_true (hl.symm.trans h))

/-! ### The sprue path of a member that is not the root (R262) -/

theorem sprueGo_awaits {d : Dev} {n : Nat} {pl : Plan} {x : Inst} (h : d.instOf n = some (pl, x))
    (hw : x.mine = none ∨ x.spPos ≠ pl.dims ∧ pl.ring x.spPos = false ∧ d.sprueRoot pl x.spPos ≠ pl.self) (fuel : Nat) :
    Dev.sprueGo n fuel d = d := by
  cases fuel with
  | zero => rfl
  | succ fuel =>
    rw [Dev.sprueGo, h]
    dsimp only
    split
    · rfl
    · rename_i hc
      rcases hw with hm | ⟨h1, h2, h3⟩
      · simp [hm] at hc
      · rw [if_neg h1, if_pos (by simp [h2, h3])]

/-- R262: the value of a member whose group's root is another is sent to it, and kept. -/
theorem sprueStart_leaf {d : Dev} {n : Nat} {pl : Plan} {x : Inst} (v : Bytes) (h : d.instOf n = some (pl, x)) (hd : pl.dims ≠ 0)
    (hp : x.spPos = 0) (hr : pl.ring 0 = false) (hroot : d.sprueRoot pl 0 ≠ pl.self) (hf : x.final = none)
    (hw : x.sprue = true ∨ pl.wantsVerdict x = true) :
    ∃ E l, d.sprueStart n v = E ∧ DevOnly [.ldl, .twin, .mld, .evc, .rte, .out] d E ∧ But n d.plan E.plan ∧
      (E.instOf n).map (·.2) = some { x with mine := some v, sent := l } := by
  have hmine := instOf_upInst (fun x => { x with mine := some v }) h
  obtain ⟨⟨ho, l', hl'⟩, hb, hi⟩ := sendsMore_sendSprue (d.upInst n (fun x => { x with mine := some v })) n pl x (d.sprueRoot pl 0) 0 false
    pl.self v
  obtain ⟨l, hl⟩ := hi _ _ hmine
  generalize hE : (d.upInst n (fun x => { x with mine := some v })).sendSprue n pl x (d.sprueRoot pl 0) 0 false pl.self v = E at *
  have hent : (d.upInst n (fun x => { x with mine := some v })).sprueEnter n pl x 0 v = E := by
    unfold Dev.sprueEnter
    dsimp only
    rw [if_neg (by rw [hr]; exact Bool.false_ne_true),
      if_neg (show (d.upInst n (fun x => { x with mine := some v })).sprueRoot pl 0 ≠ pl.self from hroot)]
    exact hE
  have hrootE : ∀ y, E.sprueRoot { pl with inst := y } 0 = d.sprueRoot pl 0 := fun y => by
    unfold Dev.sprueRoot
    rw [hl']
    rfl
  have hgo : Dev.sprueGo n 6 E = E := sprueGo_awaits hl (Or.inr (by
    rw [show ({ x with mine := some v, sent := l } : Inst).spPos = 0 from hp]
    exact ⟨fun h0 => hd h0.symm, hr, by rw [hrootE]; exact hroot⟩)) 6
  have hfin : E.colFinish n = E := colFinish_awaits hl hf hw
  refine ⟨E, l, ?_, (((devOnly_upInst _ _ _).mono (by simp)).trans ho), hb.trans_of (but_upInst _ _ _), by rw [hl]; rfl⟩
  unfold Dev.sprueStart
  rw [h]
  dsimp only
  rw [hent, hgo, hfin]

end Sys2Proof.Machine
end

section
/-! PROOFS. Ladles that take collectives and send chunks (R246–R256, R261). -/

namespace Sys2Proof.Machine

/-- R249–R254: a Ladle whose local copy is done starts a collective that then waits. -/
theorem ladle_starts {d D : Dev} {q i op n : Nat} {e : Ecc} {f : Flight} {pl : Plan} {x : Inst} {own : Bytes}
    (ht : d.takeCol q i op false = some (f, n, pl, x)) (hs : d.ladleShort pl op = false)
    (hl : (if op = 0 then (d.startWork q i, none, []) else (d.startWork q i).colLocal pl x e) = (D, none, own))
    (hldl : D.ldl = d.ldl) (hw : x.hold = [] ∧ x.pos ≠ pl.steps x.op ∧ x.out ≠ pl.startsIn x.op x.bytes (pl.stepAt x.op x.pos)) :
    ∃ E, d.ladle q i op e = E ∧ DevOnly [.ldl, .twin] D E ∧
      (E.instOf n).map (fun y => (y.2.started, y.2.pos, y.2.out)) = some (true, x.pos, x.out) ∧ But n d.plan E.plan := by
  obtain ⟨-, hi, hsp⟩ := takeCol_some ht
  have hshort : (d.startWork q i).ladleShort pl op = false := hs
  unfold Dev.ladle
  rw [ht]
  simp only [hshort, Bool.false_eq_true, if_false, hl]
  generalize hF : D.upStream pl.part (0x8000 + n) _ = F
  generalize (Dev.stream D pl.part (0x8000 + n)).next = base
  generalize hdig : (if op = 1 then _ else 0) = dig
  have hFo : DevOnly [.twin] D F := by rw [← hF]; exact devOnly_upStream _ _ _ _
  have hFl : F.ldl = d.ldl := (hFo .ldl (by simp)).trans hldl
  have hFi : F.instOf n = some (pl, x) := by rw [instOf_same (d := d) hFl, hi]
  have hstart := instOf_upInst (fun x => { x with started := true, twBase := base, resDig := Nat.xor x.resDig dig }) hFi
  refine ⟨_, rfl, ?_, ?_, ?_⟩
  · rw [colNext_waits hstart ⟨hw.1, fun _ => hw.2⟩ hsp]
    exact (hFo.mono (by simp)).trans (((devOnly_upInst _ _ _).mono (by simp)).trans ((devOnly_upInst _ _ _).mono (by simp)))
  · rw [colNext_waits hstart ⟨hw.1, fun _ => hw.2⟩ hsp, instOf_upInst _ hstart]
    rfl
  · rw [colNext_waits hstart ⟨hw.1, fun _ => hw.2⟩ hsp]
    exact (but_upInst _ _ _).trans_of ((but_upInst _ _ _).trans_of (fun m _ => plan_same (d := d) hFl m))

/-- R253, R254: this member's own block goes to its place in the destination. -/
theorem colLocal_admitted {d : Dev} {pl : Plan} {x : Inst} {ls ld : List (Nat × Nat)}
    (hs : Admits d pl.part (if x.op = 1 then x.src else x.src + pl.self * x.bytes) x.bytes 1 true ls)
    (hd : Admits d pl.part (x.dst + pl.self * x.bytes) x.bytes 2 true ld) :
    ∃ D own, d.colLocal pl x Ecc.quiet = (D, none, own) ∧ D.mem.bytes = memPuts d.mem.bytes ld (memGets d.mem.bytes ls) ∧
      DevOnly [.mld, .evc, .mem] d D := by
  obtain ⟨hr, D, hw, hb, ho, -⟩ := move_admitted 3 3 hs hd
  refine ⟨D, memGets d.mem.bytes ls, ?_, hb, ho⟩
  unfold Dev.colLocal
  simp only [hr, hw]

/-- R256: arg0 bits 31:16 of a chunk carry the plan's signature. -/
theorem colArg_lt (n j op : Nat) (dst chain : Bool) : colArg n j op dst chain < 2 ^ 16 := by
  have hb : ∀ b : Bool, b2n b ≤ 1 := fun b => by cases b <;> decide
  have h1 := hb dst
  have h2 := hb chain
  unfold colArg
  omega

/-- What a started collective on the chunk path sends next: a chunk that its step starts. -/
theorem doChunkSend_starts {d : Dev} {n : Nat} {pl : Plan} {x : Inst} {b k r : Nat} {l : List (Nat × Nat)}
    (hi : d.instOf n = some (pl, x)) (hst : x.started = true) (hsp : x.sprue = false) (ht : d.twinned pl.part = false)
    (hp : d.twinPeer (memberDev pl r) (memberPart pl r) = false) (hl : d.isLost (memberDev pl r) = false)
    (hfwd : x.fwd = []) (hhold : x.hold = []) (hpos : x.pos ≠ pl.steps x.op)
    (hnth : nthStart (pl.starts x.op (pl.stepAt x.op x.pos)) (chunksIn x.bytes) pl.blocks x.out = some (b, k, r))
    (hout : x.out + 1 ≠ pl.startsIn x.op x.bytes (pl.stepAt x.op x.pos))
    (hv : Reaches d pl.part ((if x.op = 1 then x.dst else x.src) + b * x.bytes + 4096 * k) (chunkLen x.bytes k) 1 l) :
    ∃ E p, doChunkSend d n Ecc.quiet = E.inject p ∧ DevOnly [.ldl] d E ∧ But n d.plan E.plan ∧
      (E.instOf n).map (fun y => (y.2.out, y.2.sent.length)) = some (x.out + 1, x.sent.length + 1) ∧
      p = d.packet 0x10 (memberDev pl r) (memberPart pl r) pl.part x.inst
        (pl.targetOff x.op (pl.stepAt x.op x.pos) b k x.bytes (pl.chains x.op (pl.stepAt x.op x.pos) r))
        (colArg n (pl.stepAt x.op x.pos) x.op (pl.targetDst x.op (pl.stepAt x.op x.pos) (pl.chains x.op (pl.stepAt x.op x.pos) r))
          (pl.chains x.op (pl.stepAt x.op x.pos) r) + pl.sig % 2 ^ 16 * 2 ^ 16)
        (crc32c (memGets d.mem.bytes l)) (memGets d.mem.bytes l) := by
  unfold doChunkSend
  rw [hi]
  simp only [hst, hsp, ht, Bool.not_true, Bool.or_self, Bool.false_and, Bool.false_eq_true, if_false, hfwd, hpos, hnth, Option.map_some]
  generalize hF : d.upLdl _ = F
  have hFo : DevOnly [.ldl] d F := by rw [← hF]; exact devOnly_upLdl _ _
  have hFi : F.instOf n = some (pl, x) := by rw [← hF]; exact hi
  have hFp : F.plan = d.plan := by rw [← hF]; rfl
  have hread : F.vaRead pl.part ((if x.op = 1 then x.dst else x.src) + b * x.bytes + 4096 * k) (chunkLen x.bytes k) 1 3 true Ecc.quiet =
      (F, .ok (memGets d.mem.bytes l)) := by
    rw [← hF]; exact vaRead_quiet 3 hv
  simp only [hread]
  generalize hG : F.upInst n _ = G
  have hGo : DevOnly [.ldl] d G := by rw [← hG]; exact hFo.trans (devOnly_upInst _ _ _)
  have hGp : But n d.plan G.plan := by rw [← hG, ← hFp]; exact but_upInst _ _ _
  obtain ⟨g, hgG, t, hg⟩ : ∃ g : Inst → Inst, F.upInst n g = G ∧ ∃ t, g x = { x with out := x.out + 1, txDig := t } := ⟨_, hG, _, rfl⟩
  have hGi := instOf_upInst g hFi
  rw [hgG, hg] at hGi
  have htG : G.twinned pl.part = false := by rw [← ht]; simp only [Dev.twinned, part_same (hGo .mld (by simp))]
  have hpG : G.twinPeer (memberDev pl r) (memberPart pl r) = false := by
    rw [← hp]; simp only [Dev.twinPeer, show G.rst = d.rst from hGo .rst (by simp)]
  have hlG : G.isLost (memberDev pl r) = false := by rw [← hl]; simp only [Dev.isLost, show G.rte = d.rte from hGo .rte (by simp)]
  obtain ⟨E, p, hsend, hpk, hEo, hEp, hEi⟩ := sendCol_single (n := n) (x := x) htG hpG hlG 0x10
    (colArg n (pl.stepAt x.op x.pos) x.op (pl.targetDst x.op (pl.stepAt x.op x.pos) (pl.chains x.op (pl.stepAt x.op x.pos) r))
      (pl.chains x.op (pl.stepAt x.op x.pos) r))
    (pl.targetOff x.op (pl.stepAt x.op x.pos) b k x.bytes (pl.chains x.op (pl.stepAt x.op x.pos) r))
    ((x.twBase + pl.chunkNo x.op x.bytes (pl.posOf x.op (pl.stepAt x.op x.pos)) b k r) % 2 ^ 32)
    (some ((if x.op = 1 then x.dst else x.src) + b * x.bytes + 4096 * k)) (memGets d.mem.bytes l)
  obtain ⟨c, hc⟩ := hEi _ _ hGi
  refine ⟨E, p, ?_, hGo.trans hEo, hEp.trans_of hGp, ?_, ?_⟩
  · rw [hsend]
    exact colAdvance_waits (d := E.inject p) hc ⟨hhold, fun _ => ⟨hpos, hout⟩⟩ 6
  · rw [hc]
    simp only [Option.map_some, List.length_append, List.length_singleton]
  · rw [hpk]
    simp only [Dev.packet, show G.rte = d.rte from hGo .rte (by simp)]

end Sys2Proof.Machine
end

section
/-! PROOFS. The obligation about Ladles that take collectives and send chunks. -/

open Sys2Proof Sys2Proof.Machine

/-- Settles O26: the started collective waits for its first step's chunks, so that nothing but its own fields moves on. -/
theorem ladleWorkOrdersAndChunks : Obligations.LadleWorkOrdersAndChunks := by
  refine ⟨?_, ?_, ?_, ?_⟩
  · intro s q i f n pl x hq hold ht hs hop hhold hpos hout
    obtain ⟨hf, -, -⟩ := takeCol_some ht
    obtain ⟨E, hE, ho, hi, hb⟩ := ladle_starts (D := s.dev.startWork q i) (e := Ecc.quiet) ht hs rfl rfl
      ⟨hhold, by rw [hop]; exact hpos, by rw [hop]; exact hout⟩
    refine runs_unitWorkN rfl (decide_eq_true hq) hold (show doLadleRs s.dev q i Ecc.quiet = E from hE)
      (((devOnly_startWork _ _ _).mono (by simp)).trans (ho.mono (by simp))) (by simp) (by simp) ⟨?_, fun q' i' hne => ?_, ?_, fun m hm => ?_⟩
    · rw [report_flight, flight_same (ho .que (by simp)), flight_startWork, if_pos ⟨rfl, rfl⟩, hf, Option.map_some]
    · rw [report_flight, flight_same (ho .que (by simp)), flight_startWork, if_neg hne]
    · rw [report_instOf, hi]
    · rw [report_plan, hb m hm]
  · intro s q i op f n pl x ls ld hq hold hops ht hs hop hsrc hdst hhold hpos hout
    obtain ⟨hf, -, -⟩ := takeCol_some ht
    have hop0 : op ≠ 0 := by omega
    obtain ⟨D, own, hD, hb, hDo⟩ := colLocal_admitted (d := s.dev.startWork q i) (by rw [hop]; exact hsrc) hdst
    obtain ⟨E, hE, ho, hi, hp⟩ := ladle_starts (e := Ecc.quiet) ht hs (by rw [if_neg hop0]; exact hD) (hDo .ldl (by simp))
      ⟨hhold, by rw [hop]; exact hpos, by rw [hop]; exact hout⟩
    have honly : DevOnly [.que, .ldl, .twin, .mem, .mld, .evc, .mgmt, .out] s.dev E :=
      (((devOnly_startWork _ _ _).mono (by simp)).trans (hDo.mono (by simp))).trans (ho.mono (by simp))
    have hque : ∀ q' i', E.flight q' i' = (s.dev.startWork q i).flight q' i' := fun q' i' => by
      rw [flight_same (ho .que (by simp)), flight_same (hDo .que (by simp))]
    have hpost : ∀ e, Dev.report s.dev E = e → e.mem.bytes = memPuts s.dev.mem.bytes ld (memGets s.dev.mem.bytes ls) ∧
        e.flight q i = some { f with started := true } ∧ ButWork q i s.dev e ∧
        (e.instOf n).map (fun y => (y.2.started, y.2.pos, y.2.out)) = some (true, x.pos, x.out) ∧ But n s.dev.plan e.plan := by
      rintro e rfl
      refine ⟨?_, ?_, fun q' i' hne => ?_, ?_, fun m hm => ?_⟩
      · rw [report_mem, show E.mem = D.mem from ho .mem (by simp), hb]; rfl
      · rw [report_flight, hque, flight_startWork, if_pos ⟨rfl, rfl⟩, hf, Option.map_some]
      · rw [report_flight, hque, flight_startWork, if_neg hne]
      · rw [report_instOf, hi]
      · rw [report_plan, hp m hm]
    rcases hops with rfl | rfl
    · exact runs_unitWorkN rfl (decide_eq_true hq) hold (show doLadleAg s.dev q i Ecc.quiet = E from hE) honly (by simp) (by simp) (hpost _ rfl)
    · exact runs_unitWorkN rfl (decide_eq_true hq) hold (show doLadleXchg s.dev q i Ecc.quiet = E from hE) honly (by simp) (by simp) (hpost _ rfl)
  · intro s q i f n pl x l hq hold ht hs hb hl hd hp hr hroot hf
    obtain ⟨hfl, hi, hsp⟩ := takeCol_some ht
    have hstart := instOf_upInst (d := s.dev.startWork q i) (fun x => { x with started := true }) hi
    obtain ⟨E, l', hE, ho, hbut, hEi⟩ := sprueStart_leaf (memGets s.dev.mem.bytes l) hstart hd hp hr hroot hf (Or.inl hsp)
    have hdo : doLadleAllReduce s.dev q i Ecc.quiet = E := by
      have hshort : (s.dev.startWork q i).ladleShort pl 0 = false := hs
      have hread := vaRead_quiet (d := s.dev.startWork q i) 3 hl
      unfold doLadleAllReduce
      rw [ht]
      simp only [hshort, Bool.false_eq_true, if_false, hb, hread]
      exact hE
    have hque : ∀ q' i', E.flight q' i' = (s.dev.startWork q i).flight q' i' := fun q' i' => flight_same (ho .que (by simp)) q' i'
    refine runs_unitWorkN rfl (decide_eq_true hq) hold hdo
      (((devOnly_startWork _ _ _).mono (by simp)).trans (((devOnly_upInst _ _ _).mono (by simp)).trans (ho.mono (by simp)))) (by simp) (by simp)
      ⟨?_, fun q' i' hne => ?_, ?_, fun m hm => ?_⟩
    · rw [report_flight, hque, flight_startWork, if_pos ⟨rfl, rfl⟩, hfl, Option.map_some]
    · rw [report_flight, hque, flight_startWork, if_neg hne]
    · rw [report_instOf]
      have := congrArg (Option.map (fun y : Inst => (y.started, y.mine))) hEi
      rw [Option.map_map, Option.map_some] at this
      exact this
    · rw [report_plan, hbut m hm, plan_upInst_ne _ _ hm]; rfl
  · intro s n pl x b k r l hn hold hi hst hsp ht hp hl hfwd hhold hpos
    dsimp only
    intro hnth hout hv
    obtain ⟨E, p, hE, ho, hb, hEi, hpk⟩ := doChunkSend_starts hi hst hsp ht hp hl hfwd hhold hpos hnth hout hv
    have hrte : E.rte = s.dev.rte := ho .rte (by simp)
    refine runs_unitWorkN rfl (decide_eq_true hn) hold hE ((ho.mono (by simp)).trans ((feeds_inject _ _).1.mono (by simp))) (by simp) (by simp)
      ⟨⟨p, ?_, ?_⟩, ?_, fun m hm => ?_⟩
    · rw [report_rte]
      exact congrArg (fun t : Rte => t.heldInj ++ [p]) hrte
    · subst hpk
      refine ⟨rfl, rfl, rfl, rfl, rfl, rfl, rfl, ?_⟩
      have := colArg_lt n (pl.stepAt x.op x.pos) x.op (pl.targetDst x.op (pl.stepAt x.op x.pos) (pl.chains x.op (pl.stepAt x.op x.pos) r))
        (pl.chains x.op (pl.stepAt x.op x.pos) r)
      simp only [Dev.packet]
      omega
    · rw [report_instOf]; exact hEi
    · rw [report_plan]; exact hb m hm

end

section
/-! PROOFS. Collective packets that a current collective takes up (R255–R265). -/

namespace Sys2Proof.Machine

/-! ### What a collective becomes -/

/-- `e` is `d` but that plan `n`'s collective, of plan `pl`, is `y`. -/
def SetsInst (n : Nat) (pl : Plan) (y : Inst) (d e : Dev) : Prop :=
  DevOnly [.ldl] d e ∧ But n d.plan e.plan ∧ e.instOf n = some ({ pl with inst := some y }, y)

theorem setsInst_upInst {d : Dev} {n : Nat} {pl : Plan} {x : Inst} (f : Inst → Inst) (h : d.instOf n = some (pl, x)) :
    SetsInst n pl (f x) d (d.upInst n f) := ⟨devOnly_upInst _ _ _, but_upInst _ _ _, instOf_upInst f h⟩

theorem SetsInst.upInst {d e : Dev} {n : Nat} {pl : Plan} {x : Inst} (f : Inst → Inst) (h : SetsInst n pl x d e) :
    SetsInst n pl (f x) d (e.upInst n f) := by
  obtain ⟨ho, hb, hi⟩ := h
  obtain ⟨ho', hb', hi'⟩ := setsInst_upInst f hi
  exact ⟨ho.trans ho', hb'.trans_of hb, hi'⟩

theorem SetsInst.colNext {d e : Dev} {n : Nat} {pl : Plan} {x : Inst} (h : SetsInst n pl x d e) (hw : x.waits pl) (hs : x.sprue = false) :
    SetsInst n pl { x with stalled := false } d (e.colNext n) := by
  rw [colNext_waits h.2.2 hw hs]
  exact h.upInst (fun x => { x with stalled := false })

/-! ### The checks before a collective packet's own (R257, R374) -/

theorem twinned1_plain {d : Dev} {k : Packet} (hk : k.twin = false) (h : Dev → Dev × Option Nat) (ans : Dev → Nat → Dev) :
    d.twinned1 k h ans = (h d).1 := by
  have hc : d.twinCheck k = .first := by simp [Dev.twinCheck, hk]
  have hr : ∀ (e : Dev) o, e.twinRecord k o = e := fun e o => by simp [Dev.twinRecord, hk]
  unfold Dev.twinned1
  rw [hc]
  dsimp only
  split
  · rename_i e o he
    rw [hr, he]
  · rename_i e he
    rw [he]

theorem colGate_forPlan {d : Dev} {k : Packet} {n m : Nat} {pl : Plan} (h : ForPlan d k n pl m) : d.colGate k = (d, some (n, pl), 0) := by
  obtain ⟨-, hr, hn, hp, hpart, hsig, -, -⟩ := h
  unfold Dev.colGate
  simp only [hr, ← hn, hp, Bool.not_true, Bool.false_eq_true, if_false, hpart, hsig, decide_true, Bool.and_self, if_true]

/-- What a packet's checks read, the taking of a packet from the inbox keeps. -/
theorem ForPlan.of {d e : Dev} {k : Packet} {n m : Nat} {pl : Plan} (h : ForPlan d k n pl m) (hm : e.mld = d.mld)
    (hp : e.plan n = d.plan n) (hi : e.rte.devId = d.rte.devId) : ForPlan e k n pl m := by
  obtain ⟨h1, h2, h3, h4, h5, h6, h7, h8⟩ := h
  have hpart : ∀ j, e.part j = d.part j := fun j => part_same (d := d) hm j
  exact ⟨h1, by rw [hpart]; exact h2, h3, by rw [hp]; exact h4, h5, h6, h7, by simpa only [Dev.granted, hpart, hi] using h8⟩

theorem ForInstance.of {d e : Dev} {k : Packet} {n m : Nat} {pl : Plan} {x : Inst} (h : ForInstance d k n pl x m) (hm : e.mld = d.mld)
    (hp : e.plan n = d.plan n) (hi : e.rte.devId = d.rte.devId) : ForInstance e k n pl x m := ⟨h.1.of hm hp hi, h.2⟩

theorem ForInstance.inst {d : Dev} {k : Packet} {n m : Nat} {pl : Plan} {x : Inst} (h : ForInstance d k n pl x m) :
    d.instOf n = some (pl, x) := by
  obtain ⟨⟨-, -, -, hp, -, -, -, -⟩, hx, -, -, -⟩ := h
  exact instOf_eq hp hx

/-- R257: an intact first copy, in range, for the current collective. -/
theorem colRecv_first {d : Dev} {k : Packet} {n m : Nat} {pl : Plan} {x : Inst} (h : ForInstance d k n pl x m)
    {range : Plan → Inst → Nat → Bool} (hr : range pl x m = true) (g : Dev → Nat → Plan → Inst → Nat → Dev × Nat) :
    d.colRecv k range g = (g d n pl x m).1.colAns k (g d n pl x m).2 := by
  obtain ⟨hplan, hx, hseq, hcrc, hseen⟩ := h
  have hgate := colGate_forPlan hplan
  obtain ⟨-, -, -, -, -, -, hmem, hg⟩ := hplan
  unfold Dev.colRecv
  rw [hgate]
  simp only [Plan.instState, hx, hseq, if_true, hmem, hg, hr, hcrc, hseen, Bool.not_true, Bool.or_self, Bool.false_eq_true, if_false,
    bne_self_eq_false]

theorem inRange_chunkPath {x : Inst} {pl : Plan} {k : Packet} {m : Nat} (h : x.inRange pl k m = true) : x.sprue = false := by
  unfold Inst.inRange at h
  simp only [Bool.and_eq_true, Bool.not_eq_true'] at h
  obtain ⟨⟨⟨⟨⟨hs, -⟩, -⟩, -⟩, -⟩, -⟩ := h
  exact hs

/-- R253, R254: a chunk of an all-gather or an exchange is written; what it has still to pass on joins `fwd`. -/
theorem colApply_writes {d D : Dev} {n q j s addr : Nat} {pl : Plan} {x : Inst} {chain : Bool} {bs : Bytes} (e : Ecc) (hop : x.op ≠ 0)
    (hi : D.instOf n = some (pl, x)) (hw : d.vaWrite pl.part (x.dst + addr) 8 3 false bs = (D, .ok [])) :
    ∃ E fw, d.colApply n pl x q j s chain addr bs e = (E, .ok) ∧
      SetsInst n pl { x with resDig := if x.op = 1 then Nat.xor x.resDig (digTerm addr (crc32c bs)) else x.resDig, fwd := fw } D E := by
  refine ⟨_, _, ?_, setsInst_upInst (fun y => { y with
    resDig := if x.op = 1 then Nat.xor y.resDig (digTerm addr (crc32c bs)) else y.resDig,
    fwd := y.fwd ++ (pl.relays x.op j (addr / x.bytes) (addr % x.bytes / 4096)).map
      (fun r => { step := j, block := addr / x.bytes, chunk := addr % x.bytes / 4096, member := r }) }) hi⟩
  unfold Dev.colApply Dev.colWrite
  simp only [hop, decide_false, Bool.false_and, Bool.false_eq_true, if_false, hw]

theorem devOnly_echoFrom (d : Dev) (j : Nat) : DevOnly [.rte] d (d.echoFrom j) := by
  unfold Dev.echoFrom
  dsimp only
  split
  · exact (devOnly_upRte _ _).trans (devOnly_upRte _ _)
  · exact (devOnly_upRte _ _).trans (devOnly_upRte _ _)

theorem devOnly_noteEcho (d : Dev) (k : Packet) : DevOnly [.rte] d (d.noteEcho k) := by
  unfold Dev.noteEcho
  split
  · exact devOnly_echoFrom _ _
  · exact DevOnly.refl _ _

theorem sendDigest_unasked {d : Dev} {n : Nat} {pl : Plan} {x : Inst} (h : d.instOf n = some (pl, x)) (hf : bit pl.flags.toNat 1 = false)
    (j r : Nat) : d.sendDigest n j r = d := by
  unfold Dev.sendDigest
  rw [h]
  simp only [hf, Bool.and_false, Bool.false_and, Bool.false_eq_true, if_false]

theorem colFenceDue_none {d : Dev} {n : Nat} {pl : Plan} {x : Inst} (h : d.instOf n = some (pl, x)) (he : x.endSt = none) :
    d.colFenceDue n = d := by
  unfold Dev.colFenceDue
  rw [h]
  simp only [he]

/-- R257: the packet that an ACCEPTED answers is done with; of a chunk, it is counted. -/
theorem colOutcome_accepted {d : Dev} {n : Nat} {pl : Plan} {x : Inst} {c : ColSent} (k : Packet) (h : d.instOf n = some (pl, x))
    (hc : c.copy = false) (hf : bit pl.flags.toNat 1 = false) (he : x.endSt = none) (hw : x.waits pl) (hs : x.sprue = false) :
    SetsInst n pl { x with
        sent := dropFirst (fun y => y.answers k) x.sent, stalled := false,
        acked := if c.pkt.kind = 0x10 then tup 0 x.acked (fld c.pkt.arg0 11 10 * 2 ^ 20 + c.member) (· + 1) else x.acked }
      d (d.colOutcome n c k oAccepted) := by
  have hr := setsInst_upInst (fun x => { x with sent := dropFirst (fun y => y.answers k) x.sent, stalled := false }) h
  unfold Dev.colOutcome
  simp only [show oAccepted ≠ oResend by decide, show oAccepted ≠ oNotReady by decide, if_false, hc, Bool.false_eq_true, if_true]
  split
  · have ha := hr.upInst (fun x => { x with acked := tup 0 x.acked (fld c.pkt.arg0 11 10 * 2 ^ 20 + c.member) (· + 1) })
    rw [sendDigest_unasked ha.2.2 hf, colFenceDue_none ha.2.2 he]
    exact ha.colNext hw hs
  · rw [colFenceDue_none hr.2.2 he]
    exact hr.colNext hw hs

/-- R257: an ACCEPTED packet is answered. -/
theorem colAns_accepted (d : Dev) (k : Packet) : ∃ p, (d.colAns k oAccepted).1 = d.inject p ∧ ChunkAcks k p 0 :=
  ⟨{ d.packet 0x11 k.src k.srcPart k.dstPart k.seq k.addr k.arg0 oAccepted [] with echo := k.cong }, rfl,
    rfl, rfl, rfl, rfl, rfl, rfl, rfl, rfl⟩

/-- A packet that `D` has accepted is answered by one packet, and nothing else follows. -/
theorem runs_accepts {c : Instr} {s : State} {bs : List Block} {post : Dev → Prop} {f : Dev → Dev} {ok : Bool} {k : Packet} {D : Dev}
    (h : exec c s = unitOk ok (onWorkN s f)) (hok : ok = true) (hold : s.dev.thm.hold = false) (hD : f s.dev = (D.colAns k oAccepted).1)
    (o : DevOnly bs s.dev D) (hrte : D.rte.heldInj = s.dev.rte.heldInj) (hr : Block.rte ∈ bs) (hm : Block.mgmt ∈ bs) (ho : Block.out ∈ bs)
    (p : ∀ e, DevOnly [.rte, .mgmt, .out] D e → post e) : Runs c s bs (fun d => post d ∧ Injects s.dev d (fun p => ChunkAcks k p 0)) := by
  obtain ⟨pk, hp, hack⟩ := colAns_accepted D k
  have hinj := (feeds_inject D pk).1
  refine runs_unitWorkN h hok hold (hD.trans hp) (o.trans (hinj.mono (by simp [hr, ho]))) hm ho
    ⟨p _ ((hinj.mono (by simp)).trans ((devOnly_report _ _).mono (by simp))), pk, ?_, hack⟩
  rw [report_rte, ← hrte]
  rfl

/-- As runs_accepts, where the packet changes the collective alone. -/
theorem runs_setsInst {β : Type} {c : Instr} {s : State} {f : Dev → Dev} {k : Packet} {F : Dev} {n : Nat} {pl : Plan} {y : Inst} (g : Inst → β)
    (h : exec c s = onWorkN s f) (hold : s.dev.thm.hold = false) (hD : f s.dev = (F.colAns k oAccepted).1)
    (hF : SetsInst n pl y (s.dev.takePkt k) F) : Runs c s [.ldl, .rte, .mgmt, .out] (fun e =>
      (e.instOf n).map (fun z => g z.2) = some (g y) ∧ But n s.dev.plan e.plan ∧ Injects s.dev e (fun p => ChunkAcks k p 0)) := by
  obtain ⟨hFo, hFp, hFi⟩ := hF
  have htake : DevOnly [.rte] s.dev (s.dev.takePkt k) := devOnly_upRte _ _
  have hrte : F.rte = (s.dev.takePkt k).rte := hFo .rte (by simp)
  refine (runs_accepts (ok := true) h rfl hold hD ((htake.mono (by simp)).trans (hFo.mono (by simp))) (by rw [hrte]; rfl)
    (by simp) (by simp) (by simp) (post := fun e => (e.instOf n).map (fun z => g z.2) = some (g y) ∧ But n s.dev.plan e.plan)
    (fun e he => ⟨?_, fun j hj => ?_⟩)).imp (fun e he => ⟨he.1.1, he.1.2, he.2⟩)
  · rw [instOf_same (he .ldl (by simp)), hFi]; rfl
  · rw [plan_same (he .ldl (by simp)), hFp j hj]; rfl

end Sys2Proof.Machine
end

section
/-! PROOFS. The obligation about collective packets that are applied and acknowledged. -/

open Sys2Proof Sys2Proof.Machine

/-- Settles O27: each packet passes the checks in their order, changes its own fields, and is answered ACCEPTED. -/
theorem collectivePacketsAreAppliedAndAcknowledged : Obligations.CollectivePacketsAreAppliedAndAcknowledged := by
  refine ⟨?_, ?_, ?_, ?_, ?_⟩
  · intro s q k n m pl x ld hq hold hf hop hin hadm hhold hpos hout
    have hsp := inRange_chunkPath hin
    generalize hd : (s.dev.takePkt k).upLdl (fun l => { l with lastPlan := tset 0 l.lastPlan q (k.arg0 % 1024) }) = d
    have hdo : DevOnly [.ldl, .rte] s.dev d := by
      rw [← hd]; exact ((devOnly_upRte _ _).mono (by simp)).trans ((devOnly_upLdl _ _).mono (by simp))
    have hfd : ForInstance d k n pl x m := hf.of (by rw [← hd]; rfl) (by rw [← hd]; rfl) (by rw [← hd]; rfl)
    obtain ⟨D, hw, hb, hDo⟩ := vaWrite_ok (d := d) 3 (by
      rw [← hd]; exact hadm : Admits d pl.part (x.dst + k.addr) k.payload.length 8 false ld)
    have hDi : D.instOf n = some (pl, x) := by rw [instOf_same (hDo .ldl (by simp)), hfd.inst]
    obtain ⟨E, fw, happ, hE⟩ := colApply_writes (q := q) (j := fld k.arg0 11 10) (s := m) (chain := bit k.arg0 15) Ecc.quiet hop hDi hw
    obtain ⟨hFo, hFp, hFi⟩ := (hE.upInst (fun x => { x with
      seen := x.seen ++ [colIdent k m],
      rxDig := tup 0 x.rxDig (fld k.arg0 11 10 * 2 ^ 20 + m) (fun a => Nat.xor a (digTerm k.addr k.arg1)) })).colNext
      ⟨hhold, fun _ => ⟨hpos, hout⟩⟩ hsp
    generalize hF : Dev.colNext _ n = F at hFo hFp hFi
    have hdo' : doChunk s.dev q k Ecc.quiet = (F.colAns k oAccepted).1 := by
      unfold doChunk
      rw [twinned1_plain hf.1.1]
      simp only [hd, colRecv_first hfd (range := fun pl x s => x.inRange pl k s) hin, happ, hF]
    have hpl : ∀ j, j ≠ n → F.plan j = s.dev.plan j := fun j hj => by rw [hFp j hj, plan_same (hDo .ldl (by simp)), ← hd]; rfl
    refine (runs_accepts rfl (decide_eq_true hq) hold hdo'
      ((hdo.mono (by simp)).trans ((hDo.mono (by simp)).trans (hFo.mono (by simp)))) ?_ (by simp) (by simp) (by simp)
      (post := fun e => e.mem.bytes = memPuts s.dev.mem.bytes ld k.payload ∧
        (e.instOf n).map (fun y => y.2.seen) = some (x.seen ++ [colIdent k m]) ∧
        (x.op = 1 → (e.instOf n).map (fun y => y.2.resDig) = some (Nat.xor x.resDig (digTerm k.addr (crc32c k.payload)))) ∧
        But n s.dev.plan e.plan) (fun e he => ⟨?_, ?_, fun h1 => ?_, fun j hj => ?_⟩)).imp (fun e he => ⟨he.1.1, he.1.2.1, he.1.2.2.1, he.1.2.2.2, he.2⟩)
    · rw [show F.rte = d.rte from (hFo .rte (by simp)).trans (hDo .rte (by simp)), ← hd]; rfl
    · rw [show e.mem = D.mem from (he .mem (by simp)).trans (hFo .mem (by simp)), hb, ← hd]; rfl
    · rw [instOf_same (he .ldl (by simp)), hFi]; rfl
    · rw [instOf_same (he .ldl (by simp)), hFi]; simp only [h1, if_true, Option.map_some]
    · rw [plan_same (he .ldl (by simp)), hpl j hj]
  · intro s k n m pl x hold hf
    dsimp only
    generalize hd : s.dev.takePkt k = d
    have hdo : DevOnly [.rte] s.dev d := by rw [← hd]; exact devOnly_upRte _ _
    have hfd : ForInstance d k n pl x m := hf.of (by rw [← hd]; rfl) (by rw [← hd]; rfl) (by rw [← hd]; rfl)
    have hF := setsInst_upInst (fun y => { y with
      seen := y.seen ++ [colIdent k m], digIn := y.digIn ++ [(fld k.arg0 11 10, m)],
      badDig := y.badDig || tget 0 x.rxDig (fld k.arg0 11 10 * 2 ^ 20 + m) != le k.payload 0 8, stalled := false }) hfd.inst
    generalize hFd : Dev.upInst d n _ = F at hF
    have hdo : doDigestPacket s.dev k = (F.colAns k oAccepted).1 := by
      unfold doDigestPacket
      dsimp only
      rw [twinned1_plain hf.1.1, hd, colRecv_first hfd rfl, hFd]
    rw [← hd] at hF
    exact runs_setsInst (f := fun d => doDigestPacket d k) (fun y => (y.seen, y.digIn, y.badDig)) rfl hold hdo hF
  · intro s k n m pl x hold hf
    dsimp only
    intro hj hkind hlen hring hdown hmine hst
    generalize hd : s.dev.takePkt k = d
    have hfd : ForInstance d k n pl x m := hf.of (by rw [← hd]; rfl) (by rw [← hd]; rfl) (by rw [← hd]; rfl)
    have hseen := setsInst_upInst (fun x => { x with seen := x.seen ++ [colIdent k m], stalled := false }) hfd.inst
    have hF := hseen.upInst (fun x => { x with
      spVals := tset none x.spVals (spKey (fld k.arg0 11 10) (pl.digit (fld k.arg0 11 10) (k.addr % 2 ^ 20)) (fld k.arg0 13 13))
        (some k.payload) })
    generalize hFd : Dev.upInst _ n _ = F at hF
    have hgo : Dev.sprueGo n 6 F = F := sprueGo_awaits hF.2.2 (Or.inl hmine) 6
    have hfin : F.colFinish n = F := colFinish_waits hF.2.2 (fun h => absurd (hst.symm.trans h) Bool.false_ne_true)
    have hrange : (decide (fld k.arg0 11 10 < pl.dims) && (bit k.arg0 14 != x.sprue) && decide (k.length ≤ 128)) = true := by
      simp only [hj, hlen, decide_true, Bool.true_and, Bool.and_true, bne_iff_ne, ne_eq]
      exact hkind
    have hdo : doSprue s.dev k = (F.colAns k oAccepted).1 := by
      unfold doSprue
      dsimp only
      rw [twinned1_plain hf.1.1, hd, colRecv_first hfd hrange]
      unfold Dev.sprueIn
      simp only [hring, hdown, Bool.false_eq_true, if_false, hFd, hgo, hfin]
    rw [← hd] at hF
    refine (runs_setsInst (f := fun d => doSprue d k) (fun y => (y.seen, tget none y.spVals (spKey (fld k.arg0 11 10)
      (pl.digit (fld k.arg0 11 10) (k.addr % 2 ^ 20)) (fld k.arg0 13 13)))) rfl hold hdo hF).imp (fun e he => ⟨?_, he.2⟩)
    rw [he.1, tget_set, if_pos rfl]
  · intro s k n m pl hold hf hi
    generalize hd : s.dev.takePkt k = d
    have hfd : ForPlan d k n pl m := hf.of (by rw [← hd]; rfl) (by rw [← hd]; rfl) (by rw [← hd]; rfl)
    have hdo : DevOnly [.rte] s.dev d := by rw [← hd]; exact devOnly_upRte _ _
    have hmem := hfd.2.2.2.2.2.2.1
    generalize hheard : d.upLdl (fun l =>
      { l with ntPlan := n, ntStatus := k.arg1 % 256, ntSent := false, ntValid := true, ntMember := m }) = h
    have hh : DevOnly [.ldl] d h := by rw [← hheard]; exact devOnly_upLdl _ _
    have hraise : DevOnly [.evc] h (h.colEvent n 3 m) := devOnly_raise _ _ _
    generalize hF : (h.colEvent n 3 m).upPlan n (fun pl => { pl with note := some (pl.note.getD (k.seq, k.arg1 % 256, m)) }) = F
    have hFo : DevOnly [.ldl, .evc] d F := by
      rw [← hF]; exact ((hh.mono (by simp)).trans (hraise.mono (by simp))).trans ((devOnly_upPlan _ _ _).mono (by simp))
    have hFl : F.ldl.ntStatus = k.arg1 % 256 ∧ F.ldl.ntMember = m := by
      have hl : (h.colEvent n 3 m).ldl = h.ldl := hraise .ldl (by simp)
      rw [← hF]
      refine ⟨(congrArg Ldl.ntStatus hl).trans ?_, (congrArg Ldl.ntMember hl).trans ?_⟩
      · rw [← hheard]; rfl
      · rw [← hheard]; rfl
    have hFp : ∀ j, F.plan j = if j = n then (d.plan j).map (fun pl => { pl with note := some (pl.note.getD (k.seq, k.arg1 % 256, m)) })
        else d.plan j := fun j => by
      have hp : (h.colEvent n 3 m).plan j = d.plan j := by rw [plan_same (hraise .ldl (by simp)), ← hheard]; rfl
      rw [← hF, plan_upPlan, hp]
      split
      · rename_i hj; subst hj; rw [plan_same (hraise .ldl (by simp)), ← hheard]; rfl
      · rfl
    have hdo' : doNotice s.dev k = (F.colAns k oAccepted).1 := by
      unfold doNotice
      dsimp only
      rw [twinned1_plain hf.1, hd]
      simp only [colGate_forPlan hfd, hmem, hi, hheard, hF]
    refine (runs_accepts (ok := true) (show exec (.notice k) s = unitOk true (onWorkN s (fun d => doNotice d k)) from rfl) rfl hold hdo'
      ((hdo.mono (by simp)).trans (hFo.mono (by simp)))
      (by rw [show F.rte = d.rte from hFo .rte (by simp), ← hd]; rfl) (by simp) (by simp) (by simp)
      (post := fun e => e.plan n = some { pl with note := some (pl.note.getD (k.seq, k.arg1 % 256, m)) } ∧ e.ldl.ntStatus = k.arg1 % 256 ∧
        e.ldl.ntMember = m ∧ But n s.dev.plan e.plan)
      (fun e he => ⟨?_, ?_, ?_, fun j hj => ?_⟩)).imp (fun e he => ⟨he.1.1, he.1.2.1, he.1.2.2.1, he.1.2.2.2, he.2⟩)
    · rw [plan_same (he .ldl (by simp)), hFp, if_pos rfl, hfd.2.2.2.1, Option.map_some]
    · rw [show e.ldl = F.ldl from he .ldl (by simp), hFl.1]
    · rw [show e.ldl = F.ldl from he .ldl (by simp), hFl.2]
    · rw [plan_same (he .ldl (by simp)), hFp, if_neg hj, ← hd]; rfl
  · intro s k n pl x c hold hn hp hx hc ho hcopy hflag hend hhold hsp hpos hout
    have hdo : DevOnly [.rte] s.dev ((s.dev.takePkt k).noteEcho k) := (devOnly_upRte _ _).trans (devOnly_noteEcho _ _)
    generalize hd : (s.dev.takePkt k).noteEcho k = d at hdo
    have hplan : ∀ j, d.plan j = s.dev.plan j := plan_same (hdo .ldl (by simp))
    have hi : d.instOf n = some (pl, x) := instOf_eq (by rw [hplan, hp]) hx
    obtain ⟨hFo, hFp, hFi⟩ := colOutcome_accepted (c := c) k hi hcopy hflag hend ⟨hhold, fun _ => ⟨hpos, hout⟩⟩ hsp
    have hdo' : doChunkAck s.dev k = d.colOutcome n c k oAccepted := by
      unfold doChunkAck
      simp only [hd, ← hn, hplan, hp, hx, Option.bind_some, hc, ho]
      rfl
    refine runs_unitWorkN (ok := true) (f := fun d => doChunkAck d k) rfl rfl hold hdo' ((hdo.mono (by simp)).trans (hFo.mono (by simp)))
      (by simp) (by simp) ⟨?_, fun j hj => ?_⟩
    · rw [report_instOf, hFi]; rfl
    · rw [report_plan, hFp j hj, hplan]

end

section
/-! PROOFS. Instances that end early (R265, R268). -/

namespace Sys2Proof.Machine

/-! ### Memory that an end leaves undefined -/

theorem devOnly_undefMem (d : Dev) (l : List (Nat × Nat)) : DevOnly [.free, .mem] d (d.undefMem l) :=
  devOnly_each l _ (fun e (x : Nat × Nat) => ((devOnly_drawBytes e x.2).mono (cs := [.free, .mem]) (by simp)).trans
    ((devOnly_upMem _ _).mono (by simp))) d

theorem devOnly_upSlot (d : Dev) (k : Nat) (f : Slot → Slot) : DevOnly [.cat] d (d.upSlot k f) := devOnly_upCat _ _

theorem devOnly_undefCarrel (d : Dev) (k a n : Nat) : DevOnly [.free, .cat] d (d.undefCarrel k a n) := by
  unfold Dev.undefCarrel
  exact ((devOnly_drawBytes d (min n (2 ^ 21))).mono (by simp)).trans ((devOnly_upSlot _ _ _).mono (by simp))

theorem devOnly_undefVa (d : Dev) (p va n : Nat) : DevOnly [.free, .cat, .mem] d (d.undefVa p va n) := by
  unfold Dev.undefVa
  split
  · exact DevOnly.refl _ _
  · refine devOnly_each _ _ (fun e x => ?_) _
    obtain ⟨pa, m⟩ := x
    dsimp only
    split
    · split
      · exact (devOnly_undefCarrel _ _ _ _).mono (by simp)
      · exact DevOnly.refl _ _
    · exact DevOnly.refl _ _
    · exact (devOnly_undefMem _ _).mono (by simp)

theorem devOnly_accClose (d : Dev) (a : AccSeq) : DevOnly [.mem, .evc] d (d.accClose a) := by
  have hmem : ∀ (e : Dev) f, DevOnly [.mem, .evc] e (e.upMem f) := fun e f => (devOnly_upMem e f).mono (by simp)
  unfold Dev.accClose
  dsimp only
  have h1 := hmem d (fun m => { m with accs := m.accs.filter (fun x => !(x.stack == a.stack && x.tag == a.tag)) })
  generalize d.upMem _ = e at h1 ⊢
  generalize List.filter _ e.mem.heldWr = mine
  have h2 := hmem e (fun m => { m with heldWr := m.heldWr.filter (fun h => !mine.contains h) })
  generalize e.upMem _ = f at h2 ⊢
  have h3 := devOnly_each mine (fun d h => (d.memPut 3 h.addr h.data).1) (fun d h => devOnly_memPut d 3 h.addr h.data) f
  exact ((h1.trans h2).trans h3).trans (hmem _ _)

theorem devOnly_accAbort (d : Dev) (a : AccSeq) : DevOnly [.ldl, .free, .mem, .evc] d (d.accAbort a) := by
  unfold Dev.accAbort
  refine DevOnly.trans (DevOnly.trans ((devOnly_upLdl d _).mono (by simp)) (DevOnly.ite (DevOnly.refl _ _) ?_)) ((devOnly_accClose _ _).mono (by simp))
  exact (devOnly_undefMem _ _).mono (by simp)

theorem accAbort_plans (d : Dev) (a : AccSeq) : (d.accAbort a).ldl.plans = d.ldl.plans := by
  unfold Dev.accAbort
  have h := devOnly_accClose (if a.next = 0 then d.upLdl (fun l => { l with absorbed := satAdd 64 l.absorbed a.held.length })
    else (d.upLdl (fun l => { l with absorbed := satAdd 64 l.absorbed a.held.length })).undefMem [(a.addr, a.length)]) a .ldl (by simp)
  refine (congrArg Ldl.plans h).trans ?_
  split
  · rfl
  · exact (congrArg Ldl.plans (devOnly_undefMem _ [(a.addr, a.length)] .ldl (by simp))).trans rfl

/-! ### NOTICEs (R265) -/

theorem devOnly_sendNotices (d : Dev) (n : Nat) (pl : Plan) (x : Inst) (st : Nat) :
    DevOnly [.ldl, .evc, .twin, .rte, .out] d (d.sendNotices n pl x st) := by
  unfold Dev.sendNotices
  refine DevOnly.trans (((devOnly_upLdl _ _).mono (by simp)).trans ((devOnly_raise _ _ _).mono (by simp))) (devOnly_each _ _ (fun e m => ?_) _)
  refine DevOnly.trans ((devOnly_nextCol e pl n).mono (by simp)) (devOnly_each _ _ (fun e k => ?_) _)
  exact ((devOnly_upPlan _ _ _).mono (by simp)).trans ((feeds_inject _ _).1.mono (by simp))

/-- The NOTICEs that a plan sends join its list, and no collective changes. -/
theorem sendNotices_inst (d : Dev) (n : Nat) (pl : Plan) (x : Inst) (st j : Nat) :
    ((d.sendNotices n pl x st).plan j).map (·.inst) = (d.plan j).map (·.inst) := by
  unfold Dev.sendNotices
  dsimp only
  refine (each_inv (fun e : Dev => (e.plan j).map (·.inst)) _ _ (fun e m => ?_) _).trans ?_
  · refine (each_inv (fun e : Dev => (e.plan j).map (·.inst)) _ _ (fun e k => ?_) _).trans ?_
    · rw [plan_same ((feeds_inject _ _).1 .ldl (by simp)), plan_upPlan]
      split
      · rename_i h; subst h; rw [Option.map_map]; rfl
      · rfl
    · rw [plan_same (devOnly_nextCol e pl n .ldl (by simp))]
  · rw [Dev.colEvent, plan_same (devOnly_raise _ _ _ .ldl (by simp))]
    rfl

/-! ### The end -/

/-- R265: a collective that ends early: its plan has none, and its work order ends with the status. -/
theorem endInst_ends {d : Dev} {n : Nat} {pl : Plan} {x : Inst} (h : d.instOf n = some (pl, x)) (st nst : Nat) :
    DevOnly [.free, .cat, .mem, .ldl, .que, .twin, .mld, .rte, .evc, .out] d (d.endInst n st nst true) ∧
    ((d.endInst n st nst true).plan n).map (·.inst) = some none ∧
    ∀ q i, (d.endInst n st nst true).flight q i = (d.endWork x.queue x.index st 0 pl.sig).flight q i := by
  obtain ⟨hp, -⟩ := instOf_some h
  have h1 := (feeds_closeRange d pl.part (0x8000 + n) (some st)).1
  generalize hd1 : d.closeRange pl.part (0x8000 + n) (some st) = d1 at h1
  have h2 := devOnly_upMem d1 (fun m => { m with waiting := m.waiting.filter (fun a => a.plan != n) })
  generalize hd2 : d1.upMem (fun m => { m with waiting := m.waiting.filter (fun a => a.plan != n) }) = d2 at h2
  have h3 := devOnly_each (d2.mem.accs.filter (fun a => a.plan == n)) (fun d a => d.accAbort a) (fun e a => devOnly_accAbort e a) d2
  have h3p := each_inv (fun e : Dev => e.ldl.plans) (d2.mem.accs.filter (fun a => a.plan == n)) (fun d a => d.accAbort a) accAbort_plans d2
  generalize hd3 : d2.each (d2.mem.accs.filter (fun a => a.plan == n)) (fun d a => d.accAbort a) = d3 at h3 h3p
  have h4 := devOnly_upLdl d3 (fun l => { l with absorbed := satAdd 64 l.absorbed x.hold.length })
  have h4p : (d3.upLdl (fun l => { l with absorbed := satAdd 64 l.absorbed x.hold.length })).ldl.plans = d3.ldl.plans := rfl
  generalize hd4 : d3.upLdl (fun l => { l with absorbed := satAdd 64 l.absorbed x.hold.length }) = d4 at h4 h4p
  have h5 := devOnly_undefVa d4 pl.part x.dst (if x.op = 0 then x.bytes else pl.members.length * x.bytes)
  generalize hd5 : d4.undefVa pl.part x.dst (if x.op = 0 then x.bytes else pl.members.length * x.bytes) = d5 at h5
  have h6 : DevOnly [.free, .cat, .mem] d5 (if (x.op = 0 && !x.sprue) = true then d5.undefVa pl.part x.src (pl.members.length * x.bytes) else d5) :=
    DevOnly.ite (devOnly_undefVa _ _ _ _) (DevOnly.refl _ _)
  generalize hd6 : (if (x.op = 0 && !x.sprue) = true then d5.undefVa pl.part x.src (pl.members.length * x.bytes) else d5) = d6 at h6
  have hend : d.endInst n st nst true =
      ((d6.upPlan n (fun pl => { pl with inst := none })).endWork x.queue x.index st 0 pl.sig).sendNotices n pl x nst := by
    unfold Dev.endInst
    simp only [h, hd1, hd2, hd3, hd4, hd5, hd6, if_true]
  have hplan : d6.plan n = some pl := by
    have : d6.ldl.plans = d.ldl.plans := by
      rw [show d6.ldl = d5.ldl from h6 .ldl (by simp), show d5.ldl = d4.ldl from h5 .ldl (by simp), h4p, h3p,
        show d2.ldl = d1.ldl from h2 .ldl (by simp), show d1.ldl = d.ldl from h1 .ldl (by simp)]
    rw [← hp]
    simp only [Dev.plan, this]
  have hque : d6.que = d.que := by
    rw [show d6.que = d5.que from h6 .que (by simp), show d5.que = d4.que from h5 .que (by simp), show d4.que = d3.que from h4 .que (by simp),
      show d3.que = d2.que from h3 .que (by simp), show d2.que = d1.que from h2 .que (by simp), show d1.que = d.que from h1 .que (by simp)]
  rw [hend]
  refine ⟨?_, ?_, fun q i => ?_⟩
  · refine DevOnly.trans ?_ ((devOnly_sendNotices _ _ _ _ _).mono (by simp))
    refine DevOnly.trans ?_ (((devOnly_upPlan _ _ _).mono (by simp)).trans ((devOnly_endWork _ _ _ _ _ _).mono (by simp)))
    exact (((h1.mono (by simp)).trans (h2.mono (by simp))).trans ((h3.mono (by simp)).trans (h4.mono (by simp)))).trans
      ((h5.mono (by simp)).trans (h6.mono (by simp)))
  · rw [sendNotices_inst, plan_same (devOnly_endWork _ _ _ _ _ _ .ldl (by simp)), plan_upPlan, if_pos rfl, hplan]
    rfl
  · rw [flight_same (devOnly_sendNotices _ _ _ _ _ .que (by simp))]
    have hkeep : ∀ q i, (d6.upPlan n (fun pl => { pl with inst := none })).flight q i = d.flight q i := flight_same (d := d) hque
    rw [flight_end, flight_end, hkeep, hkeep]

end Sys2Proof.Machine
end

section
/-! PROOFS. The obligation about resends, verdict rounds, stalls and aborts of collectives. -/

open Sys2Proof Sys2Proof.Machine

/-- Settles O28: a resend and a stall change a count and a packet or a mark; the verdict is a value sent to another root; an abort is
an early end. -/
theorem collectiveTimersAndAborts : Obligations.CollectiveTimersAndAborts := by
  refine ⟨?_, ?_, ?_, ?_⟩
  · intro s n ix pl x c hn hold hp hx hc hl
    refine ⟨fun hsrc => ?_, fun va l hsrc hv => ?_⟩
    · generalize hE : s.dev.upLdl (fun l => { l with rsTimer := satAdd 32 l.rsTimer 1 }) = E
      have hdo : doChunkResend s.dev n false ix Ecc.quiet = E.inject c.pkt := by
        unfold doChunkResend
        simp only [hp, hx, hc, hl, hsrc, Bool.false_eq_true, if_false, hE]
      have hEo : DevOnly [.ldl] s.dev E := by rw [← hE]; exact devOnly_upLdl _ _
      refine runs_unitWorkN rfl (decide_eq_true hn) hold hdo ((hEo.mono (by simp)).trans ((feeds_inject _ _).1.mono (by simp))) (by simp)
        (by simp) ⟨?_, c.pkt, ?_, rfl⟩
      · rw [report_ldl, ← hE]; rfl
      · rw [report_rte, ← hE]; rfl
    · generalize hE : s.dev.upLdl (fun l => { l with rsTimer := satAdd 32 l.rsTimer 1 }) = E
      have hdo : doChunkResend s.dev n false ix Ecc.quiet =
          E.inject { c.pkt with payload := memGets s.dev.mem.bytes l, arg1 := crc32c (memGets s.dev.mem.bytes l) } := by
        have hread := vaRead_quiet 3 hv
        unfold doChunkResend
        simp only [hp, hx, hc, hl, hsrc, Bool.false_eq_true, if_false, hread, hE]
      have hEo : DevOnly [.ldl] s.dev E := by rw [← hE]; exact devOnly_upLdl _ _
      refine runs_unitWorkN rfl (decide_eq_true hn) hold hdo ((hEo.mono (by simp)).trans ((feeds_inject _ _).1.mono (by simp))) (by simp)
        (by simp) ⟨?_, _, ?_, rfl⟩
      · rw [report_ldl, ← hE]; rfl
      · rw [report_rte, ← hE]; rfl
  · intro s n pl x hn hold hi hst hw hpos hsent hfwd hver hdig hd hsp hr hroot hf
    have hmark := setsInst_upInst (fun x => { x with verdict := true }) hi
    generalize hF : s.dev.upInst n (fun x => { x with verdict := true }) = F at hmark
    have hrootF : F.sprueRoot { pl with inst := some { x with verdict := true } } 0 ≠ pl.self := by
      rw [← hF]; exact hroot
    obtain ⟨E, l, hE, ho, hb, hEi⟩ := sprueStart_leaf
      (leBytes 8 (if x.op = 1 then x.resDig else 0) ++ leBytes 8 (if x.op = 1 then x.resDig else 0) ++ leBytes 8 (b2n x.badDig))
      hmark.2.2 hd hsp hr hrootF hf (Or.inr hw)
    have hdo : doVerdictRound s.dev n = E := by
      unfold doVerdictRound
      simp only [hi, hst, hw, hpos, hsent, hfwd, hver, hdig, decide_true, List.isEmpty_nil, Bool.not_false, Bool.and_self, if_true, hF]
      exact hE
    refine runs_unitWorkN rfl (decide_eq_true hn) hold hdo ((hmark.1.mono (by simp)).trans (ho.mono (by simp))) (by simp) (by simp)
      ⟨?_, fun m hm => ?_⟩
    · rw [report_instOf]
      have := congrArg (Option.map (fun y : Inst => (y.verdict, y.mine))) hEi
      rw [Option.map_map, Option.map_some] at this
      exact this
    · rw [report_plan, hb m hm, hmark.2.1 m hm]
  · intro s n pl x hn hi
    generalize hF : s.dev.upLdl (fun l => { l with stalls := satAdd 32 l.stalls 1 }) = F
    have hFo : DevOnly [.ldl] s.dev F := by rw [← hF]; exact devOnly_upLdl _ _
    have hFi : F.instOf n = some (pl, x) := by rw [← hF]; exact hi
    obtain ⟨hGo, hGp, hGi⟩ := setsInst_upInst (fun x => { x with stalled := true }) hFi
    generalize hG : F.upInst n (fun x => { x with stalled := true }) = G at hGo hGp hGi
    have hraise := devOnly_raise G (0xC000 + n) (1 + (lowest (s.dev.awaited pl x)).getD 0 % 2 ^ 20 * 256)
    generalize hE : G.raise (0xC000 + n) (1 + (lowest (s.dev.awaited pl x)).getD 0 % 2 ^ 20 * 256) = E at hraise
    have hdo : doCollectiveStall s.dev n = E := by
      have haw : G.awaited pl x = s.dev.awaited pl x := by
        rw [← hG, ← hF]; rfl
      unfold doCollectiveStall Dev.colEvent
      simp only [hi, hF, hG, haw, hE]
    refine runs_unitDevN rfl (decide_eq_true hn) hdo (((hFo.trans hGo).mono (by simp)).trans (hraise.mono (by simp))) (by simp) (by simp)
      ⟨?_, ?_, fun m hm => ?_, fun hbound hpend => ?_⟩
    · rw [report_ldl, show E.ldl = G.ldl from hraise .ldl (by simp), ← hG, ← hF]; rfl
    · rw [report_instOf, instOf_same (hraise .ldl (by simp)), hGi]; rfl
    · rw [report_plan, plan_same (hraise .ldl (by simp)), hGp m hm, ← hF]; rfl
    · have hsrc : ∀ m, G.src m = s.dev.src m := src_same ((hFo.trans hGo) .evc (by simp))
      rw [report_src, ← hE, src_raise (Or.inr (by rw [hsrc]; exact hbound)) (by rw [hsrc]; exact hpend), if_pos rfl, hsrc]
      refine ⟨rfl, ?_⟩
      dsimp only
      omega
  · intro s n pl x f hn hr hi hf hst
    have hkeep : ∀ d, DevOnly [.acc, .sec] s.dev d → d.instOf n = some (pl, x) := fun d hd => by
      rw [instOf_same (hd .ldl (by simp)), hi]
    have hdo : ∀ d, DevOnly [.acc, .sec] s.dev d → doLdlAbort d .host n =
        d.endInst n (if s.dev.planLost pl then stUnreachable else stCancelled) (if s.dev.planLost pl then stUnreachable else stCancelled) true :=
      fun d hd => by
        have hlost : d.planLost pl = s.dev.planLost pl := by
          simp only [Dev.planLost, Dev.isLost, show d.rte = s.dev.rte from hd .rte (by simp)]
        unfold doLdlAbort
        rw [if_neg (by decide), hkeep d hd]
        simp only [hlost]
    generalize hst' : (if s.dev.planLost pl then stUnreachable else stCancelled) = st at hdo ⊢
    refine runs_onReg (f := fun d => doLdlAbort d .host n)
      (show exec (.ldlAbort .host n) s = onReg s .host (fun d => doLdlAbort d .host n) from unitOk_true (decide_eq_true hn)) hr
      (by simp) (by simp) (by simp) (by simp) (fun d hd => ?_) (fun d hd => ?_)
    · rw [hdo d hd]
      exact (endInst_ends (hkeep d hd) _ _).1.mono (by simp)
    · rw [hdo d hd]
      obtain ⟨-, hplan, hfl⟩ := endInst_ends (hkeep d hd) st st
      have hflight : ∀ q i, d.flight q i = s.dev.flight q i := flight_same (hd .que (by simp))
      refine ⟨by rw [report_plan]; exact hplan, ?_, fun q' i' hne => ?_⟩
      · rw [report_flight, hfl, flight_end, if_pos ⟨rfl, rfl⟩, hflight, hf]
        simp only [Option.map_some, hst, Option.isSome_none, Bool.false_eq_true, if_false]
      · rw [report_flight, hfl, flight_end, if_neg hne, hflight]

end

section
/-! PROOFS. The end of a work order: its increments, its record, cancelling and the watchdog (R155, R158, R161, R167). -/

namespace Sys2Proof.Machine

/-! ### Flights that change -/

theorem devOnly_upFlight (d : Dev) (q i : Nat) (f : Flight → Flight) : DevOnly [.que] d (d.upFlight q i f) := devOnly_upQue _ _

theorem upQueue_flights (d : Dev) (q : Nat) (f : Queue → Queue) : (d.upQueue q f).que.flights = d.que.flights := rfl

theorem flight_issued (d : Dev) (q i q' i' : Nat) : (d.upFlight q i (fun x => { x with issued := true })).flight q' i' =
    if q' = q ∧ i' = i then (d.flight q i).map (fun x => { x with issued := true }) else d.flight q' i' :=
  flight_upFlight d q i (fun x => { x with issued := true }) (fun _ => ⟨rfl, rfl⟩) q' i'

theorem flight_out0 (d : Dev) (q i o q' i' : Nat) : (d.upFlight q i (fun x => { x with out0 := o })).flight q' i' =
    if q' = q ∧ i' = i then (d.flight q i).map (fun x => { x with out0 := o }) else d.flight q' i' :=
  flight_upFlight d q i (fun x => { x with out0 := o }) (fun _ => ⟨rfl, rfl⟩) q' i'

theorem flight_out1 (d : Dev) (q i o q' i' : Nat) : (d.upFlight q i (fun x => { x with out1 := o })).flight q' i' =
    if q' = q ∧ i' = i then (d.flight q i).map (fun x => { x with out1 := o }) else d.flight q' i' :=
  flight_upFlight d q i (fun x => { x with out1 := o }) (fun _ => ⟨rfl, rfl⟩) q' i'

theorem flight_watch (d : Dev) (q i q' i' : Nat) : (d.upFlight q i (fun x => { x with watch := true })).flight q' i' =
    if q' = q ∧ i' = i then (d.flight q i).map (fun x => { x with watch := true }) else d.flight q' i' :=
  flight_upFlight d q i (fun x => { x with watch := true }) (fun _ => ⟨rfl, rfl⟩) q' i'

theorem devOnly_incr (b : Bool) (d : Dev) (n a : Nat) : DevOnly [.syn, .evc] d (if b then d.incrCounter n a else d) :=
  DevOnly.ite (devOnly_incrCounter _ _ _) (DevOnly.refl _ _)

theorem leBytes_length (n v : Nat) : (leBytes n v).length = n := by
  induction n generalizing v with
  | zero => rfl
  | succ n ih => rw [leBytes, List.length_cons, ih]

/-- R161: a completion record has 32 bytes. -/
theorem record_length (f : Flight) (size : Nat) : (f.record size).length = 32 := by
  simp [Flight.record, leBytes_length]

/-! ### Increments of this device's counters (R155, R164) -/

/-- What a work order leaves once its local entry, if it issues one, is applied and nothing else is issued. -/
theorem issueAll_local {d : Dev} {q i n a : Nat} {f : Flight} {inc : Bool} (hq : q < 32768) (hf : d.flight q i = some f)
    (hn : n = entryCounter (woSig f.wo 0)) (ha : a = sigAmount (woSig f.wo 0))
    (hinc : inc = (entryValid (woSig f.wo 0) && f.issues)) (h1 : entryValid (woSig f.wo 1) = false) (ht : (d.part f.part).twin ≠ 1)
    (hl : inc = true → sigRemote (woSig f.wo 0) = false ∧ sigAmount (woSig f.wo 0) ≠ 0 ∧ d.counterOf f.part n = true ∧
      (d.part f.part).ready = true) :
    d.issueAll f = ((if inc then (d.upFlight q i (fun x => { x with issued := true })).incrCounter n a
      else d.upFlight q i (fun x => { x with issued := true })).upFlight q i (fun x => { x with out0 := if inc then 0 else 0xFF })).upFlight q i
      (fun x => { x with out1 := 0xFF }) := by
  obtain ⟨hfq, hfi⟩ := flight_name hf
  generalize hD : d.upFlight q i (fun x => { x with issued := true }) = D
  have hs0 : ∀ j, D.issueSig f 0 j =
      (if inc then D.incrCounter n a else D).upFlight q i (fun x => { x with out0 := if inc then 0 else 0xFF }) := fun j => by
    unfold Dev.issueSig
    cases inc with
    | false =>
      simp only [show (!entryValid (woSig f.wo 0) || !f.issues) = true by rw [← Bool.not_and, ← hinc]; rfl, if_true, hfq, hfi,
        Bool.false_eq_true, if_false]
      rfl
    | true =>
      obtain ⟨hr, hz, hc, hrd⟩ := hl rfl
      have hv : (!entryValid (woSig f.wo 0) || !f.issues) = false := by rw [← Bool.not_and, ← hinc]; rfl
      have hloc : D.localIncr f.part (woSig f.wo 0) = (D.incrCounter n a, stOk) := by
        unfold Dev.localIncr
        have hc' : D.counterOf f.part n = true := by rw [← hD]; exact hc
        have hrd' : (D.part f.part).ready = true := by rw [← hD]; exact hrd
        simp only [← hn, ← ha, hc', hrd', show a ≠ 0 from ha ▸ hz, decide_false, Bool.not_true, Bool.or_self, Bool.false_eq_true, if_false,
          if_true]
      simp only [hv, hr, Bool.false_eq_true, if_false, hloc, if_true, hfq, hfi]
      rfl
  have hs1 : ∀ (E : Dev) j, E.issueSig f 1 j = E.upFlight q i (fun x => { x with out1 := 0xFF }) := fun E j => by
    unfold Dev.issueSig
    simp only [h1, Bool.not_false, Bool.true_or, if_true, hfq, hfi]
    rfl
  have hclose : ∀ E : Dev, (E.part f.part).twin ≠ 1 → E.closeRange f.part f.queue (some f.final) = E := fun E hE => by
    unfold Dev.closeRange
    exact if_pos (by simp [hE])
  unfold Dev.issueAll
  dsimp only
  rw [hfq, hfi, hD, hs0, hs1, if_neg (by unfold ctlQ; omega), ← hfq, hclose, hfq]
  rw [part_upFlight, part_upFlight]
  split
  · rw [part_same (devOnly_incrCounter _ _ _ .mld (by simp)), ← hD]; exact ht
  · rw [← hD]; exact ht

/-! ### The record (R145, R161) -/

/-- Taking one work order out of the flights. -/
theorem find_filter_flight (l : List Flight) (q i q' i' : Nat) :
    (l.filter (fun y => !(y.queue == q && y.index == i))).find? (fun x => x.queue == q' && x.index == i') =
      if q' = q ∧ i' = i then none else l.find? (fun x => x.queue == q' && x.index == i') := by
  rw [List.find?_filter]
  split
  · rename_i h
    obtain ⟨rfl, rfl⟩ := h
    rw [List.find?_eq_none]
    intro x _
    cases (x.queue == q' && x.index == i') <;> decide
  · rename_i h
    congr 1
    funext x
    by_cases hx : x.queue = q' ∧ x.index = i'
    · obtain ⟨rfl, rfl⟩ := hx
      simp only [Bool.and_eq_true, beq_iff_eq, h, Bool.and_self, beq_self_eq_true, Bool.not_eq_true', Bool.eq_false_iff, ne_eq,
        not_false_eq_true, decide_eq_true_eq, and_self]
    · have : (x.queue == q' && x.index == i') = false := by
        rw [Bool.eq_false_iff]; simpa only [ne_eq, Bool.and_eq_true, beq_iff_eq] using hx
      simp only [this, Bool.false_eq_true, and_false, decide_false]

/-- R145: the retired count passes the work order when it is next, with nothing written ahead. -/
theorem advanceRet_single (q i r : Nat) :
    (advanceRet q 1 r [(q, i)]).1 = if i = r then (r + 1) % 2 ^ 32 else r := by
  unfold advanceRet
  by_cases h : i = r
  · subst h; simp [advanceRet]
  · simp [h, Ne.symm h]

theorem writeRecord_writes {d : Dev} {q i : Nat} {g : Flight} {l : List (Nat × Nat)} (hq : q < 32768) (hg : g.queue = q ∧ g.index = i)
    (hl : Reaches d (d.queue q).part ((d.queue q).compl + 32 * (i % (d.queue q).size)) 32 2 l) :
    ∃ E, d.writeRecord g = E ∧ DevOnly [.que, .mem, .mld, .cat, .evc] d E ∧
      E.mem.bytes = memPuts d.mem.bytes l (g.record (d.queue q).size) ∧ E.flight q i = none ∧ ButWork q i d E ∧
      (d.que.doneAhead = [] →
        E.queue q = { d.queue q with ret := if i = (d.queue q).ret then (i + 1) % 2 ^ 32 else (d.queue q).ret }) ∧
      But q d.queue E.queue := by
  obtain ⟨rfl, rfl⟩ := hg
  have hctl : g.queue ≠ ctlQ := by unfold ctlQ; omega
  obtain ⟨D, hw, hb, hDo⟩ := vaWrite_ok 2 (bs := g.record (d.queue g.queue).size) (by rw [record_length]; exact hl)
  have h2 : DevOnly [.mld] D (if g.final = stSat then D.upPart g.part (fun p => { p with trips := satAdd 16 p.trips 1 }) else D) :=
    DevOnly.ite (devOnly_upPart _ _ _) (DevOnly.refl _ _)
  generalize hd2 : (if g.final = stSat then D.upPart g.part (fun p => { p with trips := satAdd 16 p.trips 1 }) else D) = d2 at h2
  have hque : d2.que = d.que := (h2 .que (by simp)).trans (hDo .que (by simp))
  generalize hd3 : d2.upQue (fun m => { m with
    flights := m.flights.filter (fun y => !(y.queue == g.queue && y.index == g.index)),
    doneAhead := (g.queue, g.index) :: m.doneAhead }) = d3
  have h3 : DevOnly [.que] d2 d3 := by rw [← hd3]; exact devOnly_upQue _ _
  have h3f : ∀ q' i', d3.flight q' i' = if q' = g.queue ∧ i' = g.index then none else d.flight q' i' := fun q' i' => by
    rw [← hd3]
    simp only [Dev.flight, upQue_que, hque]
    exact find_filter_flight _ _ _ _ _
  have h3q : ∀ j, d3.queue j = d.queue j := fun j => by rw [← hd3]; simp only [Dev.queue, upQue_que, hque]
  have h3d : d3.que.doneAhead = (g.queue, g.index) :: d.que.doneAhead := by rw [← hd3]; simp only [upQue_que, hque]
  generalize har : advanceRet g.queue d3.que.doneAhead.length (d.queue g.queue).ret d3.que.doneAhead = ar
  generalize hd5 : (d3.upAnyQueue g.queue (fun x => { x with ret := ar.1 })).upQue (fun m => { m with doneAhead := ar.2 }) = d5
  have h5 : DevOnly [.que] d3 d5 := by rw [← hd5]; exact (devOnly_upAnyQueue _ _ _).trans (devOnly_upQue _ _)
  have h5f : ∀ q' i', d5.flight q' i' = d3.flight q' i' := fun q' i' => by
    rw [← hd5]; exact congrArg (List.find? _) (upAnyQueue_flights d3 g.queue (fun x => { x with ret := ar.1 }))
  have h5q : ∀ j, d5.queue j = if j = g.queue then { d3.queue j with ret := ar.1 } else d3.queue j := fun j => by
    rw [← hd5, upAnyQueue_of_lt hq]
    refine (queue_upQueue d3 g.queue (fun x => { x with ret := ar.1 }) j).trans ?_
    split
    · rename_i h; rw [h]
    · rfl
  generalize hd6 : d5.trace 0x02 g.part (engineOf g.queue / 4)
    (g.queue % 2 ^ 15 + g.final * 2 ^ 15 + g.index % 2 ^ 25 * 2 ^ 23) = d6
  have h6 : DevOnly [.cat] d5 d6 := by rw [← hd6]; exact devOnly_trace _ _ _ _ _
  generalize hd7 : (if bit (woFlags g.wo) 1 = true then d6.raise g.queue (g.index % 2 ^ 32 + g.final % 2 ^ 8 * 2 ^ 32) else d6) = d7
  have h7 : DevOnly [.evc] d6 d7 := by rw [← hd7]; exact DevOnly.ite (devOnly_raise _ _ _) (DevOnly.refl _ _)
  have h57 : DevOnly [.cat, .evc] d5 d7 := (h6.mono (by simp)).trans (h7.mono (by simp))
  refine ⟨d7, ?_, ?_, ?_, ?_, fun q' i' hne => ?_, fun hnil => ?_, fun j hj => ?_⟩
  · unfold Dev.writeRecord
    simp only [hctl, if_false, anyQueue_of_lt hq, hw, hd2, hd3, har, hd5, hd6, hd7]
  · exact ((hDo.mono (by simp)).trans (h2.mono (by simp))).trans (((h3.trans h5).mono (by simp)).trans (h57.mono (by simp)))
  · rw [show d7.mem = d5.mem from h57 .mem (by simp), show d5.mem = d3.mem from h5 .mem (by simp), show d3.mem = d2.mem from h3 .mem (by simp),
      show d2.mem = D.mem from h2 .mem (by simp), hb]
  · rw [flight_same (h57 .que (by simp)), h5f, h3f, if_pos ⟨rfl, rfl⟩]
  · rw [flight_same (h57 .que (by simp)), h5f, h3f, if_neg hne]
  · rw [queue_same (h57 .que (by simp)), h5q, if_pos rfl, h3q, ← har, h3d, hnil]
    rw [show ([(g.queue, g.index)] : List (Nat × Nat)).length = 1 from rfl, advanceRet_single]
    split
    · rename_i h; rw [h]
    · rfl
  · rw [queue_same (h57 .que (by simp)), h5q, if_neg hj, h3q]

/-! ### Fences (R363) -/

theorem src_sendTwin (d : Dev) (p sub : Nat) (bs : Bytes) (j : Nat) : (d.sendTwin p sub bs).src j = d.src j := rfl

/-- R363: a fence raises its partition's own source and no other. -/
theorem src_fence (d : Dev) (p c x q : Nat) {j : Nat} (h : j ≠ 0xD080 + p) : (d.fence p c x q).src j = d.src j := by
  unfold Dev.fence
  dsimp only
  split
  · split
    · rw [src_sendTwin, src_raise_ne _ _ _ h]; rfl
    · rw [src_raise_ne _ _ _ h]; rfl
  · rfl

/-- R363, R364: the partition that a fence takes out of service, but for an unpour. -/
theorem part_fence {d : Dev} {p c : Nat} (x q : Nat) (h : (d.part p).state = 2) (hc : c ≠ 6) :
    ((d.fence p c x q).part p).state = 3 ∧ ((d.fence p c x q).part p).rcCause = c ∧ ((d.fence p c x q).part p).rcQueue = q := by
  have hraise : ∀ (e : Dev) n i, (e.raise n i).part p = e.part p := fun e n i => part_same (devOnly_raise e n i .mld (by simp)) p
  have htwin : ∀ (e : Dev) sub bs, (e.sendTwin p sub bs).part p = e.part p := fun _ _ _ => rfl
  unfold Dev.fence
  simp only [h, hc, if_true, if_false]
  split
  · rw [htwin, hraise, part_upPart, if_pos rfl]; exact ⟨rfl, rfl, rfl⟩
  · rw [hraise, part_upPart, if_pos rfl]; exact ⟨rfl, rfl, rfl⟩

theorem devOnly_recover (d : Dev) (p c x q : Nat) : DevOnly [.mld, .evc, .rte, .out] d (d.recover p c x q) :=
  DevOnly.ite (DevOnly.refl _ _) (feeds_fence _ _ _ _ _).1

theorem src_recover (d : Dev) (p c x q : Nat) {j : Nat} (h : j ≠ 0xD080 + p) : (d.recover p c x q).src j = d.src j := by
  unfold Dev.recover
  split
  · rfl
  · exact src_fence _ _ _ _ _ h

/-! ### Cancelling (R158) -/

/-- Flights that a cancelled queue's work orders from index `i` on have become. -/
def Cancels (q p i : Nat) (l : List Flight) : Prop :=
  ∀ k f, l[k]? = some f → f.queue = q ∧ f.index = (i + k) % 2 ^ 32 ∧ f.part = p ∧ f.status = some 0x06 ∧ f.issued = false

theorem cancelOne_eq (d : Dev) (q : Nat) : ∃ e w, DevOnly [.cat, .mem, .evc] d e ∧ d.cancelOne q =
    (e.upQueue q (fun x => { x with disp := (x.disp + 1) % 2 ^ 32, head := none })).upQue (fun m => { m with
      flights := m.flights ++ [{ Flight.make q (d.queue q).disp (d.queue q).part w with status := some stCancelled }] }) := by
  unfold Dev.cancelOne
  cases h : (d.queue q).head with
  | some w => exact ⟨d, if w = [] then List.replicate 64 0 else w, DevOnly.refl _ _, by simp only [h]⟩
  | none =>
    obtain ⟨e, w, hr⟩ : ∃ e w, d.readWo q (d.queue q).disp { ce := [], ue := [] } = (e, w) := ⟨_, _, rfl⟩
    have ho := devOnly_readWo d q (d.queue q).disp { ce := [], ue := [] }
    rw [hr] at ho
    exact ⟨e, if w = [] then List.replicate 64 0 else w, ho, by simp only [h, hr]⟩

theorem cancelOne_ends (d : Dev) (q : Nat) (h : (d.queue q).disp < 2 ^ 32) :
    DevOnly [.que, .cat, .mem, .evc] d (d.cancelOne q) ∧ But q d.queue (d.cancelOne q).queue ∧
    (d.cancelOne q).queue q = { d.queue q with disp := ((d.queue q).disp + 1) % 2 ^ 32, head := none } ∧
    ∃ l, l.length = 1 ∧ (d.cancelOne q).que.flights = d.que.flights ++ l ∧ Cancels q (d.queue q).part (d.queue q).disp l := by
  obtain ⟨e, w, ho, he⟩ := cancelOne_eq d q
  have hque : e.que = d.que := ho .que (by simp)
  have hup : ∀ j, (e.upQueue q (fun x => { x with disp := (x.disp + 1) % 2 ^ 32, head := none })).queue j =
      if j = q then { d.queue q with disp := ((d.queue q).disp + 1) % 2 ^ 32, head := none } else d.queue j := fun j => by
    rw [queue_upQueue, queue_same (d := d) hque, queue_same (d := d) hque]
  rw [he]
  refine ⟨DevOnly.trans (ho.mono (by simp)) (DevOnly.mono (bs := [.que]) ((devOnly_upQue _ _).trans (devOnly_upQue _ _)) (by simp)),
    fun j hj => ?_, ?_, [{ Flight.make q (d.queue q).disp (d.queue q).part w with status := some stCancelled }], rfl, ?_, fun k f hk => ?_⟩
  · exact (hup j).trans (if_neg hj)
  · exact (hup q).trans (if_pos rfl)
  · exact congrArg (fun t : Que => t.flights ++ [{ Flight.make q (d.queue q).disp (d.queue q).part w with status := some stCancelled }]) hque
  · cases k with
    | zero =>
      cases hk
      exact ⟨rfl, (Nat.mod_eq_of_lt h).symm, rfl, rfl, rfl⟩
    | succ k => cases hk

theorem cancelN_ends (q n : Nat) (d : Dev) (h : (d.queue q).disp < 2 ^ 32) :
    DevOnly [.que, .cat, .mem, .evc] d (Dev.cancelN q n d) ∧ But q d.queue (Dev.cancelN q n d).queue ∧
    (Dev.cancelN q n d).queue q =
      { d.queue q with disp := ((d.queue q).disp + n) % 2 ^ 32, head := if n = 0 then (d.queue q).head else none } ∧
    ∃ l, l.length = n ∧ (Dev.cancelN q n d).que.flights = d.que.flights ++ l ∧ Cancels q (d.queue q).part (d.queue q).disp l := by
  induction n generalizing d with
  | zero =>
    refine ⟨DevOnly.refl _ _, fun _ _ => rfl, ?_, [], rfl, (List.append_nil _).symm, fun k f hk => by cases hk⟩
    simp only [Dev.cancelN, Nat.add_zero, Nat.mod_eq_of_lt h, if_true]
  | succ n ih =>
    obtain ⟨ho, hb, hq, l, hl, hf, hc⟩ := cancelOne_ends d q h
    have hlt : ((d.cancelOne q).queue q).disp < 2 ^ 32 := by rw [hq]; exact Nat.mod_lt _ (by decide)
    obtain ⟨ho', hb', hq', l', hl', hf', hc'⟩ := ih (d.cancelOne q) hlt
    rw [Dev.cancelN]
    refine ⟨ho.trans ho', hb'.trans_of hb, ?_, l ++ l', ?_, ?_, fun k f hk => ?_⟩
    · rw [hq', hq]
      simp only [Nat.mod_add_mod, Nat.add_assoc, Nat.add_comm 1 n, ite_self, Nat.add_one_ne_zero, if_false]
    · rw [List.length_append, hl, hl', Nat.add_comm]
    · rw [hf', hf, List.append_assoc]
    · cases k with
      | zero =>
        rw [List.getElem?_append_left (by omega)] at hk
        exact hc 0 f hk
      | succ k =>
        rw [List.getElem?_append_right (by omega), hl, Nat.add_sub_cancel] at hk
        obtain ⟨a, b, c, d', e⟩ := hc' k f hk
        rw [hq] at b c
        exact ⟨a, by rw [b, Nat.mod_add_mod, Nat.add_assoc, Nat.add_comm 1 k], c, d', e⟩

end Sys2Proof.Machine
end

section
/-! PROOFS. The obligation about completion, cancelling and the watchdog. -/

open Sys2Proof Sys2Proof.Machine

/-- Settles O29: a completion applies at most one local increment and writes one record; a cancel is one more flight for each work order
that waits; a trip ends the work order and may fence its partition. -/
theorem completionCancelAndWatchdog : Obligations.CompletionCancelAndWatchdog := by
  refine ⟨?_, ?_, ?_⟩
  · intro s q i e f l hq
    dsimp only
    intro hf hst hiss hreg ht h1 hinc hl
    obtain ⟨hfq, hfi⟩ := flight_name hf
    generalize hn : entryCounter (woSig f.wo 0) = n at hinc ⊢
    generalize hin : (entryValid (woSig f.wo 0) && f.issues) = inc at hinc ⊢
    have hall := issueAll_local hq hf hn.symm rfl hin.symm h1 ht hinc
    have hstart : DevOnly [.que] s.dev (s.dev.upFlight q i (fun x => { x with issued := true })) := devOnly_upFlight _ _ _ _
    generalize hA : s.dev.upFlight q i (fun x => { x with issued := true }) = A at hall hstart
    have hincr := devOnly_incr inc A n (sigAmount (woSig f.wo 0))
    generalize hB : (if inc = true then A.incrCounter n (sigAmount (woSig f.wo 0)) else A) = B at hall hincr
    generalize hC : (B.upFlight q i (fun x => { x with out0 := if inc = true then 0 else 0xFF })).upFlight q i
      (fun x => { x with out1 := 0xFF }) = C at hall
    have hBC : DevOnly [.que] B C := by rw [← hC]; exact (devOnly_upFlight _ _ _ _).trans (devOnly_upFlight _ _ _ _)
    have hBf : ∀ q' i', B.flight q' i' = A.flight q' i' := flight_same (hincr .que (by simp))
    have hCn : ∀ q' i', ¬(q' = q ∧ i' = i) → C.flight q' i' = s.dev.flight q' i' := fun q' i' hne => by
      rw [← hC, flight_out1, if_neg hne, flight_out0, if_neg hne, hBf, ← hA, flight_issued, if_neg hne]
    have hCf : C.flight q i = some { f with issued := true, out0 := if inc = true then 0 else 0xFF, out1 := 0xFF } := by
      rw [← hC, flight_out1, flight_out0, hBf, ← hA, flight_issued, hf]
      simp only [and_self, if_true, Option.map_some]
    have hCq : ∀ j, C.queue j = s.dev.queue j := fun j => by
      have hBq : B.queue j = A.queue j := queue_same (hincr .que (by simp)) j
      rw [← hC]
      exact hBq.trans (by rw [← hA]; rfl)
    have hCd : C.que.doneAhead = s.dev.que.doneAhead := by
      have hBq : B.que = A.que := hincr .que (by simp)
      rw [← hC]
      exact (congrArg Que.doneAhead hBq).trans (by rw [← hA]; rfl)
    have hSC : DevOnly [.que, .syn, .evc] s.dev C :=
      ((hstart.mono (by simp)).trans (hincr.mono (by simp))).trans (hBC.mono (by simp))
    have hCmem : C.mem = s.dev.mem := hSC .mem (by simp)
    obtain ⟨E, hE, hEo, hEb, hEf, hEn, hEq, hEqn⟩ := writeRecord_writes (d := C) (l := l)
      (g := { f with issued := true, out0 := if inc = true then 0 else 0xFF, out1 := 0xFF }) hq ⟨hfq, hfi⟩ (by
        rw [hCq]
        obtain ⟨r1, r2, r3, r4⟩ := hl
        exact ⟨by rw [part_same (hSC .mld (by simp))]; exact r1, r2, by rw [hCmem]; exact r3, by rw [hCmem]; exact r4⟩)
    have hdo : doWorkOrderComplete s.dev q i e = E := by
      have hdig : s.dev.digestEnd f e = s.dev := if_pos hreg
      have hout : ¬((if inc = true then 0 else 0xFF) = stAwaited ∨ 0xFF = stAwaited) := by cases inc <;> decide
      unfold doWorkOrderComplete
      simp only [hf, show f.status.isNone = false by rw [Option.isNone_eq_false_iff]; exact hst, Bool.false_eq_true, if_false, hiss, hdig,
        Option.getD_some, hall, hCf]
      rw [if_neg (by simpa using hout)]
      exact hE
    have hcount : ∀ j, C.counter j = B.counter j := counter_same (hBC .syn (by simp))
    have hEs : E.syn = B.syn := (hEo .syn (by simp)).trans (hBC .syn (by simp))
    refine runs_unitDevN (f := fun d => doWorkOrderComplete d q i e) rfl (decide_eq_true (by omega)) hdo
      ((hSC.mono (by simp)).trans (hEo.mono (by simp))) (by simp) (by simp)
      ⟨record_length _ _, ?_, fun a ha => ?_, ?_, fun q' i' hne => ?_, fun hnil => ?_, fun j hj => ?_, fun hi => ?_, fun hi => ?_, fun j hj => ?_⟩
    · rw [report_mem, hEb, hCmem, hCq]
    · rw [report_mem, hEb, hCmem, memPuts_get _ _ _ _ ha]
    · rw [report_flight, hEf]
    · rw [report_flight, hEn q' i' hne, hCn q' i' hne]
    · rw [report_queue, hEq (by rw [hCd, hnil]), hCq]
    · rw [report_queue, hEqn j hj, hCq]
    · rw [report_counter, counter_same (d := B) hEs, ← hB, if_pos hi, counter_incrCounter, if_pos rfl, ← hA]; rfl
    · rw [report_syn, hEs, ← hB, if_neg (by rw [hi]; exact Bool.false_ne_true), ← hA]; rfl
    · rw [report_counter, counter_same (d := B) hEs, ← hB]
      split
      · rw [counter_incrCounter, if_neg hj, ← hA]; rfl
      · rw [← hA]; rfl
  · intro s q hq hst
    dsimp only
    intro hdisp hr
    generalize hN : ((s.dev.queue q).prod + 2 ^ 32 - (s.dev.queue q).disp) % 2 ^ 32 = N
    have hends : ∀ d, DevOnly [.acc, .sec] s.dev d → DevOnly [.que, .cat, .mem, .evc] d (d.cancelAll q) ∧
        (decide ((d.queue q).state = 1) || decide ((d.queue q).state = 2)) = true ∧
        But q s.dev.queue (d.cancelAll q).queue ∧ (d.cancelAll q).queue q = { s.dev.queue q with
          disp := ((s.dev.queue q).disp + N) % 2 ^ 32, head := if N = 0 then (s.dev.queue q).head else none } ∧
        ∃ l, l.length = N ∧ (d.cancelAll q).que.flights = s.dev.que.flights ++ l ∧ Cancels q (s.dev.queue q).part (s.dev.queue q).disp l :=
      fun d hd => by
        have hdq : ∀ j, d.queue j = s.dev.queue j := queue_same (hd .que (by simp))
        have hdf : d.que.flights = s.dev.que.flights := congrArg Que.flights (hd .que (by simp))
        obtain ⟨ho, hb, hq', l, hl, hf, hc⟩ := cancelN_ends q N d (by rw [hdq]; exact hdisp)
        have hall : d.cancelAll q = Dev.cancelN q N d := by unfold Dev.cancelAll; simp only [hdq, hN]
        rw [hall, ← hdf]
        rw [hdq] at hq' hc
        exact ⟨ho, by rw [hdq]; simpa using hst, fun j hj => (hb j hj).trans (hdq j), hq', l, hl, hf, hc⟩
    refine ⟨?_, ?_⟩
    · have hdo : ∀ d, DevOnly [.acc, .sec] s.dev d → doQueueCancel d .host q = d.cancelAll q := fun d hd => by
        unfold doQueueCancel
        rw [if_neg (by decide), if_pos (hends d hd).2.1]
      refine runs_onReg (f := fun d => doQueueCancel d .host q)
        (show exec (.queueCancel .host q) s = onReg s .host (fun d => doQueueCancel d .host q) from unitOk_true (decide_eq_true hq)) hr
        (by simp) (by simp) (by simp) (by simp) (fun d hd => ?_) (fun d hd => ?_)
      · rw [hdo d hd]
        exact (hends d hd).1.mono (by simp)
      · obtain ⟨-, -, hb, hq', l, hl, hf, hc⟩ := hends d hd
        rw [hdo d hd]
        exact ⟨by rw [report_queue, hq'], fun j hj => by rw [report_queue, hb j hj], l, hl, by rw [report_que, hf], hc⟩
    · have hdo : ∀ d, DevOnly [.acc, .sec] s.dev d → doQueueDisable d .host q = (d.cancelAll q).upQueue q (fun x => { x with state := 2 }) :=
        fun d hd => by
          unfold doQueueDisable
          rw [if_neg (by decide), if_pos (hends d hd).2.1]
      refine runs_onReg (f := fun d => doQueueDisable d .host q)
        (show exec (.queueDisable .host q) s = onReg s .host (fun d => doQueueDisable d .host q) from unitOk_true (decide_eq_true hq)) hr
        (by simp) (by simp) (by simp) (by simp) (fun d hd => ?_) (fun d hd => ?_)
      · rw [hdo d hd]
        exact ((hends d hd).1.mono (by simp)).trans (DevOnly.mono (devOnly_upQue _ _) (by simp))
      · obtain ⟨-, -, hb, hq', l, hl, hf, hc⟩ := hends d hd
        rw [hdo d hd]
        exact ⟨by rw [report_queue, queue_upQueue, if_pos rfl, hq'], fun j hj => by rw [report_queue, queue_upQueue, if_neg hj, hb j hj], l, hl,
          by rw [report_que, upQueue_flights, hf], hc⟩
  · intro s q i f hq hf hst hw hrun hop hcol hpend hp
    obtain ⟨hfq, hfi⟩ := flight_name hf
    have hrunf : s.dev.cat.runs.find? (fun r => r.queue == f.queue && r.index == f.index) = none := by
      rw [List.find?_eq_none]
      intro r hr h
      simp only [Bool.and_eq_true, beq_iff_eq, hfq, hfi] at h
      exact hrun r hr h
    generalize hA : (s.dev.upQue (fun m => { m with wdCount := satAdd 32 m.wdCount 1 })).endWork q i stWatchdog 0 f.result = A
    have hwatch : (s.dev.upQue (fun m => { m with wdCount := satAdd 32 m.wdCount 1 })).watchEnd f = A := by
      unfold Dev.watchEnd
      rw [upQue_cat, hrunf]
      simp only [upQue_mld, hop, hcol, Bool.false_and, Bool.false_eq_true, if_false, hfq, hfi, hA]
    generalize hB : A.upFlight q i (fun f => { f with watch := true }) = B
    have hBo : DevOnly [.que] s.dev B := by
      rw [← hB, ← hA]
      exact ((devOnly_upQue _ _).trans (devOnly_endWork _ _ _ _ _ _)).trans (devOnly_upFlight _ _ _ _)
    have hBw : B.que.wdCount = satAdd 32 s.dev.que.wdCount 1 := by rw [← hB, ← hA]; rfl
    have hAf : ∀ q' i', A.flight q' i' = if q' = q ∧ i' = i then
        some { f with status := some stWatchdog, detail := 0 } else s.dev.flight q' i' := fun q' i' => by
      have hup : ∀ q' i', (s.dev.upQue (fun m => { m with wdCount := satAdd 32 m.wdCount 1 })).flight q' i' = s.dev.flight q' i' := fun _ _ => rfl
      rw [← hA, flight_end, hup, hup, hf, Option.map_some, hst]
      rfl
    have hBf : B.flight q i = some { f with status := some stWatchdog, detail := 0, watch := true } := by
      rw [← hB, flight_watch, if_pos ⟨rfl, rfl⟩, hAf, if_pos ⟨rfl, rfl⟩]; rfl
    have hBn : ButWork q i s.dev B := fun q' i' hne => by rw [← hB, flight_watch, if_neg hne, hAf, if_neg hne]
    have hshell : shellSrc (0xD090 + f.part) = true := by
      simp only [shellSrc, Bool.and_eq_true, decide_eq_true_eq]; omega
    have hC := devOnly_raise B (0xD090 + f.part) (causeInfo 1 q)
    have hBs : ∀ j, B.src j = s.dev.src j := src_same (hBo .evc (by simp))
    have hCs := src_raise (d := B) (n := 0xD090 + f.part) (i := causeInfo 1 q) (Or.inl hshell) (by rw [hBs]; exact hpend) (0xD090 + f.part)
    rw [if_pos rfl] at hCs
    generalize hCd : B.raise (0xD090 + f.part) (causeInfo 1 q) = C at hC hCs
    have hrst : C.rst = s.dev.rst := (hC .rst (by simp)).trans (hBo .rst (by simp))
    have hD : DevOnly [.mld, .evc, .rte, .out] C (if C.rst.autoWd = true then C.recover f.part 1 0xFFFFFFFF q else C) :=
      DevOnly.ite (devOnly_recover _ _ _ _ _) (DevOnly.refl _ _)
    generalize hDd : (if C.rst.autoWd = true then C.recover f.part 1 0xFFFFFFFF q else C) = D at hD
    have hDs : D.src (0xD090 + f.part) = C.src (0xD090 + f.part) := by
      rw [← hDd]
      split
      · exact src_recover _ _ _ _ _ (by omega)
      · rfl
    have hdo : doWatchdogTrip s.dev q i = D := by
      unfold doWatchdogTrip
      simp only [hf, hst, hw, Option.isSome_none, Bool.or_self, Bool.false_eq_true, if_false, hwatch, hB,
        if_neg (show ¬q = ctlQ by unfold ctlQ; omega), hCd, hDd]
    have hDque : D.que = B.que := (hD .que (by simp)).trans (hC .que (by simp))
    refine runs_unitDevN (f := fun d => doWatchdogTrip d q i) rfl (decide_eq_true (by omega)) hdo
      (((hBo.mono (by simp)).trans (hC.mono (by simp))).trans (hD.mono (by simp))) (by simp) (by simp)
      ⟨?_, ?_, fun q' i' hne => ?_, ?_, ?_, fun ha hs hp2 => ?_, fun ha => ?_⟩
    · rw [report_que, hDque, hBw]
    · rw [report_flight, flight_same (d := B) hDque, hBf]; rfl
    · rw [report_flight, flight_same (d := B) hDque, hBn q' i' hne]
    · rw [report_src, hDs, hCs, hBs]
    · rw [report_src, hDs, hCs]
      simp only [causeInfo]
      omega
    · have hCp : (C.part f.part).state = 2 := by
        rw [part_same (hC .mld (by simp)), part_same (hBo .mld (by simp))]; exact hp2
      rw [report_part, ← hDd, if_pos (by rw [hrst]; exact ha), Dev.recover, if_neg (by rw [hrst]; exact hs)]
      exact part_fence _ _ hCp (by decide)
    · rw [report_mld, ← hDd, if_neg (by rw [hrst, ha]; exact Bool.false_ne_true)]
      exact (hC .mld (by simp)).trans (hBo .mld (by simp))

end

section
/-! PROOFS. Remote increments and withdrawals: what a packet leaves, and the packet that answers it (R165, R166, R233). -/

namespace Sys2Proof.Machine

section
variable {c : Instr} {s : State} {bs : List Block} {post : Dev → Prop} {f : Dev → Dev} {D : Dev}

/-- A command that leaves `D` and sends `p`, without a report. -/
theorem runs_injects {P : Packet → Prop} {p : Packet} (h : exec c s = onDev s f) (hD : f s.dev = D.inject p) (o : DevOnly bs s.dev D)
    (hrte : D.rte.heldInj = s.dev.rte.heldInj) (hr : Block.rte ∈ bs) (ho : Block.out ∈ bs) (hp : P p)
    (hpost : ∀ e, DevOnly [.rte, .out] D e → post e) : Runs c s bs (fun d => post d ∧ Injects s.dev d P) := by
  have hinj := (feeds_inject D p).1
  refine runs_onDev h ?_ ?_
  · rw [hD]; exact o.trans (hinj.mono (by simp [hr, ho]))
  · rw [hD]; exact ⟨hpost _ hinj, p, by rw [← hrte]; rfl, hp⟩

/-- As runs_injects, with a report. -/
theorem runs_injectsN {P : Packet → Prop} {p : Packet} (h : exec c s = onDevN s f) (hD : f s.dev = D.inject p) (o : DevOnly bs s.dev D)
    (hrte : D.rte.heldInj = s.dev.rte.heldInj) (hr : Block.rte ∈ bs) (hm : Block.mgmt ∈ bs) (ho : Block.out ∈ bs) (hp : P p)
    (hpost : post (Dev.report s.dev (D.inject p))) : Runs c s bs (fun d => post d ∧ Injects s.dev d P) := by
  have hinj := (feeds_inject D p).1
  refine runs_onDevN h ?_ hm ho ?_
  · rw [hD]; exact o.trans (hinj.mono (by simp [hr, ho]))
  · rw [hD]; exact ⟨hpost, p, by rw [report_rte, ← hrte]; rfl, hp⟩

end

theorem devOnly_takePkt (d : Dev) (k : Packet) : DevOnly [.rte] d (d.takePkt k) := devOnly_upRte _ _

/-- R232: the packet that answers a request. -/
theorem answer_answers (d : Dev) (k : Packet) (kind a0 a1 : Nat) (bs : Bytes) :
    ∃ p, d.answer k kind a0 a1 bs = d.inject p ∧ Answers k p kind a0 a1 bs :=
  ⟨{ d.packet kind k.src k.srcPart k.dstPart k.seq 0 a0 a1 bs with echo := k.cong }, rfl, rfl, rfl, rfl, rfl, rfl, rfl, rfl, rfl, rfl⟩

/-- R166: the packet that withdraws an operation. -/
theorem sendWithdraw_packet (d : Dev) (k : Packet) : ∃ p, d.sendWithdraw k = d.inject p ∧ p.kind = 0x0A ∧ p.dst = k.dst ∧
    p.dstPart = k.dstPart ∧ p.seq = k.seq ∧ p.arg0 = k.seq :=
  ⟨d.packet 0x0A k.dst k.dstPart k.srcPart k.seq 0 k.seq 0 [], rfl, rfl, rfl, rfl, rfl, rfl⟩

/-- R164: an increment leaves the sender tables. -/
theorem incrCounter_senders (d : Dev) (n a : Nat) : (d.incrCounter n a).syn.senders = d.syn.senders := by
  unfold Dev.incrCounter
  dsimp only
  have h : ∀ (e : Dev) m i, (e.raise m i).syn.senders = e.syn.senders := fun e m i =>
    congrArg Syn.senders (devOnly_raise e m i .syn (by simp))
  split
  · rw [h]; rfl
  · rfl

/-- R34, R117, R124: a granted increment of a bound peer-open counter of a partition in service. -/
theorem applyInc_granted {d : Dev} {k : Packet} (hb : (d.counter (k.arg0 % 2 ^ 14)).bound = true)
    (hp : (d.counter (k.arg0 % 2 ^ 14)).peerIncr = true) (hr : (d.part (d.counter (k.arg0 % 2 ^ 14)).part).ready = true)
    (hg : d.granted (d.counter (k.arg0 % 2 ^ 14)).part k.src k.srcPart = true) (ha : k.arg1 ≠ 0) :
    d.applyInc k = (d.incrCounter (k.arg0 % 2 ^ 14) k.arg1, stOk) := by
  unfold Dev.applyInc
  simp only [hb, hp, hr, hg, ha, Bool.not_true, decide_false, Bool.or_self, Bool.false_eq_true, if_false]

/-- R166: a remote increment that no kill has taken from its work order gets its outcome. -/
theorem settleInc_settles {d : Dev} {r : RInc} {f : Flight} (st : Nat) (hk : r.killed = false) (hf : d.flight r.queue r.index = some f) :
    DevOnly [.syn, .que] d (d.settleInc r st) ∧ (d.settleInc r st).syn = { d.syn with
        sent := d.syn.sent.filter (fun x => !(x.dev == r.dev && x.seq == r.seq)),
        undeliv := if st = 0 then d.syn.undeliv else satAdd 64 d.syn.undeliv 1 } ∧
      (d.settleInc r st).flight r.queue r.index = some (if r.sig = 0 then { f with out0 := st } else { f with out1 := st }) ∧
      ButWork r.queue r.index d (d.settleInc r st) := by
  have hup := fun q' i' => flight_upFlight (d.upSyn (fun y => { y with
    sent := y.sent.filter (fun x => !(x.dev == r.dev && x.seq == r.seq)),
    undeliv := if st = stOk then y.undeliv else satAdd 64 y.undeliv 1 })) r.queue r.index
    (fun f => if r.sig = 0 then { f with out0 := st } else { f with out1 := st }) (fun f => by split <;> exact ⟨rfl, rfl⟩) q' i'
  have hsame : ∀ g q' i', (d.upSyn g).flight q' i' = d.flight q' i' := fun _ _ _ => rfl
  unfold Dev.settleInc
  simp only [hk, Bool.false_eq_true, if_false]
  refine ⟨((devOnly_upSyn _ _).mono (by simp)).trans ((devOnly_upFlight _ _ _ _).mono (by simp)), rfl, ?_, fun q' i' hne => ?_⟩
  · rw [hup, if_pos ⟨rfl, rfl⟩, hsame, hf, Option.map_some]
  · rw [hup, if_neg hne, hsame]

/-- R157, R233: the last piece of a work order in order so far. -/
theorem pieceDone_last {d : Dev} {q i st n : Nat} {f : Flight} (hf : d.flight q i = some f) (hs : f.status = none) (hp : f.pieces = 1)
    (hfail : f.fail = 0) : DevOnly [.que] d (d.pieceDone q i st n) ∧
      ((d.pieceDone q i st n).flight q i).map (fun g => (g.pieces, g.status, g.result)) =
        some (0, some st, if st = stOk then f.result + n else f.result) ∧ ButWork q i d (d.pieceDone q i st n) := by
  have hup := fun q' i' => flight_upFlight d q i (fun f => { f with
    pieces := f.pieces - 1,
    result := if st = stOk then f.result + n else f.result,
    fail := if f.fail = 0 && st != stOk then st else f.fail }) (fun _ => ⟨rfl, rfl⟩) q' i'
  have hfst : (if (f.fail = 0 && st != stOk) = true then st else f.fail) = st := by
    by_cases h : st = stOk
    · simp [hfail, h, stOk]
    · simp [hfail, h]
  unfold Dev.pieceDone
  dsimp only
  generalize hD : d.upFlight q i _ = D at hup ⊢
  have hDo : DevOnly [.que] d D := by rw [← hD]; exact devOnly_upFlight _ _ _ _
  have hDf := hup q i
  rw [if_pos ⟨rfl, rfl⟩, hf, Option.map_some] at hDf
  simp only [hDf, hp, if_true, hfst]
  refine ⟨hDo.trans (devOnly_endWork _ _ _ _ _ _), ?_, fun q' i' hne => ?_⟩
  · rw [flight_end, if_pos ⟨rfl, rfl⟩, hDf]
    simp only [Option.map_some, hs, Option.isSome_none, Bool.false_eq_true, if_false, hp]
  · rw [flight_end, if_neg hne, hup, if_neg hne]

end Sys2Proof.Machine
end

section
/-! PROOFS. The obligation about remote increments and withdrawals. -/

open Sys2Proof Sys2Proof.Machine

/-- Settles O30: each packet is taken, changes the table that its sequence stands in, and is answered by one packet or settles one
operation. -/
theorem remoteIncrementsAndWithdrawals : Obligations.RemoteIncrementsAndWithdrawals := by
  refine ⟨?_, ?_, ?_, ?_, ?_, ?_⟩
  · intro s k htw hage
    dsimp only
    have htake := devOnly_takePkt s.dev k
    have hsyn : (s.dev.takePkt k).syn = s.dev.syn := rfl
    have hrte : (s.dev.takePkt k).rte.heldInj = s.dev.rte.heldInj := rfl
    refine ⟨fun hseen hwin hb hp hr hg ha => ?_, fun o hseen ho => ?_⟩
    · generalize hA : s.dev.takePkt k = A at htake hsyn hrte
      have happ : A.applyInc k = (A.incrCounter (k.arg0 % 2 ^ 14) k.arg1, stOk) := by
        rw [← hA]; exact applyInc_granted hb hp hr hg ha
      have hinc := devOnly_incrCounter A (k.arg0 % 2 ^ 14) k.arg1
      have hcnt := counter_incrCounter A (k.arg0 % 2 ^ 14) k.arg1
      have hsnd := incrCounter_senders A (k.arg0 % 2 ^ 14) k.arg1
      generalize hB : A.incrCounter (k.arg0 % 2 ^ 14) k.arg1 = B at happ hinc hcnt hsnd
      generalize hx : (tget none s.dev.syn.senders k.src).getD Sender.init = x at hseen hwin ⊢
      have hnow : B.now = s.dev.now := (hinc .now (by simp)).trans (htake .now (by simp))
      generalize hC : B.upSyn (fun y => { y with senders := tset none y.senders k.src (some (x.record k.seq 0 s.dev.now)) }) = C
      have hCo : DevOnly [.syn] B C := by rw [← hC]; exact devOnly_upSyn _ _
      obtain ⟨p, hans, hp'⟩ := answer_answers C k 0x09 k.arg0 0 []
      have hdo : doIncrPacket s.dev k = C.inject p := by
        have hold : (x.seen != [] && seqStale k.seq x.highest) = false := by
          rcases hwin with h | h
          · rw [h]; rfl
          · rw [h, Bool.and_false]
        unfold doIncrPacket
        simp only [show ¬50000 < k.age by omega, if_false]
        rw [twinned1_plain htw, hA, hsyn, hx]
        simp only [hseen, hold, Bool.false_eq_true, if_false, happ, hnow]
        rw [show stOk = 0 from rfl, hC, hans]
      refine (runs_injectsN (f := fun d => doIncrPacket d k) (c := .incrPacket k) rfl hdo
        (((htake.mono (by simp)).trans (hinc.mono (by simp))).trans (hCo.mono (by simp)))
        (by rw [show C.rte = B.rte from hCo .rte (by simp), show B.rte = A.rte from hinc .rte (by simp), hrte]) (by simp) (by simp) (by simp) hp'
        (post := fun d => (d.counter (k.arg0 % 2 ^ 14)).value = satAdd 64 (s.dev.counter (k.arg0 % 2 ^ 14)).value k.arg1 ∧
          But (k.arg0 % 2 ^ 14) s.dev.counter d.counter ∧
          d.syn.senders = tset none s.dev.syn.senders k.src (some (x.record k.seq 0 s.dev.now)))
        ⟨?_, fun j hj => ?_, ?_⟩).imp (fun d h => ⟨h.1.1, h.1.2.1, h.1.2.2, h.2⟩)
      · have hCc : ∀ j, C.counter j = B.counter j := fun j => by rw [← hC]; rfl
        rw [report_counter]
        refine (congrArg Counter.value ((hCc _).trans (hcnt _))).trans ?_
        rw [if_pos rfl, ← hA]
        rfl
      · have hCc : ∀ j, C.counter j = B.counter j := fun j => by rw [← hC]; rfl
        rw [report_counter]
        refine ((hCc j).trans (hcnt j)).trans ?_
        rw [if_neg hj, ← hA]
        rfl
      · have hCs : C.syn.senders = tset none s.dev.syn.senders k.src (some (x.record k.seq 0 s.dev.now)) := by
          rw [← hC, ← hsyn, ← hsnd]; rfl
        rw [report_syn]
        exact hCs
    · generalize hA : s.dev.takePkt k = A at htake hsyn hrte
      generalize hB : A.upSyn (fun y => { y with dup := satAdd 64 y.dup 1 }) = B
      have hBo : DevOnly [.syn] A B := by rw [← hB]; exact devOnly_upSyn _ _
      obtain ⟨p, hans, hp'⟩ := answer_answers B k 0x09 k.arg0 o []
      have hdo : doIncrPacket s.dev k = B.inject p := by
        unfold doIncrPacket
        simp only [show ¬50000 < k.age by omega, if_false]
        rw [twinned1_plain htw, hA, hsyn]
        simp only [hseen, ho, if_false, hB]
        exact hans
      refine runs_injectsN (f := fun d => doIncrPacket d k) (c := .incrPacket k) rfl hdo
        ((htake.mono (by simp)).trans (hBo.mono (by simp)))
        (by rw [show B.rte = A.rte from hBo .rte (by simp), hrte]) (by simp) (by simp) (by simp) hp'
        (post := fun d => d.syn = { s.dev.syn with dup := satAdd 64 s.dev.syn.dup 1 }) ?_
      have hBs : B.syn = { s.dev.syn with dup := satAdd 64 s.dev.syn.dup 1 } := by rw [← hB, ← hsyn]; rfl
      rw [report_syn]
      exact hBs
  · intro s k r f hk hf
    dsimp only
    have hsettled : ∀ (d : Dev) (st : Nat), DevOnly [.rte] s.dev d → DevOnly [.rte, .syn, .que, .mgmt, .out] s.dev (d.settleInc r st) ∧
        ((d.settleInc r st).syn = { s.dev.syn with
          sent := s.dev.syn.sent.filter (fun x => !(x.dev == r.dev && x.seq == r.seq)),
          undeliv := if st = 0 then s.dev.syn.undeliv else satAdd 64 s.dev.syn.undeliv 1 } ∧
        (d.settleInc r st).flight r.queue r.index = some (if r.sig = 0 then { f with out0 := st } else { f with out1 := st }) ∧
        ButWork r.queue r.index s.dev (d.settleInc r st)) := fun d st hd => by
      have hfl : ∀ q i, d.flight q i = s.dev.flight q i := flight_same (hd .que (by simp))
      obtain ⟨h1, h2, h3, h4⟩ := settleInc_settles (d := d) (r := r) (f := f) st hk (by rw [hfl, hf])
      refine ⟨(hd.mono (by simp)).trans (h1.mono (by simp)), ?_, h3, fun q i hne => by rw [h4 q i hne, hfl]⟩
      rw [h2, show d.syn = s.dev.syn from hd .syn (by simp)]
    refine ⟨fun hinc hc he => ?_, fun hinc => ?_⟩
    · obtain ⟨ho, h1, h2, h3⟩ := hsettled (s.dev.takePkt k) (k.arg1 % 256) (devOnly_takePkt _ _)
      have hdo : doIncrAck s.dev k = (s.dev.takePkt k).settleInc r (k.arg1 % 256) := by
        have hecho : (s.dev.takePkt k).noteEcho k = s.dev.takePkt k := by simp [Dev.noteEcho, hc, he]
        unfold doIncrAck
        simp only [hecho, show (s.dev.takePkt k).incOf k.src k.seq = some r from hinc]
      refine runs_onDevN (f := fun d => doIncrAck d k) rfl ?_ (by simp) (by simp) ?_
      · rw [hdo]; exact ho
      · rw [hdo]
        exact ⟨by rw [report_syn, h1], by rw [report_flight, h2], fun q i hne => by rw [report_flight, h3 q i hne]⟩
    · obtain ⟨ho, h1, h2, h3⟩ := hsettled (s.dev.takePkt k) (if k.arg1 = 0 then 0x09 else 0) (devOnly_takePkt _ _)
      have hdo : doWithdrawAns s.dev false k = (s.dev.takePkt k).settleInc r (if k.arg1 = 0 then 0x09 else 0) := by
        unfold doWithdrawAns
        simp only [Bool.false_eq_true, if_false, show (s.dev.takePkt k).incOf k.src k.arg0 = some r from hinc]
        rfl
      refine runs_onDevN (f := fun d => doWithdrawAns d false k) rfl ?_ (by simp) (by simp) ?_
      · rw [hdo]; exact ho
      · rw [hdo]
        exact ⟨by rw [report_syn, h1], by rw [report_flight, h2], fun q i hne => by rw [report_flight, h3 q i hne]⟩
  · intro s k r f hk hq hkind hreq hf hst hp hfail
    generalize hA : (s.dev.takePkt k).upRte (fun y => { y with reqs := y.reqs.filter (fun x => !(x.dev == r.dev && x.seq == r.seq)) }) = A
    have hAo : DevOnly [.rte] s.dev A := by rw [← hA]; exact (devOnly_takePkt _ _).trans (devOnly_upRte _ _)
    have hAf : ∀ q i, A.flight q i = s.dev.flight q i := flight_same (hAo .que (by simp))
    obtain ⟨ho, hres, hbut⟩ := pieceDone_last (d := A) (st := if k.arg1 = 0 then stUnreachable else stOk) (n := r.pkt.length)
      (by rw [hAf, hf]) hst hp hfail
    have hdo : doWithdrawAns s.dev true k = A.pieceDone r.queue r.index (if k.arg1 = 0 then stUnreachable else stOk) r.pkt.length := by
      unfold doWithdrawAns
      simp only [if_true, show (s.dev.takePkt k).reqOf k.src k.arg0 = some r from hreq]
      unfold Dev.settleReq
      simp only [hk, hq, hkind, Bool.false_eq_true, if_false, decide_false, Bool.false_and, hA]
    refine runs_onDevN (f := fun d => doWithdrawAns d true k) rfl ?_ (by simp) (by simp) ?_
    · rw [hdo]; exact (hAo.mono (by simp)).trans (ho.mono (by simp))
    · rw [hdo]
      refine ⟨?_, ?_, fun q i hne => by rw [report_flight, hbut q i hne, hAf]⟩
      · rw [report_rte, show (A.pieceDone _ _ _ _).rte = A.rte from ho .rte (by simp), ← hA]; rfl
      · rw [report_flight, hres]
        by_cases h : k.arg1 = 0
        · simp only [h, if_true, show stUnreachable ≠ stOk by decide, if_false]; rfl
        · simp only [h, if_false, if_true]; rfl
  · intro s dev seq r hinc
    dsimp only
    refine ⟨fun hw => ⟨?_, ?_⟩, fun hw => ?_⟩
    · have hdo : doIncrResend s.dev dev seq = s.dev.inject r.pkt := by
        unfold doIncrResend
        simp only [hinc, hw, Bool.false_eq_true, if_false]
      exact (runs_injects (f := fun d => doIncrResend d dev seq) (c := .incrResend dev seq) (P := fun p => p = r.pkt) (post := fun _ => True) rfl hdo (DevOnly.refl _ _) rfl
        (by simp) (by simp) rfl (fun _ _ => trivial)).imp (fun _ h => h.2)
    · generalize hA : s.dev.upSyn (fun y => { y with
        sent := updWhere (fun x => x.dev == dev && x.seq == seq) (fun x => { x with withdraw := true }) y.sent }) = A
      have hAo : DevOnly [.syn] s.dev A := by rw [← hA]; exact devOnly_upSyn _ _
      have hAi : A.incOf dev seq = some { r with withdraw := true } := by
        have := find_updWhere (fun x : RInc => x.dev == dev && x.seq == seq) (fun x => { x with withdraw := true }) (fun _ => rfl) s.dev.syn.sent
        rw [show s.dev.syn.sent.find? (fun x : RInc => x.dev == dev && x.seq == seq) = some r from hinc] at this
        rw [← hA]
        exact this
      obtain ⟨p, hwd, hpk⟩ := sendWithdraw_packet A r.pkt
      have hdo : doIncrWithdrawTimeout s.dev dev seq = A.inject p := by
        unfold doIncrWithdrawTimeout
        simp only [hinc, hw, Bool.false_eq_true, if_false, hA, hwd]
      exact runs_injects (f := fun d => doIncrWithdrawTimeout d dev seq) (c := .incrWithdrawTimeout dev seq) rfl hdo (hAo.mono (by simp))
        (by rw [← hA]; rfl) (by simp) (by simp) hpk (fun e he => by
          rw [← hAi]; simp only [Dev.incOf, show e.syn = A.syn from he .syn (by simp)])
    · obtain ⟨p, hwd, hpk⟩ := sendWithdraw_packet s.dev r.pkt
      have hdo : doWithdrawResend s.dev false dev seq = s.dev.inject p := by
        unfold doWithdrawResend
        simp only [Bool.false_eq_true, if_false, hinc, hw, if_true, hwd]
      exact (runs_injects (f := fun d => doWithdrawResend d false dev seq) (c := .withdrawResend false dev seq) (post := fun _ => True) rfl hdo
        (DevOnly.refl _ _) rfl (by simp) (by simp) hpk (fun _ _ => trivial)).imp (fun _ h => h.2)
  · intro s dev seq r hreq hw
    obtain ⟨p, hwd, h1, h2, -, h3⟩ := sendWithdraw_packet s.dev r.pkt
    have hdo : doWithdrawResend s.dev true dev seq = s.dev.inject p := by
      unfold doWithdrawResend
      simp only [if_true, hreq, hw, hwd]
    exact (runs_injects (f := fun d => doWithdrawResend d true dev seq) (c := .withdrawResend true dev seq) (post := fun _ => True) rfl hdo
      (DevOnly.refl _ _) rfl (by simp) (by simp) ⟨h1, h2, h3⟩ (fun _ _ => trivial)).imp (fun _ h => h.2)
  · intro s k req
    dsimp only
    have htake := devOnly_takePkt s.dev k
    have hnow : (s.dev.takePkt k).now = s.dev.now := rfl
    refine ⟨fun hseen => ?_, fun hseen => ?_⟩
    · cases req with
      | true =>
        simp only [if_true] at hseen ⊢
        have hsnd : (s.dev.takePkt k).rte.senders = s.dev.rte.senders := rfl
        generalize hx : (tget none s.dev.rte.senders k.src).getD Sender.init = x at hseen ⊢
        generalize hA : s.dev.takePkt k = A at htake hsnd hnow
        generalize hB : A.upRte (fun r => { r with senders := tset none r.senders k.src (some (x.record k.arg0 stWithdrawn s.dev.now)) }) = B
        have hBo : DevOnly [.rte] A B := by rw [← hB]; exact devOnly_upRte _ _
        obtain ⟨p, hans, hp⟩ := answer_answers B k 0x0B k.arg0 0 []
        have hdo : doWithdraw s.dev true k = B.inject p := by
          unfold doWithdraw
          simp only [hA, if_true, hsnd, hx, hseen, hnow, hB, hans]
        refine runs_injectsN (f := fun d => doWithdraw d true k) (c := .withdraw true k) (post := fun d => d.rte.senders =
          tset none s.dev.rte.senders k.src (some (x.record k.arg0 stWithdrawn s.dev.now)) ∧ d.syn = s.dev.syn) rfl hdo
          ((htake.trans hBo).mono (by simp)) (by rw [← hB, ← hA]; rfl) (by simp) (by simp) (by simp) hp ⟨?_, ?_⟩
        · have hBs : B.rte.senders = tset none s.dev.rte.senders k.src (some (x.record k.arg0 stWithdrawn s.dev.now)) := by
            rw [← hsnd, ← hB]; rfl
          rw [report_rte]
          exact hBs
        · have hBs : B.syn = s.dev.syn := (hBo .syn (by simp)).trans (htake .syn (by simp))
          rw [report_syn]
          exact hBs
      | false =>
        simp only [Bool.false_eq_true, if_false] at hseen ⊢
        have hsnd : (s.dev.takePkt k).syn.senders = s.dev.syn.senders := rfl
        generalize hx : (tget none s.dev.syn.senders k.src).getD Sender.init = x at hseen ⊢
        generalize hA : s.dev.takePkt k = A at htake hsnd hnow
        generalize hB : (A.upSyn (fun r => { r with senders := tset none r.senders k.src (some (x.record k.arg0 stWithdrawn s.dev.now)) })).upSyn
          (fun y => { y with withdrawn := satAdd 64 y.withdrawn 1 }) = B
        have hBo : DevOnly [.syn] A B := by rw [← hB]; exact (devOnly_upSyn _ _).trans (devOnly_upSyn _ _)
        obtain ⟨p, hans, hp⟩ := answer_answers B k 0x0B k.arg0 0 []
        have hdo : doWithdraw s.dev false k = B.inject p := by
          unfold doWithdraw
          simp only [hA, Bool.false_eq_true, if_false, hsnd, hx, hseen, hnow, hB, hans]
        refine runs_injectsN (f := fun d => doWithdraw d false k) (c := .withdraw false k) (post := fun d => d.syn = { s.dev.syn with
          senders := tset none s.dev.syn.senders k.src (some (x.record k.arg0 stWithdrawn s.dev.now)),
          withdrawn := satAdd 64 s.dev.syn.withdrawn 1 }) rfl hdo ((htake.mono (by simp)).trans (hBo.mono (by simp)))
          (by rw [← hB, ← hA]; rfl) (by simp) (by simp) (by simp) hp ?_
        have hBs : B.syn = { s.dev.syn with
            senders := tset none s.dev.syn.senders k.src (some (x.record k.arg0 stWithdrawn s.dev.now)),
            withdrawn := satAdd 64 s.dev.syn.withdrawn 1 } := by
          rw [← hB, ← show A.syn = s.dev.syn from htake .syn (by simp)]; rfl
        rw [report_syn]
        exact hBs
    · obtain ⟨p, hans, hp⟩ := answer_answers (s.dev.takePkt k) k 0x0B k.arg0 1 []
      have hdo : doWithdraw s.dev req k = (s.dev.takePkt k).inject p := by
        have hsnd : (if req = true then (s.dev.takePkt k).rte.senders else (s.dev.takePkt k).syn.senders) =
          if req = true then s.dev.rte.senders else s.dev.syn.senders := rfl
        unfold doWithdraw
        simp only [hsnd, hseen, show stOk = 0 from rfl, if_true, hans]
      refine runs_injectsN (f := fun d => doWithdraw d req k) (c := .withdraw req k) (post := fun d => d.rte.senders = s.dev.rte.senders) rfl hdo
        (htake.mono (by simp)) rfl (by simp) (by simp) (by simp) hp ?_
      rw [report_rte]
      rfl

end

section
/-! PROOFS. Work orders of the control queue: fences, resets asked for, tests (R159, R160, R344, R352). -/

namespace Sys2Proof.Machine

/-! ### Fencing several partitions (R159, R363) -/

theorem part_fence_ne (d : Dev) (p c x q : Nat) {j : Nat} (h : j ≠ p) : (d.fence p c x q).part j = d.part j := by
  have hraise : ∀ (e : Dev) n i, (e.raise n i).part j = e.part j := fun e n i => part_same (devOnly_raise e n i .mld (by simp)) j
  have htwin : ∀ (e : Dev) sub bs, (e.sendTwin p sub bs).part j = e.part j := fun _ _ _ => rfl
  unfold Dev.fence
  dsimp only
  split
  · split
    · rw [htwin, hraise, part_upPart, if_neg h]
    · rw [hraise, part_upPart, if_neg h]
  · rfl

theorem part_fence_at {d : Dev} {p : Nat} (c x q : Nat) (h : (d.part p).state = 2) : ((d.fence p c x q).part p).fencedAt = d.now := by
  have hraise : ∀ (e : Dev) n i, (e.raise n i).part p = e.part p := fun e n i => part_same (devOnly_raise e n i .mld (by simp)) p
  have htwin : ∀ (e : Dev) sub bs, (e.sendTwin p sub bs).part p = e.part p := fun _ _ _ => rfl
  unfold Dev.fence
  simp only [h, if_true]
  split
  · rw [htwin, hraise, part_upPart, if_pos rfl]
  · rw [hraise, part_upPart, if_pos rfl]

/-- Partitions READY outside an L3, each recovered in turn: each is fenced, no other changes. -/
theorem recovers_ready (c : Nat) (hc : c ≠ 6) (l : List Nat) (d : Dev) (hn : l.Nodup) (hr : d.rst.state ≠ 2) (hp : ∀ p ∈ l, (d.part p).state = 2) :
    ∃ E, d.each l (fun d p => d.recover p c 0xFFFFFFFF 0xFFFFFFFF) = E ∧ DevOnly [.mld, .evc, .rte, .out] d E ∧
      (∀ p ∈ l, (E.part p).state = 3 ∧ (E.part p).rcCause = c ∧ (E.part p).fencedAt = d.now) ∧ ∀ p, p ∉ l → E.part p = d.part p := by
  induction l generalizing d with
  | nil => exact ⟨d, rfl, DevOnly.refl _ _, fun p hp => absurd hp (List.not_mem_nil), fun _ _ => rfl⟩
  | cons a l ih =>
    obtain ⟨hna, hnl⟩ := List.nodup_cons.mp hn
    have hrec : d.recover a c 0xFFFFFFFF 0xFFFFFFFF = d.fence a c 0xFFFFFFFF 0xFFFFFFFF := if_neg hr
    have ho := (feeds_fence d a c 0xFFFFFFFF 0xFFFFFFFF).1
    have ha := hp a (List.mem_cons_self ..)
    obtain ⟨hs, hcause, -⟩ := part_fence (c := c) 0xFFFFFFFF 0xFFFFFFFF ha hc
    have hat := part_fence_at c 0xFFFFFFFF 0xFFFFFFFF ha
    have hne := fun j (h : j ≠ a) => part_fence_ne d a c 0xFFFFFFFF 0xFFFFFFFF h
    generalize d.fence a c 0xFFFFFFFF 0xFFFFFFFF = F at *
    obtain ⟨E, hE, h1, h2, h3⟩ := ih F hnl (by rw [show F.rst = d.rst from ho .rst (by simp)]; exact hr)
      (fun p hpl => by rw [hne p (fun h => hna (h ▸ hpl))]; exact hp p (List.mem_cons_of_mem _ hpl))
    refine ⟨E, by rw [← hE, ← hrec]; rfl, ho.trans h1, fun p hpl => ?_, fun p hpl => ?_⟩
    · rcases List.mem_cons.mp hpl with rfl | hpl
      · rw [h3 p hna]; exact ⟨hs, hcause, hat⟩
      · obtain ⟨g1, g2, g3⟩ := h2 p hpl
        exact ⟨g1, g2, g3.trans (ho .now (by simp))⟩
    · rw [h3 p (fun h => hpl (List.mem_cons_of_mem _ h)), hne p (fun h => hpl (h ▸ List.mem_cons_self ..))]

/-- R159: the check for FENCEs that are over ends none of work orders (ctlQ, i), when those wait for a partition out of service. -/
theorem fenceCheck_keeps (d : Dev) (i : Nat) (h : ∀ g ∈ d.que.flights, g.queue = ctlQ → g.index = i →
      (bitsOf 16 (woOpd g.wo 0 2)).all (fun p => (d.part p).state == 2 || (d.part p).state == 0) = false) :
    DevOnly [.que] d d.fenceCheck ∧ d.fenceCheck.flight ctlQ i = d.flight ctlQ i := by
  unfold Dev.fenceCheck
  have hl : ∀ g ∈ d.que.flights.filter (fun f =>
      f.queue == ctlQ && woOp f.wo == 0x32 && woOpd f.wo 2 1 == 0 && f.started && f.status.isNone), g.index = i →
      (bitsOf 16 (woOpd g.wo 0 2)).all (fun p => (d.part p).state == 2 || (d.part p).state == 0) = false := fun g hg hi => by
    obtain ⟨hm, hc⟩ := List.mem_filter.mp hg
    simp only [Bool.and_eq_true, beq_iff_eq] at hc
    exact h g hm hc.1.1.1.1 hi
  generalize d.que.flights.filter _ = l at hl
  suffices ∀ (e : Dev), (∀ p, e.part p = d.part p) → DevOnly [.que] e (e.each l (fun d f =>
      if (bitsOf 16 (woOpd f.wo 0 2)).all (fun p => (d.part p).state == 2 || (d.part p).state == 0) then d.endWork ctlQ f.index stOk 0 0 else d)) ∧
      (e.each l (fun d f => if (bitsOf 16 (woOpd f.wo 0 2)).all (fun p => (d.part p).state == 2 || (d.part p).state == 0) then
        d.endWork ctlQ f.index stOk 0 0 else d)).flight ctlQ i = e.flight ctlQ i from this d (fun _ => rfl)
  unfold Dev.each
  induction l with
  | nil => exact fun e _ => ⟨DevOnly.refl _ _, rfl⟩
  | cons g l ih =>
    intro e he
    rw [List.foldl_cons]
    simp only [he]
    split
    · rename_i hall
      have hgi : i ≠ g.index := fun hi => by rw [hl g (List.mem_cons_self ..) hi.symm] at hall; cases hall
      have hend := devOnly_endWork e ctlQ g.index stOk 0 0
      obtain ⟨h1, h2⟩ := ih (fun g' hg' => hl g' (List.mem_cons_of_mem _ hg')) (e.endWork ctlQ g.index stOk 0 0)
        (fun p => by rw [part_same (hend .mld (by simp)), he])
      exact ⟨hend.trans h1, by rw [h2, flight_end, if_neg (fun hc => hgi hc.2)]⟩
    · exact ih (fun g' hg' => hl g' (List.mem_cons_of_mem _ hg')) e he

/-! ### Resets that a FENCE asks for (R159, R344) -/

theorem devOnly_countSource (d : Dev) (i : Nat) : DevOnly [.rst] d (d.countSource i) := DevOnly.ite (devOnly_upRst _ _) (DevOnly.refl _ _)

theorem countSource_keeps (d : Dev) (i : Nat) : (d.countSource i).rst.ops = d.rst.ops ∧ (d.countSource i).rst.override = d.rst.override := by
  unfold Dev.countSource
  split
  · exact ⟨rfl, rfl⟩
  · exact ⟨rfl, rfl⟩

/-- R344, R345: a reset asked for while none is in progress and the loader is free. -/
theorem askReset_first {d : Dev} {o : ResetOp} (ho : d.rst.ops = []) (hm : d.mld.op = none) (hl : o.level ≠ 2) :
    ∃ E, d.askReset o = E ∧ DevOnly [.rst] d E ∧ E.rst.ops = [o] ∧ (o.level = 3 → E.rst.state = 2) := by
  have hup := devOnly_upRst d (fun r => { r with ops := [o] })
  have hask : d.askReset o = if o.level = 3 then (d.upRst (fun r => { r with ops := [o] })).upRst (fun r => { r with state := 2 })
      else d.upRst (fun r => { r with ops := [o] }) := by
    unfold Dev.askReset
    rw [ho, hm]
    simp only [hl, List.any_nil, Bool.false_eq_true, if_false, List.filter_nil, List.flatMap_nil, List.append_nil]
    have hups : d.upRst (fun r => { r with ops := r.ops.filter (fun x => !d.scopeIn x.level x.unit o.level o.unit) ++ [o] }) =
        d.upRst (fun r => { r with ops := [o] }) := by simp only [Dev.upRst, ho, List.filter_nil, List.nil_append]
    simp only [ResetOp.unit] at hups ⊢
    rw [hups]
  rw [hask]
  split
  · exact ⟨_, rfl, hup.trans (devOnly_upRst _ _), rfl, fun _ => rfl⟩
  · rename_i h
    exact ⟨_, rfl, hup, rfl, fun h' => absurd h' h⟩

/-! ### Taking a work order of the control queue -/

/-- As runs_unitDevN, of a command that names no unit. -/
theorem runs_devN {c : Instr} {s : State} {bs : List Block} {post : Dev → Prop} {F : Dev → Dev} {D : Dev} (h : exec c s = onDevN s F)
    (hD : F s.dev = D) (o : DevOnly bs s.dev D) (hm : Block.mgmt ∈ bs) (ho : Block.out ∈ bs) (p : post (Dev.report s.dev D)) :
    Runs c s bs post := by
  subst hD
  exact runs_onDevN h o hm ho p

theorem takeFence_some {d : Dev} {i a : Nat} {f : Flight} (h : d.take ctlQ i 0x32 = some f) (ha : woOpd f.wo 2 1 = a) :
    d.takeFence i a = some f := by
  unfold Dev.takeFence
  rw [h]
  simp only [ha, if_true]

theorem flight_started {d : Dev} {q i : Nat} {f : Flight} (h : d.flight q i = some f) :
    (d.startWork q i).flight q i = some { f with started := true } := by
  rw [flight_startWork, if_pos ⟨rfl, rfl⟩, h]
  rfl

theorem butWork_startWork (d : Dev) (q i : Nat) : ButWork q i d (d.startWork q i) := fun _ _ hne => by
  rw [flight_startWork, if_neg hne]

/-- R155: a work order that its unit took before ends. -/
theorem ended_taken {d e : Dev} {q i : Nat} {f : Flight} (hf : d.flight q i = some f) (hst : f.started = true) (hs : f.status = none)
    (he : Block.same .que d e) (st x y : Nat) : Ended q i f st x y d (e.endWork q i st x y) := by
  have hff : { f with started := true } = f := by cases f; cases hst; rfl
  refine ⟨?_, fun q' i' hne => ?_⟩
  · rw [flight_end, if_pos ⟨rfl, rfl⟩, flight_same he, hf]
    simp only [Option.map_some, hs, Option.isSome_none, Bool.false_eq_true, if_false, hst]
  · rw [flight_end, if_neg hne, flight_same he]

/-! ### FENCE action 0 (R159) -/

section
variable {d : Dev} {i : Nat} {f : Flight}

theorem doFenceRecover_busy (h : d.take ctlQ i 0x32 = some f) (ha : woOpd f.wo 2 1 = 0) {p : Nat} (hp : p ∈ bitsOf 16 (woOpd f.wo 0 2))
    (hs : (d.part p).state = 1 ∨ (d.part p).state = 5) : doFenceRecover d i = (d.startWork ctlQ i).endWork ctlQ i stBusy 0 0 := by
  have hany : (bitsOf 16 (woOpd f.wo 0 2)).any (fun p => ((d.startWork ctlQ i).part p).state == 1 || ((d.startWork ctlQ i).part p).state == 5) = true :=
    List.any_eq_true.mpr ⟨p, hp, by simpa [part_same (devOnly_startWork d ctlQ i .mld (by simp)) p] using hs⟩
  unfold doFenceRecover
  rw [takeFence_some h ha]
  dsimp only
  rw [if_pos hany]

/-- R159: a FENCE of READY partitions fences them and waits for their recovery. -/
theorem doFenceRecover_fences (h : d.take ctlQ i 0x32 = some f) (ha : woOpd f.wo 2 1 = 0) (hne : bitsOf 16 (woOpd f.wo 0 2) ≠ [])
    (hr : d.rst.state ≠ 2) (hp : ∀ p ∈ bitsOf 16 (woOpd f.wo 0 2), (d.part p).state = 2)
    (huniq : ∀ g ∈ d.que.flights, g.queue = ctlQ → g.index = i → g = f) :
    ∃ D, doFenceRecover d i = D ∧ DevOnly [.que, .mld, .evc, .rte, .out] d D ∧
      (∀ p ∈ bitsOf 16 (woOpd f.wo 0 2), (D.part p).state = 3 ∧ (D.part p).rcCause = 3 ∧ (D.part p).fencedAt = d.now) ∧
      (∀ p, p ∉ bitsOf 16 (woOpd f.wo 0 2) → D.part p = d.part p) ∧ D.flight ctlQ i = some { f with started := true } := by
  have hpart := fun p => part_same (devOnly_startWork d ctlQ i .mld (by simp)) p
  have hany : (bitsOf 16 (woOpd f.wo 0 2)).any (fun p => ((d.startWork ctlQ i).part p).state == 1 || ((d.startWork ctlQ i).part p).state == 5) = false := by
    refine List.any_eq_false.mpr fun p hm => ?_
    rw [hpart, hp p hm]
    decide
  obtain ⟨E, hE, ho, hin, hout⟩ := recovers_ready 3 (by decide) (bitsOf 16 (woOpd f.wo 0 2)) (d.startWork ctlQ i) (bitsOf_nodup _ _) hr
    (fun p hm => by rw [hpart]; exact hp p hm)
  have hflights : ∀ g ∈ E.que.flights, g.queue = ctlQ → g.index = i → g.wo = f.wo := fun g hg hq hi => by
    rw [show E.que = (d.startWork ctlQ i).que from ho .que (by simp)] at hg
    obtain ⟨x, hx, rfl⟩ := List.mem_map.mp hg
    split at hq
    · rename_i hc
      rw [if_pos hc] at hi ⊢
      exact (congrArg Flight.wo (huniq x hx hq hi) : x.wo = f.wo)
    · rename_i hc
      rw [if_neg hc] at hi ⊢
      exact congrArg Flight.wo (huniq x hx hq hi)
  obtain ⟨hcheck, hf⟩ := fenceCheck_keeps E i (fun g hg hq hi => by
    rw [hflights g hg hq hi]
    obtain ⟨p, hm⟩ := List.exists_mem_of_ne_nil _ hne
    refine List.all_eq_false.mpr ⟨p, hm, ?_⟩
    rw [(hin p hm).1]
    decide)
  have hpartE := fun p => part_same (hcheck .mld (by simp)) p
  refine ⟨E.fenceCheck, ?_, ((devOnly_startWork _ _ _).mono (by simp)).trans ((ho.mono (by simp)).trans (hcheck.mono (by simp))),
    fun p hm => by rw [hpartE]; exact hin p hm, fun p hm => by rw [hpartE, hout p hm, hpart], ?_⟩
  · unfold doFenceRecover
    rw [takeFence_some h ha]
    dsimp only
    rw [if_neg (by simp [hany]), hE]
  · rw [hf, flight_same (ho .que (by simp)), flight_started (take_some h).1]

/-! ### FENCE actions 1 to 3 (R159, R340, R343) -/

theorem inRun_same {e : Dev} (h : Block.same .cat d e) (l u : Nat) : e.inRun l u = d.inRun l u := by
  simp only [Dev.inRun, show e.cat = d.cat from h]

/-- The device that a FENCE of actions 1 to 3 decides on. -/
theorem fenceTaken_keeps (hf : d.flight ctlQ i = some f) :
    ∃ E, (d.startWork ctlQ i).countSource 0 = E ∧ DevOnly [.que, .rst] d E ∧ Block.same .que (d.startWork ctlQ i) E ∧ E.rst.ops = d.rst.ops ∧
      (∀ w : OwnerFuses, E.reach w 0 = d.reach w 0) ∧ E.flight ctlQ i = some { f with started := true } ∧ ButWork ctlQ i d E := by
  have hc := devOnly_countSource (d.startWork ctlQ i) 0
  obtain ⟨hops, hover⟩ := countSource_keeps (d.startWork ctlQ i) 0
  have hque := hc .que (by simp)
  refine ⟨_, rfl, ((devOnly_startWork _ _ _).mono (by simp)).trans (hc.mono (by simp)), hque, hops, fun w => ?_, ?_, fun q' i' hne => ?_⟩
  · simp only [Dev.reach, hover]
    rfl
  · rw [flight_same hque, flight_started hf]
  · rw [flight_same hque, butWork_startWork _ _ _ _ _ hne]

variable {w : OwnerFuses} {l u : Nat}

theorem fenceReset_busy (hf : d.flight ctlQ i = some f) (hs : f.status = none) (hl : l < 2) (hrun : d.inRun l u = true) :
    ∃ D, d.fenceReset w i l u = D ∧ DevOnly [.que, .rst] d D ∧ Ended ctlQ i f 0x0E 0 0 d D := by
  obtain ⟨E, hE, ho, hque, -⟩ := fenceTaken_keeps hf
  refine ⟨E.endWork ctlQ i stBusy 0 0, ?_, ho.trans ((devOnly_endWork _ _ _ _ _ _).mono (by simp)), ended_endWork hf hs hque _ _ _⟩
  unfold Dev.fenceReset
  rw [hE]
  simp only [inRun_same (ho .cat (by simp)), hl, hrun, decide_true, Bool.and_self, if_true]

theorem not_fenceBusy {E : Dev} (ho : Block.same .cat d E) (hrun : l < 2 → d.inRun l u = false) :
    (decide (l < 2) && E.inRun l u) = false := by
  rw [inRun_same ho]
  by_cases hl : l < 2
  · rw [hrun hl, Bool.and_false]
  · rw [decide_eq_false hl, Bool.false_and]

theorem fenceReset_denied (hf : d.flight ctlQ i = some f) (hs : f.status = none) (hrun : l < 2 → d.inRun l u = false) (hr : d.reach w 0 ≤ l) :
    ∃ D, d.fenceReset w i l u = D ∧ DevOnly [.que, .rst] d D ∧ Ended ctlQ i f 0x08 0 0 d D := by
  obtain ⟨E, hE, ho, hque, -, hreach, -⟩ := fenceTaken_keeps hf
  refine ⟨E.endWork ctlQ i stDenied 0 0, ?_, ho.trans ((devOnly_endWork _ _ _ _ _ _).mono (by simp)), ended_endWork hf hs hque _ _ _⟩
  unfold Dev.fenceReset
  rw [hE]
  simp only [not_fenceBusy (ho .cat (by simp)) hrun, Bool.false_eq_true, if_false, hreach, hr, if_true]

theorem fenceReset_asks (hf : d.flight ctlQ i = some f) (hrun : l < 2 → d.inRun l u = false) (hr : l < d.reach w 0)
    (hl : l ≠ 2) (hops : d.rst.ops = []) (hop : d.mld.op = none) :
    ∃ D, d.fenceReset w i l u = D ∧ DevOnly [.que, .rst] d D ∧ D.rst.ops = [(⟨l, 0, 0, u, false, false, [i], d.now⟩ : ResetOp)] ∧
      (l = 3 → D.rst.state = 2) ∧ D.flight ctlQ i = some { f with started := true } ∧ ButWork ctlQ i d D := by
  obtain ⟨E, hE, ho, -, heops, hreach, hfl, hbut⟩ := fenceTaken_keeps hf
  obtain ⟨D, hD, h1, h2, h3⟩ := askReset_first (d := E) (o := mkReset l 0 0 u false [i] E.now) (heops.trans hops)
    (by rw [show E.mld = d.mld from ho .mld (by simp)]; exact hop) hl
  have hque := h1 .que (by simp)
  refine ⟨D, ?_, ho.trans (h1.mono (by simp)), ?_, h3, by rw [flight_same hque, hfl], fun q' i' hne => by rw [flight_same hque, hbut _ _ hne]⟩
  · unfold Dev.fenceReset
    rw [hE]
    simp only [not_fenceBusy (ho .cat (by simp)) hrun, Bool.false_eq_true, if_false, hreach, Nat.not_le.mpr hr, hD]
  · rw [h2, show E.now = d.now from ho .now (by simp)]
    rfl

/-! ### TEST_BAR (R160, R352, R354) -/

theorem slotIdle_startWork (k : Nat) : (d.startWork ctlQ i).slotIdle k = d.slotIdle k := rfl

theorem doTestBarCell_starts (h : d.take ctlQ i 0x33 = some f) (hk : woOpd f.wo 0 1 = 0) (hidle : d.slotIdle (woOpd f.wo 2 2) = true)
    (hh : (d.slot (woOpd f.wo 2 2)).health ≠ 4) :
    doTestBarCell d i = (d.startWork ctlQ i).upSlot (woOpd f.wo 2 2) (fun s => { s with before := s.health, health := 4 }) := by
  have hh' : ((d.startWork ctlQ i).slot (woOpd f.wo 2 2)).health ≠ 4 := hh
  unfold doTestBarCell
  rw [h]
  simp only [hk, bne_self_eq_false, Bool.false_eq_true, if_false, slotIdle_startWork, hidle, Bool.true_and, bne_iff_ne, hh', ne_eq,
    not_false_eq_true, if_true, Dev.testStart]

theorem doTestBarCell_busy (h : d.take ctlQ i 0x33 = some f) (hk : woOpd f.wo 0 1 = 0)
    (hb : d.slotIdle (woOpd f.wo 2 2) = false ∨ (d.slot (woOpd f.wo 2 2)).health = 4) :
    doTestBarCell d i = (d.startWork ctlQ i).endWork ctlQ i stBusy 0 0 := by
  have hb' : (d.slotIdle (woOpd f.wo 2 2) && ((d.startWork ctlQ i).slot (woOpd f.wo 2 2)).health != 4) = false := by
    rcases hb with hb | hb
    · rw [hb, Bool.false_and]
    · rw [show ((d.startWork ctlQ i).slot (woOpd f.wo 2 2)).health = 4 from hb, bne_self_eq_false, Bool.and_false]
  unfold doTestBarCell
  rw [h]
  simp only [hk, bne_self_eq_false, Bool.false_eq_true, if_false, slotIdle_startWork, hb']

theorem testBarUnit_waits {kind : Nat} (h : d.take ctlQ i 0x33 = some f) (hk : woOpd f.wo 0 1 = kind) :
    d.testBarUnit i kind = d.startWork ctlQ i := by
  unfold Dev.testBarUnit
  rw [h]
  simp only [hk, if_true]

theorem doTestBarIdleTimeout_busy (hf : d.flight ctlQ i = some f) (hop : woOp f.wo = 0x33) (hst : f.started = true) (hs : f.status = none)
    (hk : woOpd f.wo 0 1 ≠ 0) : doTestBarIdleTimeout d i = d.endWork ctlQ i stBusy 0 0 := by
  unfold doTestBarIdleTimeout
  rw [hf]
  simp [hop, hst, hs, hk]

theorem roundDone_keeps (d : Dev) (k : Nat) : ∃ E, d.roundDone k = E ∧ DevOnly [.cat] d E ∧ E.cat.cleared = d.cat.cleared ∧
    (∀ j, E.slot j = d.slot j) := by
  unfold Dev.roundDone
  split
  · exact ⟨_, rfl, devOnly_upCat _ _, rfl, fun _ => rfl⟩
  · exact ⟨_, rfl, DevOnly.refl _ _, rfl, fun _ => rfl⟩

/-- R352, R354: the first test of a slot outside the catalogue since it was sound ends. -/
theorem testEnd_first {k : Nat} (ps : Bool) (hrec : d.catRec.failed.contains k = false) (hcl : d.cat.cleared.contains k = false)
    (hrow : (d.slot k).failRow = 0) :
    ∃ E, d.testEnd k ps = E ∧ DevOnly [.cat] d E ∧ But k d.slot E.slot ∧
      E.slot k = { d.slot k with
          carrel := [], carrelUe := [], tests := min 4095 ((d.slot k).tests + 1), lastPass := ps,
          health := if ps then 1 else (d.slot k).before, failRow := if ps then 0 else 1 } := by
  obtain ⟨R, hR, hro, hrc, hrs⟩ := roundDone_keeps (d.upSlot k (fun s => { s with
    carrel := [], carrelUe := [], tests := min 4095 (s.tests + 1), lastPass := ps })) k
  have hfail : R.catRec.failed.contains k = false := by
    rw [← hrec]
    simp only [Dev.catRec, show R.flash = d.flash from ((devOnly_upSlot d k _).trans hro) .flash (by simp)]
  have hcl' : R.cat.cleared.contains k = false := by rw [hrc]; exact hcl
  have ho := (devOnly_upSlot d k (fun s => { s with
    carrel := [], carrelUe := [], tests := min 4095 (s.tests + 1), lastPass := ps })).trans hro
  cases ps with
  | true =>
    refine ⟨R.upSlot k (fun s => { s with health := 1, failRow := 0 }), ?_, ho.trans (devOnly_upSlot _ _ _), fun j hj => ?_, ?_⟩
    · have hcl2 : (R.upSlot k (fun s => { s with health := 1, failRow := 0 })).cat.cleared.contains k = false := hcl'
      unfold Dev.testEnd
      simp only [hR, hfail, hcl2, Bool.false_and, Bool.false_eq_true, if_false, if_true]
    · rw [slot_upSlot, if_neg hj, hrs, slot_upSlot, if_neg hj]
    · rw [slot_upSlot, if_pos rfl, hrs, slot_upSlot, if_pos rfl]
      rfl
  | false =>
    have hrow' : (R.slot k).failRow = 0 := by rw [hrs, slot_upSlot, if_pos rfl]; exact hrow
    refine ⟨R.upSlot k (fun s => { s with health := s.before, failRow := 1 }), ?_, ho.trans (devOnly_upSlot _ _ _), fun j hj => ?_, ?_⟩
    · unfold Dev.testEnd
      simp only [hR, hfail, hrow', Bool.false_eq_true, if_false, Nat.zero_add, Nat.one_lt_ofNat, if_true]
    · rw [slot_upSlot, if_neg hj, hrs, slot_upSlot, if_neg hj]
    · rw [slot_upSlot, if_pos rfl, hrs, slot_upSlot, if_pos rfl]
      rfl

/-- R352: the result of a slot's test ends the TEST_BAR that asked for it. -/
theorem doTestBarComplete_slot {k : Nat} {ps : Bool} {E : Dev} (hf : d.testBarOf 0 k = some f) (hh : (d.slot k).health = 4)
    (hby : d.testedByReset k = false) (hE : d.testEnd k ps = E) (ho : DevOnly [.cat] d E) :
    doTestBarComplete d 0 k ps = E.endWork ctlQ f.index (if ps then stOk else stChecksum) 0 0 := by
  have hby' : E.testedByReset k = false := by
    rw [← hby]
    simp only [Dev.testedByReset, Dev.part, show E.rst = d.rst from ho .rst (by simp), show E.mld = d.mld from ho .mld (by simp)]
  unfold doTestBarComplete
  simp only [hf, hh, if_true, hE, hby', Bool.and_false, Bool.false_and, Bool.false_eq_true, if_false]

/-- R351: the bit of a Ladle that fails. -/
theorem ladleFail_set : ∀ (v : BitVec 4) (k : Fin 4), bit (BitVec.ofNat 4 (setFld v.toNat k.1 k.1 1)).toNat k.1 = true := by decide

/-- R351: a Ladle that fails is marked and raises its source. -/
theorem unitResult_ladle {k : Nat} (hk : k < 4) (hp : (d.src 0xD034).pending < 255) :
    ∃ E, d.unitResult false k false = E ∧ DevOnly [.cat, .evc] d E ∧ bit E.cat.ladleFail.toNat k = true ∧
      (E.src 0xD034).pending = (d.src 0xD034).pending + 1 ∧ (E.src 0xD034).info = k := by
  have hr := src_raise (d := d.upCat (fun c => { c with ladleFail := BitVec.ofNat 4 (setFld c.ladleFail.toNat k k 1) })) (n := 0xD034)
    (i := k) (Or.inl (by decide)) hp 0xD034
  refine ⟨(d.upCat (fun c => { c with ladleFail := BitVec.ofNat 4 (setFld c.ladleFail.toNat k k 1) })).raise 0xD034 k, rfl,
    ((devOnly_upCat _ _).mono (by simp)).trans ((devOnly_raise _ _ _).mono (by simp)), ?_, ?_, ?_⟩
  · rw [raise_cat]
    exact ladleFail_set d.cat.ladleFail ⟨k, hk⟩
  · rw [hr, if_pos rfl]; rfl
  · rw [hr, if_pos rfl]
    exact Nat.mod_eq_of_lt (by omega)

theorem doTestBarComplete_ladle {k : Nat} {E : Dev} (hf : d.testBarOf 1 k = some f) (hE : d.unitResult false k false = E) :
    doTestBarComplete d 1 k false = E.endWork ctlQ f.index stChecksum 0 0 := by
  unfold doTestBarComplete
  simp [hf, ← hE]

/-! ### ATTEST (R398) -/

theorem doAttest_queues (h : d.take ctlQ i 0x34 = some f) (hn : d.sec.repQ.length < 5) :
    doAttest d i = (d.startWork ctlQ i).upSec (fun s => { s with
        repQ := s.repQ ++ [{ kind := woOpd f.wo 0 1, nonce := slice f.wo 48 16, fence := some i, msg := none }] }) := by
  unfold doAttest
  rw [h]
  simp only [Nat.not_le.mpr hn, if_false]

end

end Sys2Proof.Machine
end

section
/-! PROOFS. The obligation about the work orders of the control queue. -/

open Sys2Proof Sys2Proof.Machine

/-- R159: what a FENCE of actions 1 to 3 does, whatever its level. -/
theorem fenceReset_runs {s : State} {cmd : Instr} {lv u i : Nat} {f : Flight} (h : s.dev.take ctlQ i 0x32 = some f) (hlv : lv ≠ 2)
    {F : Dev → Dev} (hex : exec cmd s = onDevN s F) (hF : F s.dev = s.dev.fenceReset s.owner i lv u) :
    (lv < 2 → s.dev.inRun lv u = true → Runs cmd s [.que, .rst, .mgmt, .out] (Ended ctlQ i f 0x0E 0 0 s.dev)) ∧
    ((lv < 2 → s.dev.inRun lv u = false) → s.dev.reach s.owner 0 ≤ lv → Runs cmd s [.que, .rst, .mgmt, .out] (Ended ctlQ i f 0x08 0 0 s.dev)) ∧
    ((lv < 2 → s.dev.inRun lv u = false) → lv < s.dev.reach s.owner 0 → s.dev.rst.ops = [] → s.dev.mld.op = none →
      Runs cmd s [.que, .rst, .mgmt, .out] (fun d =>
        d.rst.ops = [(⟨lv, 0, 0, u, false, false, [i], s.dev.now⟩ : ResetOp)] ∧ (lv = 3 → d.rst.state = 2) ∧
        d.flight ctlQ i = some { f with started := true } ∧ ButWork ctlQ i s.dev d)) := by
  obtain ⟨hf, -, -, hs⟩ := take_some h
  refine ⟨fun hl hrun => ?_, fun hrun hr => ?_, fun hrun hr hops hop => ?_⟩
  · obtain ⟨D, hD, ho, he⟩ := fenceReset_busy (w := s.owner) hf hs hl hrun
    exact runs_devN hex (hF.trans hD) (ho.mono (by simp)) (by simp) (by simp) (ended_report he)
  · obtain ⟨D, hD, ho, he⟩ := fenceReset_denied hf hs hrun hr
    exact runs_devN hex (hF.trans hD) (ho.mono (by simp)) (by simp) (by simp) (ended_report he)
  · obtain ⟨D, hD, ho, h1, h2, h3, h4⟩ := fenceReset_asks hf hrun hr hlv hops hop
    exact runs_devN hex (hF.trans hD) (ho.mono (by simp)) (by simp) (by simp)
      (by simpa only [ButWork, report_rst, report_flight] using ⟨h1, h2, h3, h4⟩)

/-- Settles O31. -/
theorem controlQueueWorkOrders : Obligations.ControlQueueWorkOrders := by
  refine ⟨fun s i f h ha => ⟨fun p hp hst => ?_, fun hne hr hp huniq => ?_⟩, fun s i f cmd a lv hmem h ha => ?_,
    fun s i f h => ⟨fun hk hidle hh => ?_, fun hk hb => ?_, fun kc hkc hk => ?_⟩,
    fun s i f hf hop hst hs => ⟨fun hk => ?_, fun k ps hk ht hh hrec hcl hby hrow => ?_, fun k hk ht hp => ?_⟩, fun s i f h hn => ?_⟩
  · obtain ⟨hf, -, -, hs⟩ := take_some h
    exact runs_devN (F := fun d => doFenceRecover d i) rfl (doFenceRecover_busy h ha hp hst)
      ((devOnly_startEnd _ _ _ _ _ _).mono (by simp)) (by simp) (by simp) (ended_report (ended_startWork hf hs (fun _ _ => rfl) _ _ _))
  · obtain ⟨D, hD, ho, h1, h2, h3⟩ := doFenceRecover_fences h ha hne hr hp huniq
    exact runs_devN (F := fun d => doFenceRecover d i) rfl hD (ho.mono (by simp)) (by simp) (by simp)
      (by simpa only [report_part, report_flight] using ⟨h1, h2, h3⟩)
  · simp only [List.mem_cons, Prod.mk.injEq, List.not_mem_nil, or_false] at hmem
    rcases hmem with ⟨rfl, rfl, rfl⟩ | ⟨rfl, rfl, rfl⟩ | ⟨rfl, rfl, rfl⟩
    · exact fenceReset_runs (F := fun d => doFenceResetCell s.owner d i) h (by decide) rfl
        (by simp only [doFenceResetCell, takeFence_some h ha]; rfl)
    · exact fenceReset_runs (F := fun d => doFenceResetCluster s.owner d i) h (by decide) rfl
        (by simp only [doFenceResetCluster, takeFence_some h ha]; rfl)
    · exact fenceReset_runs (F := fun d => doFenceResetShell s.owner d i) h (by decide) rfl
        (by simp only [doFenceResetShell, takeFence_some h ha]; rfl)
  · refine runs_devN (F := fun d => doTestBarCell d i) rfl (doTestBarCell_starts h hk hidle hh)
      (((devOnly_startWork _ _ _).mono (by simp)).trans ((devOnly_upSlot _ _ _).mono (by simp))) (by simp) (by simp) ?_
    simp only [ButWork, But, report_slot, report_flight]
    refine ⟨?_, fun j hj => ?_, flight_started (take_some h).1, butWork_startWork _ _ _⟩
    · rw [slot_upSlot, if_pos rfl]; rfl
    · rw [slot_upSlot, if_neg hj]; rfl
  · obtain ⟨hf, -, -, hs⟩ := take_some h
    exact runs_devN (F := fun d => doTestBarCell d i) rfl (doTestBarCell_busy h hk hb)
      ((devOnly_startEnd _ _ _ _ _ _).mono (by simp)) (by simp) (by simp) (ended_report (ended_startWork hf hs (fun _ _ => rfl) _ _ _))
  · have hkeep : ∀ {cmd : Instr} {F : Dev → Dev}, exec cmd s = onDevN s F → F s.dev = s.dev.startWork ctlQ i →
        Runs cmd s [.que, .mgmt, .out] (fun d => d.flight ctlQ i = some { f with started := true } ∧ ButWork ctlQ i s.dev d) :=
      fun hex hF => runs_devN hex hF ((devOnly_startWork _ _ _).mono (by simp)) (by simp) (by simp)
        (by simpa only [ButWork, report_flight] using ⟨flight_started (take_some h).1, butWork_startWork s.dev ctlQ i⟩)
    simp only [List.mem_cons, List.not_mem_nil, or_false] at hkc
    rcases hkc with rfl | rfl
    · exact hkeep (F := fun d => doTestBarLadle d i) rfl (testBarUnit_waits h hk)
    · exact hkeep (F := fun d => doTestBarNmu d i) rfl (testBarUnit_waits h hk)
  · exact runs_devN (F := fun d => doTestBarIdleTimeout d i) rfl (doTestBarIdleTimeout_busy hf hop hst hs hk)
      ((devOnly_endWork _ _ _ _ _ _).mono (by simp)) (by simp) (by simp) (ended_report (ended_taken hf hst hs rfl _ _ _))
  · obtain ⟨E, hE, ho, hbut, hslot⟩ := testEnd_first ps hrec hcl hrow
    have hend := devOnly_endWork E ctlQ i (if ps then stOk else stChecksum) 0 0
    have hdo := doTestBarComplete_slot ht hh hby hE ho
    rw [(flight_name hf).2] at hdo
    refine runs_unitDevN (f := fun d => doTestBarComplete d 0 k ps) rfl (by simp [hk]) hdo
      ((ho.mono (by simp)).trans (hend.mono (by simp))) (by simp) (by simp) ⟨?_, fun j hj => ?_, ended_report ?_⟩
    · rw [report_slot, slot_same (hend .cat (by simp)), hslot]
    · rw [report_slot, slot_same (hend .cat (by simp)), hbut j hj]
    · have hend := ended_taken hf hst hs (ho .que (by simp)) (if ps then stOk else stChecksum) 0 0
      exact hend
  · obtain ⟨E, hE, ho, hbit, hpend, hinfo⟩ := unitResult_ladle hk hp
    have hend := devOnly_endWork E ctlQ i stChecksum 0 0
    have hdo := doTestBarComplete_ladle ht hE
    rw [(flight_name hf).2] at hdo
    refine runs_unitDevN (f := fun d => doTestBarComplete d 1 k false) rfl (by simp [hk]) hdo
      ((ho.mono (by simp)).trans (hend.mono (by simp))) (by simp) (by simp) ⟨?_, ?_, ?_, ended_report (ended_taken hf hst hs (ho .que (by simp)) _ _ _)⟩
    · rw [report_cat]; exact hbit
    · rw [report_src, src_same (hend .evc (by simp)), hpend]
    · rw [report_src, src_same (hend .evc (by simp)), hinfo]
  · refine runs_devN (F := fun d => doAttest d i) rfl (doAttest_queues h hn)
      (((devOnly_startWork _ _ _).mono (by simp)).trans ((devOnly_upSec _ _).mono (by simp))) (by simp) (by simp) ?_
    simp only [ButWork, report_sec, report_flight]
    exact ⟨rfl, flight_started (take_some h).1, butWork_startWork _ _ _⟩

end

section
/-! PROOFS. The loader: pours, unpours and pattern swaps (R132–R142). -/

namespace Sys2Proof.Machine

/-! ### Sets of partitions as masks -/

theorem bit_mod (v : Nat) {n i : Nat} (h : i < n) : bit (v % 2 ^ n) i = bit v i := by
  have hbit : ∀ x, bit x i = x.testBit i := fun x => by
    rw [Nat.testBit_eq_decide_div_mod_eq]
    rfl
  rw [hbit, hbit, Nat.testBit_mod_two_pow, decide_eq_true h, Bool.true_and]

theorem bitsOf_ofNat (n v : Nat) : bitsOf n (BitVec.ofNat n v).toNat = bitsOf n v := by
  rw [BitVec.toNat_ofNat]
  exact List.filter_congr fun i hi => bit_mod v (List.mem_range.mp hi)

/-! ### What reports keep, what is put out -/

theorem out_notify {d : Dev} {o : Out} (c : Nat) (b : Bytes) (h : o ∈ d.out) : o ∈ (d.notify c b).out := by
  unfold Dev.notify
  dsimp only
  split
  · exact List.mem_cons_of_mem _ h
  · exact h

theorem out_report {old d : Dev} {o : Out} (h : o ∈ d.out) : o ∈ (Dev.report old d).out := by
  have heach : ∀ (l : List Nat) (e : Dev), o ∈ e.out → o ∈ (e.each l (fun d p => d.notifyPart p)).out := by
    intro l
    induction l with
    | nil => exact fun _ he => he
    | cons p l ih => exact fun e he => ih (e.notifyPart p) (out_notify _ _ he)
  unfold Dev.report
  dsimp only
  split
  · exact heach _ _ h
  · exact out_notify _ _ (heach _ _ h)

/-! ### Entries updated one after another -/

/-- Each element of a list updates the entry of its key, no two keys the same: each is updated once, no other changes. -/
theorem each_key {α β : Type} {g : Dev → Nat → β} {key : α → Nat} {f : Dev → α → Dev} {F : α → β → β}
    (hf : ∀ d x j, g (f d x) j = if j = key x then F x (g d j) else g d j) (l : List α) (hn : (l.map key).Nodup) (d : Dev) :
    (∀ x ∈ l, g (d.each l f) (key x) = F x (g d (key x))) ∧ ∀ j, j ∉ l.map key → g (d.each l f) j = g d j := by
  induction l generalizing d with
  | nil => exact ⟨fun x hx => absurd hx List.not_mem_nil, fun _ _ => rfl⟩
  | cons a l ih =>
    obtain ⟨hna, hnl⟩ := List.nodup_cons.mp hn
    obtain ⟨hin, hout⟩ := ih hnl (f d a)
    have hstep : d.each (a :: l) f = (f d a).each l f := rfl
    rw [hstep]
    refine ⟨fun x hx => ?_, fun j hj => ?_⟩
    · rcases List.mem_cons.mp hx with rfl | hx
      · rw [hout _ hna, hf, if_pos rfl]
      · rw [hin x hx, hf, if_neg (fun h : key x = key a => hna (h ▸ List.mem_map_of_mem hx))]
    · rw [List.map_cons] at hj
      rw [hout j (fun h => hj (List.mem_cons_of_mem _ h)), hf, if_neg (fun h : j = key a => hj (h ▸ List.mem_cons_self ..))]

/-! ### The loader's operation -/

theorem devOnly_mouldErr (d : Dev) (e : MErr) : DevOnly [.mld] d (d.mouldErr e) := devOnly_upMld _ _

theorem devOnly_opEnd (d : Dev) (o : LoadOp) (st det : Nat) : DevOnly [.mld, .que] d (d.opEnd o st det) :=
  ((devOnly_upMld _ _).mono (by simp)).trans ((devOnly_endWork _ _ _ _ _ _).mono (by simp))

@[simp] theorem part_opEnd (d : Dev) (o : LoadOp) (st det p : Nat) : (d.opEnd o st det).part p = d.part p := rfl
@[simp] theorem part_mouldErr (d : Dev) (e : MErr) (p : Nat) : (d.mouldErr e).part p = d.part p := rfl

/-- R132: the loader's operation ends with its work order, whatever it changed outside the work orders in flight. -/
theorem opEnd_ends {d e : Dev} {o : LoadOp} {f : Flight} (hf : d.flight o.queue o.index = some f) (hst : f.started = true)
    (hs : f.status = none) (he : ∀ q i, e.flight q i = d.flight q i) (st det : Nat) :
    Ended o.queue o.index f st det 0 d (e.opEnd o st det) := by
  have hff : { f with started := true } = f := by cases f; cases hst; rfl
  unfold Dev.opEnd
  refine ⟨?_, fun q' i' hne => ?_⟩
  · rw [flight_end, if_pos ⟨rfl, rfl⟩, show ∀ g, (e.upMld g).flight o.queue o.index = e.flight o.queue o.index from fun _ => rfl, he, hf]
    simp only [Option.map_some, hs, Option.isSome_none, Bool.false_eq_true, if_false, hst]
  · rw [flight_end, if_neg hne, show ∀ g, (e.upMld g).flight q' i' = e.flight q' i' from fun _ => rfl, he]

/-- R132: an operation that fails without effect ends its work order with the error's status and code, which are recorded. -/
theorem opFail_fails {d : Dev} {o : LoadOp} {f : Flight} (hf : d.flight o.queue o.index = some f) (hst : f.started = true)
    (hs : f.status = none) (e : MErr) :
    ∃ D, d.opFail o e = D ∧ DevOnly [.mld, .que] d D ∧ D.mld.errCode = e.code ∧ D.mld.errSect = e.sect ∧ D.mld.errIndex = e.idx ∧
      D.mld.errValid = true ∧ D.mld.op = none ∧ Ended o.queue o.index f (mStatus e.code) e.code 0 d D := by
  have hback := devOnly_each (bs := [.mld]) ((bitsOf 16 o.targets.toNat).zip o.before) (fun d x =>
    if (d.part x.1).state = 1 then d.upPart x.1 (fun y => { y with state := x.2 }) else d)
    (fun d x => DevOnly.ite (devOnly_upPart _ _ _) (DevOnly.refl _ _)) d
  refine ⟨_, rfl, (hback.mono (by simp)).trans (((devOnly_mouldErr _ _).mono (by simp)).trans (devOnly_opEnd _ _ _ _)), rfl, rfl, rfl, rfl, rfl,
    opEnd_ends hf hst hs (fun q i => ?_) _ _⟩
  rw [flight_same (devOnly_mouldErr _ e .que (by simp))]
  exact flight_same (hback .que (by simp)) q i

/-! ### POUR (R134, R135) -/

/-- R135: the targets that were quiet are closed. -/
theorem closeParts (ps : List Nat) (quiet : Bool) (d : Dev) :
    let E := d.each ps (fun d p => if quiet then d.upPart p (fun x => { x with state := 1 }) else d)
    DevOnly [.mld] d E ∧ E.mld.op = d.mld.op ∧ E.mld.phase = d.mld.phase ∧
      ∀ p, (E.part p).state = if quiet = true ∧ p ∈ ps then 1 else (d.part p).state := by
  cases quiet with
  | false =>
    have hnone : d.each ps (fun d _ => d) = d := each_inv id ps _ (fun _ _ => rfl) d
    simp only [Bool.false_eq_true, if_false, false_and, hnone, implies_true, and_true]
    exact DevOnly.refl _ _
  | true =>
    simp only [if_true, true_and]
    refine ⟨devOnly_each _ _ (fun _ _ => devOnly_upPart _ _ _) _, each_inv (fun d => d.mld.op) ps (fun d p => d.upPart p (fun x => { x with state := 1 })) (fun _ _ => rfl) d,
      each_inv (fun d => d.mld.phase) ps (fun d p => d.upPart p (fun x => { x with state := 1 })) (fun _ _ => rfl) d, fun p => ?_⟩
    induction ps generalizing d with
    | nil => simp [Dev.each]
    | cons a l ih =>
      refine (ih (d.upPart a (fun x => { x with state := 1 }))).trans ?_
      rw [part_upPart]
      by_cases hl : p ∈ l <;> by_cases ha : p = a <;> simp [hl, ha]

/-- R134, R135: POUR with the loader free. -/
theorem doPour_starts {d : Dev} {i : Nat} {f : Flight} (hop : d.mld.op = none) (hrec : d.upd.recovery = false)
    (h : d.take ctlQ i 0x30 = some f) :
    let ps := bitsOf 16 (woOpd f.wo 16 2)
    let quiet := ps.all (fun p => (d.part p).state == 0 || ((d.part p).state == 2 && d.quiescent p))
    ∃ D, doPour d i = D ∧ DevOnly [.que, .mld, .out] d D ∧
      (∃ o, D.mld.op = some o ∧ o.queue = ctlQ ∧ o.index = i ∧ o.mode = 0 ∧ o.length = woOpd f.wo 12 4 ∧ o.quiet = quiet ∧
        o.targets = BitVec.ofNat 16 (woOpd f.wo 16 2)) ∧ D.mld.phase = 2 ∧
      (∀ p, (D.part p).state = if quiet = true ∧ p ∈ ps then 1 else (d.part p).state) ∧
      Out.hostRead (woOpd f.wo 4 8) (woOpd f.wo 0 4) (woOpd f.wo 12 4) ∈ D.out ∧
      D.flight ctlQ i = some { f with started := true } ∧ ButWork ctlQ i d D := by
  intro ps quiet
  have hdo : ∃ o : LoadOp, (o.queue = ctlQ ∧ o.index = i ∧ o.mode = 0 ∧ o.length = woOpd f.wo 12 4 ∧ o.quiet = quiet ∧
      o.targets = BitVec.ofNat 16 (woOpd f.wo 16 2)) ∧
      doPour d i = (((d.startWork ctlQ i).upMld (fun m => { m with op := some o, phase := 2, targets := BitVec.ofNat 16 (woOpd f.wo 16 2) })).each ps
        (fun d p => if quiet then d.upPart p (fun x => { x with state := 1 }) else d)).emit
          (.hostRead (woOpd f.wo 4 8) (woOpd f.wo 0 4) (woOpd f.wo 12 4)) := by
    unfold doPour
    rw [hrec, h, hop]
    exact ⟨_, ⟨rfl, rfl, rfl, rfl, rfl, rfl⟩, rfl⟩
  obtain ⟨o, ho, hdo⟩ := hdo
  have hS := (devOnly_startWork d ctlQ i).mono (cs := [.que, .mld]) (by simp)
  have hM := (devOnly_upMld (d.startWork ctlQ i) (fun m => { m with op := some o, phase := 2, targets := BitVec.ofNat 16 (woOpd f.wo 16 2) })).mono
    (cs := [.que, .mld]) (by simp)
  have hE := closeParts ps quiet ((d.startWork ctlQ i).upMld (fun m => { m with op := some o, phase := 2, targets := BitVec.ofNat 16 (woOpd f.wo 16 2) }))
  have hpart : ∀ p, ((d.startWork ctlQ i).upMld (fun m => { m with op := some o, phase := 2, targets := BitVec.ofNat 16 (woOpd f.wo 16 2) })).part p =
    d.part p := fun _ => rfl
  have hfl := flight_started (take_some h).1
  have hbut := butWork_startWork d ctlQ i
  generalize hA : (d.startWork ctlQ i).upMld (fun m => { m with op := some o, phase := 2, targets := BitVec.ofNat 16 (woOpd f.wo 16 2) }) = A at *
  obtain ⟨hEo, hEop, hEph, hEst⟩ := hE
  have hque := fun q i => flight_same (hEo .que (by simp)) q i
  have hqA : ∀ q j, A.flight q j = (d.startWork ctlQ i).flight q j := fun q j => by rw [← hA]; rfl
  refine ⟨_, hdo, ((hS.trans hM).mono (by simp)).trans ((hEo.mono (by simp)).trans ((devOnly_emit _ _).mono (by simp))),
    ⟨o, hEop.trans (by rw [← hA]; rfl), ho⟩, hEph.trans (by rw [← hA]; rfl), fun p => ?_, List.mem_cons_self .., ?_, fun q' i' hne => ?_⟩
  · exact (hEst p).trans (by rw [hpart])
  · exact (hque _ _).trans ((hqA _ _).trans hfl)
  · exact (hque _ _).trans ((hqA _ _).trans (hbut q' i' hne))

/-! ### UNPOUR (R140) -/

theorem part_fence_unpour {d : Dev} {p : Nat} (x q : Nat) (h : (d.part p).state = 2) :
    ((d.fence p 6 x q).part p).state = 3 ∧ ((d.fence p 6 x q).part p).unpour = true := by
  have hraise : ∀ (e : Dev) n i, (e.raise n i).part p = e.part p := fun e n i => part_same (devOnly_raise e n i .mld (by simp)) p
  have htwin : ∀ (e : Dev) sub bs, (e.sendTwin p sub bs).part p = e.part p := fun _ _ _ => rfl
  unfold Dev.fence
  simp only [h, if_true]
  split
  · rw [htwin, hraise, part_upPart, if_pos rfl]; exact ⟨rfl, rfl⟩
  · rw [hraise, part_upPart, if_pos rfl]; exact ⟨rfl, rfl⟩

theorem fence_mld (d : Dev) (p c x q : Nat) : (d.fence p c x q).mld.op = d.mld.op ∧ (d.fence p c x q).mld.phase = d.mld.phase := by
  have htwin : ∀ (e : Dev) sub bs, (e.sendTwin p sub bs).mld = e.mld := fun _ _ _ => rfl
  unfold Dev.fence
  dsimp only
  split
  · split
    · rw [htwin, raise_mld]; exact ⟨rfl, rfl⟩
    · rw [raise_mld]; exact ⟨rfl, rfl⟩
  · exact ⟨rfl, rfl⟩

/-- R140: partitions READY, each fenced in turn as unpoured. -/
theorem fences_unpour (l : List Nat) (d : Dev) (hn : l.Nodup) (hp : ∀ p ∈ l, (d.part p).state = 2) :
    ∃ E, d.each l (fun d p => d.fence p 6 0xFFFFFFFF 0xFFFFFFFF) = E ∧ DevOnly [.mld, .evc, .rte, .out] d E ∧
      E.mld.op = d.mld.op ∧ E.mld.phase = d.mld.phase ∧
      (∀ p ∈ l, (E.part p).state = 3 ∧ (E.part p).unpour = true) ∧ ∀ p, p ∉ l → E.part p = d.part p := by
  induction l generalizing d with
  | nil => exact ⟨d, rfl, DevOnly.refl _ _, rfl, rfl, fun p hp => absurd hp (List.not_mem_nil), fun _ _ => rfl⟩
  | cons a l ih =>
    obtain ⟨hna, hnl⟩ := List.nodup_cons.mp hn
    have ho := (feeds_fence d a 6 0xFFFFFFFF 0xFFFFFFFF).1
    have hs := part_fence_unpour 0xFFFFFFFF 0xFFFFFFFF (hp a (List.mem_cons_self ..))
    have hne := fun j (h : j ≠ a) => part_fence_ne d a 6 0xFFFFFFFF 0xFFFFFFFF h
    have hm := fence_mld d a 6 0xFFFFFFFF 0xFFFFFFFF
    have hstep : d.each (a :: l) (fun d p => d.fence p 6 0xFFFFFFFF 0xFFFFFFFF) =
      (d.fence a 6 0xFFFFFFFF 0xFFFFFFFF).each l (fun d p => d.fence p 6 0xFFFFFFFF 0xFFFFFFFF) := rfl
    generalize d.fence a 6 0xFFFFFFFF 0xFFFFFFFF = F at *
    obtain ⟨E, hE, h1, hop, hph, h2, h3⟩ := ih F hnl (fun p hpl => by
      rw [hne p (fun h => hna (h ▸ hpl))]; exact hp p (List.mem_cons_of_mem _ hpl))
    refine ⟨E, hstep.trans hE, ho.trans h1, hop.trans hm.1, hph.trans hm.2, fun p hpl => ?_, fun p hpl => ?_⟩
    · rcases List.mem_cons.mp hpl with rfl | hpl
      · rw [h3 p hna]; exact hs
      · exact h2 p hpl
    · rw [h3 p (fun h => hpl (List.mem_cons_of_mem _ h)), hne p (fun h => hpl (h ▸ List.mem_cons_self ..))]

/-- R140: UNPOUR of READY partitions, with the loader free. -/
theorem doUnpour_fences {d : Dev} {i : Nat} {f : Flight} (hop : d.mld.op = none) (h : d.take ctlQ i 0x31 = some f)
    (hne : bitsOf 16 (woOpd f.wo 0 2) ≠ []) (hp : ∀ p ∈ bitsOf 16 (woOpd f.wo 0 2), (d.part p).state = 2) :
    ∃ D, doUnpour d i = D ∧ DevOnly [.que, .mld, .evc, .rte, .out] d D ∧
      (∃ o, D.mld.op = some o ∧ o.mode = 2 ∧ o.index = i ∧ o.targets = BitVec.ofNat 16 (woOpd f.wo 0 2)) ∧ D.mld.phase = 6 ∧
      (∀ p ∈ bitsOf 16 (woOpd f.wo 0 2), (D.part p).state = 3 ∧ (D.part p).unpour = true) ∧
      (∀ p, p ∉ bitsOf 16 (woOpd f.wo 0 2) → D.part p = d.part p) ∧
      D.flight ctlQ i = some { f with started := true } ∧ ButWork ctlQ i d D := by
  have hdo : ∃ o : LoadOp, (o.mode = 2 ∧ o.index = i ∧ o.targets = BitVec.ofNat 16 (woOpd f.wo 0 2)) ∧
      doUnpour d i = (((d.startWork ctlQ i).upMld (fun m => { m with op := some o, phase := 6, targets := BitVec.ofNat 16 (woOpd f.wo 0 2) })).each
        (bitsOf 16 (woOpd f.wo 0 2)) (fun d p => d.fence p 6 0xFFFFFFFF 0xFFFFFFFF)).unpourCheck := by
    unfold doUnpour
    rw [h, hop]
    exact ⟨_, ⟨rfl, rfl, rfl⟩, rfl⟩
  obtain ⟨o, ⟨hmode, hix, htg⟩, hdo⟩ := hdo
  have hS := (devOnly_startWork d ctlQ i).mono (cs := [.que, .mld]) (by simp)
  have hM := (devOnly_upMld (d.startWork ctlQ i) (fun m => { m with op := some o, phase := 6, targets := BitVec.ofNat 16 (woOpd f.wo 0 2) })).mono
    (cs := [.que, .mld]) (by simp)
  have hpart : ∀ p, ((d.startWork ctlQ i).upMld (fun m => { m with op := some o, phase := 6, targets := BitVec.ofNat 16 (woOpd f.wo 0 2) })).part p =
    d.part p := fun _ => rfl
  have hfl : ∀ q j, ((d.startWork ctlQ i).upMld (fun m => { m with op := some o, phase := 6, targets := BitVec.ofNat 16 (woOpd f.wo 0 2) })).flight q j =
    (d.startWork ctlQ i).flight q j := fun _ _ => rfl
  obtain ⟨E, hE, ho, hEop, hEph, hin, hout⟩ := fences_unpour (bitsOf 16 (woOpd f.wo 0 2))
    ((d.startWork ctlQ i).upMld (fun m => { m with op := some o, phase := 6, targets := BitVec.ofNat 16 (woOpd f.wo 0 2) })) (bitsOf_nodup _ _)
    (fun p hm => by rw [hpart]; exact hp p hm)
  have hcheck : E.unpourCheck = E := by
    have hall : (bitsOf 16 o.targets.toNat).all (fun p => (E.part p).state == 0) = false := by
      obtain ⟨p, hm⟩ := List.exists_mem_of_ne_nil _ hne
      refine List.all_eq_false.mpr ⟨p, by rw [htg, bitsOf_ofNat]; exact hm, ?_⟩
      rw [(hin p hm).1]
      decide
    unfold Dev.unpourCheck
    rw [hEop]
    simp only [Dev.upMld, hall, Bool.and_false, Bool.false_eq_true, if_false]
  rw [hE, hcheck] at hdo
  refine ⟨E, hdo, ((hS.trans hM).mono (by simp)).trans (ho.mono (by simp)), ⟨o, hEop, hmode, hix, htg⟩, hEph, hin,
    fun p hm => (hout p hm).trans (hpart p), ?_, fun q' i' hne' => ?_⟩
  · rw [flight_same (ho .que (by simp)), hfl, flight_started (take_some h).1]
  · rw [flight_same (ho .que (by simp)), hfl, butWork_startWork _ _ _ _ _ hne']

/-! ### Pattern swaps (R141, R142) -/

/-- The operation of a pattern swap whose image has not been checked. -/
def swapOp (d : Dev) (q i : Nat) (f : Flight) : LoadOp :=
  { queue := q, index := i, targets := 0, mode := 1, length := woOpd f.wo 12 4, image := [], digest := 0,
    cells := [], before := [], clusters := 0, changed := false, quiet := true, kept := [], keptSh := [], startAt := d.now }

/-- The device once the image of a swap has been asked for. -/
def swapAsked (d : Dev) (q i : Nat) (f : Flight) : Dev :=
  (d.startWork q i).emit (.hostRead (woOpd f.wo 4 8) (woOpd f.wo 0 4) (woOpd f.wo 12 4))

section
variable {d : Dev} {q i : Nat} {f : Flight} {w : OwnerFuses}

theorem swapAsked_keeps (h : d.take q i 0x30 = some f) : DevOnly [.que, .out] d (swapAsked d q i f) ∧
    (swapAsked d q i f).flight q i = some { f with started := true } ∧ ButWork q i d (swapAsked d q i f) :=
  ⟨((devOnly_startWork _ _ _).mono (by simp)).trans ((devOnly_emit _ _).mono (by simp)), flight_started (take_some h).1, butWork_startWork d q i⟩

/-- R141: the checks of a swap look at nothing that its start changes. -/
theorem chkSwap_asked (m : Bytes) : chkSwap { d := swapAsked d q i f, o := w, swap := true, part := f.part, mask := woOpd f.wo 16 2, length := woOpd f.wo 12 4 } m =
    chkSwap { d := d, o := w, swap := true, part := f.part, mask := woOpd f.wo 16 2, length := woOpd f.wo 12 4 } m := rfl

theorem doPatternSwap_unread (hop : d.mld.op = none) (hq : q ≠ ctlQ) (h : d.take q i 0x30 = some f) :
    doPatternSwap d w q i none = (swapAsked d q i f).opFail (swapOp d q i f) ⟨0x0E02, 0, 0⟩ := by
  unfold doPatternSwap
  rw [h, hop]
  simp only [hq, if_false]
  rfl

theorem doPatternSwap_fails {m : Bytes} {e : MErr} (hop : d.mld.op = none) (hq : q ≠ ctlQ) (h : d.take q i 0x30 = some f)
    (he : mWorst (chkSwap { d := d, o := w, swap := true, part := f.part, mask := woOpd f.wo 16 2, length := woOpd f.wo 12 4 } m) = some e) :
    doPatternSwap d w q i (some m) = (swapAsked d q i f).opFail (swapOp d q i f) e := by
  rw [← chkSwap_asked (q := q) (i := i)] at he
  unfold swapAsked at he
  unfold doPatternSwap
  rw [h, hop]
  simp only [hq, if_false, he]
  rfl

theorem doPatternSwap_keeps {m : Bytes} (hop : d.mld.op = none) (hq : q ≠ ctlQ) (h : d.take q i 0x30 = some f)
    (he : mWorst (chkSwap { d := d, o := w, swap := true, part := f.part, mask := woOpd f.wo 16 2, length := woOpd f.wo 12 4 } m) = none) :
    ∃ o : LoadOp, (o.mode = 1 ∧ o.queue = q ∧ o.index = i ∧ o.image = m ∧ o.digest = mDigest m ∧
      o.cells = cellsOf ((mPats m).foldl (fun a t => Nat.lor a t.cells) 0)) ∧
      doPatternSwap d w q i (some m) = (swapAsked d q i f).upMld (fun x => { x with op := some o, phase := 7, targets := BitVec.ofNat 16 (2 ^ f.part) }) := by
  rw [← chkSwap_asked (q := q) (i := i)] at he
  unfold swapAsked at he
  unfold doPatternSwap
  rw [h, hop]
  simp only [hq, if_false, he]
  generalize cellsOf ((mPats m).foldl (fun a t => Nat.lor a t.cells) 0) = cells
  exact ⟨{ swapOp d q i f with targets := BitVec.ofNat 16 (2 ^ f.part), image := m, digest := mDigest m, cells := cells },
    ⟨rfl, rfl, rfl, rfl, rfl, rfl⟩, rfl⟩

end

end Sys2Proof.Machine
end

section
/-! PROOFS. Passes and completion of a pour, the release of a partition's resources (R127, R132, R136, R139, R140, R355). -/

namespace Sys2Proof.Machine

/-! ### What the catalogue and the release of a partition touch -/

theorem devOnly_roundDone (d : Dev) (k : Nat) : DevOnly [.cat] d (d.roundDone k) := DevOnly.ite (devOnly_upCat _ _) (DevOnly.refl _ _)

theorem devOnly_testAbandon (d : Dev) (k : Nat) : DevOnly [.cat] d (d.testAbandon k) :=
  DevOnly.ite ((devOnly_upSlot _ _ _).trans (devOnly_roundDone _ _)) (DevOnly.refl _ _)

theorem devOnly_putRec (d : Dev) (r : CatRec) : DevOnly [.flash] d (d.putRec r) := devOnly_upFlash _ _

theorem devOnly_mapCell (d : Dev) (c j : Nat) : DevOnly [.cat, .evc, .flash] d (d.mapCell c j) := by
  have hput : ∀ (e : Dev) (s : Nat), DevOnly [.cat, .evc, .flash] e (e.upCat (fun x => { x with map := tset j x.map (c * 16 + j) s })) :=
    fun e s => (devOnly_upCat _ _).mono (by simp)
  have hspare : ∀ (e : Dev) (b : Bool), DevOnly [.cat, .evc, .flash] e (
      if b then (((e.upCat (fun x => { x with spareFor := tset 16 x.spareFor c j })).upCat (fun x => { x with
        map := tset j x.map (c * 16 + j) 16 })).upSlot (c * 32 + 16) (fun s => { s with carrel := [], carrelUe := [] })).raise 0xD032
          (slotInfo (c * 32 + 16) (c * 16 + j))
      else (e.upCat (fun x => { x with spareFor := tset 16 x.spareFor c j })).upCat (fun x => { x with map := tset j x.map (c * 16 + j) 16 })) :=
    fun e b => by
      have h := ((devOnly_upCat e (fun x => { x with spareFor := tset 16 x.spareFor c j })).mono (by simp)).trans (hput _ 16)
      split
      · exact h.trans (((devOnly_upSlot _ _ _).mono (by simp)).trans ((devOnly_raise _ _ _).mono (by simp)))
      · exact h
  unfold Dev.mapCell
  dsimp only
  split
  · exact hput _ _
  · split
    · exact hspare _ _
    · split
      · exact (hspare _ _).trans ((devOnly_putRec _ _).mono (by simp))
      · exact hput _ _

theorem devOnly_returnSlots (d : Dev) (c : Nat) : DevOnly [.cat, .flash] d (d.returnSlots c) :=
  DevOnly.ite (((devOnly_putRec _ _).mono (by simp)).trans ((devOnly_upCat _ _).mono (by simp))) (DevOnly.refl _ _)

theorem devOnly_finalise (d : Dev) (c : Nat) : DevOnly [.cat, .evc, .flash] d (d.finalise c) := by
  have hmap : ∀ e : Dev, DevOnly [.cat, .evc, .flash] e (e.each (List.range 16) (fun d j => d.mapCell c j)) :=
    fun e => devOnly_each _ _ (fun _ _ => devOnly_mapCell _ _ _) e
  have hfail : ∀ e : Dev, DevOnly [.cat] e (e.each (e.catRec.failed.filter (fun k => k / 32 == c)) (fun d k => d.upSlot k (fun s => { s with
    health := 3 }))) := fun e => devOnly_each _ _ (fun _ _ => devOnly_upSlot _ _ _) e
  have h := ((hfail d).mono (by simp)).trans (((devOnly_returnSlots _ c).mono (by simp)).trans (((devOnly_upCat _ (fun x => { x with
    spareFor := tset 16 x.spareFor c 16, pendingC := x.pendingC.filter (· != c) })).mono (by simp)).trans (hmap _)))
  unfold Dev.finalise
  dsimp only
  split
  · exact h.trans ((devOnly_raise _ _ _).mono (by simp))
  · exact h

theorem devOnly_clusterFree (d : Dev) (c : Nat) : DevOnly [.cat, .evc, .flash] d (d.clusterFree c) :=
  DevOnly.ite (devOnly_finalise _ _) (DevOnly.refl _ _)

theorem devOnly_accAbortPart (d : Dev) (p : Nat) : DevOnly [.ldl, .free, .mem, .evc] d (d.accAbortPart p) :=
  ((devOnly_upMem _ _).mono (by simp)).trans (devOnly_each _ _ (fun _ _ => devOnly_accAbort _ _) _)

theorem devOnly_zeroStack (d : Dev) (s : Nat) : DevOnly [.mem] d (d.zeroStack s) := devOnly_upMem _ _
theorem devOnly_zeroShelf (d : Dev) (g : Nat) : DevOnly [.mem] d (d.zeroShelf g) := devOnly_upMem _ _

theorem devOnly_release (d : Dev) (p : Nat) (kill : Bool) (ks : BitVec 16) (kp : List Nat) :
    DevOnly [.free, .cat, .mld, .que, .syn, .evc, .mem, .rte, .ldl, .twin, .flash] d (d.release p kill ks kp) := by
  unfold Dev.release
  dsimp only
  refine DevOnly.trans ?_ (devOnly_each _ _ (fun _ _ => (devOnly_clusterFree _ _).mono (by simp)) _)
  refine DevOnly.trans ?_ ((devOnly_upPart _ _ _).mono (by simp))
  refine DevOnly.trans ?_ (devOnly_each _ _ (fun _ _ => (devOnly_zeroShelf _ _).mono (by simp)) _)
  refine DevOnly.trans ?_ (devOnly_each _ _ (fun _ _ => (devOnly_zeroStack _ _).mono (by simp)) _)
  refine DevOnly.trans ?_ (devOnly_each _ _ (fun _ _ => (devOnly_upSlot _ _ _).mono (by simp)) _)
  refine DevOnly.trans ?_ ((devOnly_upTwin _ _).mono (by simp))
  refine DevOnly.trans ?_ ((devOnly_upRte _ _).mono (by simp))
  refine DevOnly.trans ?_ ((devOnly_upCat _ _).mono (by simp))
  refine DevOnly.trans ?_ ((devOnly_upLdl _ _).mono (by simp))
  refine DevOnly.trans ?_ ((devOnly_upSyn _ _).mono (by simp))
  refine DevOnly.trans ?_ ((devOnly_upQue _ _).mono (by simp))
  refine DevOnly.trans ?_ ((devOnly_upEvc _ _).mono (by simp))
  exact ((devOnly_accAbortPart _ _).mono (by simp)).trans ((devOnly_clearSrcs _ _).mono (by simp))

/-! ### The first pass (R132) -/

/-- R132: an image without error is kept with its digest. -/
theorem doPourFirstPass_keeps {d : Dev} {w : OwnerFuses} {o : LoadOp} {m : Bytes} (hop : d.mld.op = some o) (hm : o.mode = 0) (hph : d.mld.phase = 2)
    (he : mWorst (chkStructure { d := d, o := w, swap := false, part := 0, mask := o.targets.toNat, length := o.length } m ++ chkPour o) = none) :
    ∃ D, doPourFirstPass d w (some m) = D ∧ DevOnly [.mld, .cat] d D ∧ D.mld.phase = 4 ∧
      ∃ o', D.mld.op = some o' ∧ o'.image = m ∧ o'.digest = mDigest m ∧ o'.targets = o.targets := by
  have hstop : ∀ (cl : BitVec 64) (e : Dev), DevOnly [.cat] e (e.each (bitsOf 64 cl.toNat) (fun d c => d.each (List.range 17) (fun d j =>
      d.testAbandon (c * 32 + j)))) :=
    fun _ e => devOnly_each _ _ (fun _ _ => devOnly_each _ _ (fun _ _ => devOnly_testAbandon _ _) _) e
  have hdo : ∃ (cl : BitVec 64) (e : Dev), (DevOnly [.mld] d e ∧ ∃ o', e.mld.op = some o' ∧ o'.image = m ∧ o'.digest = mDigest m ∧
      o'.targets = o.targets) ∧ doPourFirstPass d w (some m) = (e.each (bitsOf 64 cl.toNat) (fun d c => d.each (List.range 17) (fun d j =>
        d.testAbandon (c * 32 + j)))).upMld (fun x => { x with phase := 4 }) := by
    unfold doPourFirstPass
    rw [hop]
    simp only [hm, hph, bne_self_eq_false, Bool.or_self, Bool.false_eq_true, if_false, he]
    generalize mDigest m = dig
    generalize (mParts m).foldl (fun a x => a ||| BitVec.ofNat 64 x.clusters) o.clusters = cl
    exact ⟨cl, d.upOp (fun o' => { o' with image := m, digest := dig, clusters := cl }), ⟨devOnly_upMld _ _,
      { o with image := m, digest := dig, clusters := cl }, congrArg (Option.map _) hop, rfl, rfl, rfl⟩, rfl⟩
  obtain ⟨cl, e, ⟨he, o', hop', ho'⟩, hdo⟩ := hdo
  have hs := hstop cl e
  generalize e.each _ _ = E at hdo hs
  exact ⟨_, hdo, (he.mono (by simp)).trans ((hs.mono (by simp)).trans ((devOnly_upMld _ _).mono (by simp))), rfl,
    o', (show E.mld.op = some o' from (congrArg Mld.op (hs .mld (by simp))).trans hop'), ho'⟩

/-- R132: an image with an error ends the pour with the worst one. -/
theorem doPourFirstPass_fails {d : Dev} {w : OwnerFuses} {o : LoadOp} {m : Bytes} {e : MErr} (hop : d.mld.op = some o) (hm : o.mode = 0)
    (hph : d.mld.phase = 2)
    (he : mWorst (chkStructure { d := d, o := w, swap := false, part := 0, mask := o.targets.toNat, length := o.length } m ++ chkPour o) = some e) :
    doPourFirstPass d w (some m) = d.opFail o e := by
  unfold doPourFirstPass
  rw [hop]
  simp only [hm, hph, bne_self_eq_false, Bool.or_self, Bool.false_eq_true, if_false, he]

/-! ### The second pass (R132) -/

theorem upAt_part (d : Dev) (k : Nat) (f : Part → Part) (j : Nat) : (d.upPart k f).part j = if j = k then f (d.part j) else d.part j := by
  rw [part_upPart]
  split
  · rename_i h; rw [h]
  · rfl

theorem devOnly_writeStore (d : Dev) (n : Nat) (code : List Nat) : DevOnly [.cat] d (d.writeStore n code) :=
  (devOnly_upCell _ _ _).trans (devOnly_upCat _ _)

theorem devOnly_writeStores (l : List TEnt) (m : Bytes) (d : Dev) :
    DevOnly [.cat] d (d.each l (fun d t => d.each (cellsOf t.cells) (fun d n => d.writeStore n (mCode m t)))) :=
  devOnly_each _ _ (fun _ _ => devOnly_each _ _ (fun _ _ => devOnly_writeStore _ _ _) _) d

/-- R132: the tables of a mould, written: each partition entry's partition takes its fields. -/
theorem writeMould_parts (d : Dev) (conf : Bool) (m : Bytes) (hn : ((mParts m).map (fun x => x.part)).Nodup) :
    ∃ D, d.writeMould conf m = D ∧ DevOnly [.mld, .cat, .evc, .rte, .ldl] d D ∧
      ∀ x ∈ mParts m, D.part x.part = (d.part x.part).pour m x conf := by
  have hP := devOnly_each (bs := [.mld]) (mParts m) (fun d x => d.upPart x.part (fun y => y.pour m x conf)) (fun _ _ => devOnly_upPart _ _ _) d
  obtain ⟨hin, -⟩ := each_key (g := Dev.part) (f := fun d x => d.upPart x.part (fun y => y.pour m x conf)) (F := fun x y => y.pour m x conf)
    (fun d x j => upAt_part d x.part _ j) (mParts m) hn d
  have hrest : DevOnly [.cat, .evc, .rte, .ldl] (d.each (mParts m) (fun d x => d.upPart x.part (fun y => y.pour m x conf))) (d.writeMould conf m) := by
    unfold Dev.writeMould
    dsimp only
    refine DevOnly.trans ?_ ((devOnly_upLdl _ _).mono (by simp))
    refine DevOnly.trans ?_ ((devOnly_upRte _ _).mono (by simp))
    refine DevOnly.trans ?_ (devOnly_each _ _ (fun _ _ => ((devOnly_upEvc _ _).trans ((devOnly_upEvc _ _).trans (devOnly_upEvc _ _))).mono (by simp)) _)
    refine DevOnly.trans ?_ ((devOnly_writeStores _ _ _).mono (by simp))
    exact (devOnly_upCat _ _).mono (by simp)
  exact ⟨_, rfl, (hP.mono (by simp)).trans (hrest.mono (by simp)), fun x hx => (part_same (hrest .mld (by simp)) _).trans (hin x hx)⟩

/-- R132, R139: the second pass of a mould without a TWIN section. -/
theorem doPourSecondPass_writes {d : Dev} {w : OwnerFuses} {o : LoadOp} {m : Bytes} (hop : d.mld.op = some o) (hm : o.mode = 0)
    (hph : d.mld.phase = 4) (hc : o.changed = false) (hd : mDigest m = o.digest) (ht : mTwin o.image = none)
    (hn : ((mParts o.image).map (fun x => x.part)).Nodup) :
    ∃ D, doPourSecondPass d w (some m) = D ∧
      DevOnly [.free, .cat, .mld, .que, .syn, .evc, .mem, .rte, .ldl, .twin, .flash] d D ∧ D.mld.phase = 5 ∧
      ∀ x ∈ mParts o.image, ∃ y : Part, D.part x.part = y.pour o.image x (mConf o.image || w.conf == 1) := by
  unfold doPourSecondPass
  rw [hop]
  simp only [hm, hph, hc, hd, ht, bne_self_eq_false, Bool.or_self, Bool.false_eq_true, if_false]
  obtain ⟨D, hD, ho, hp⟩ := writeMould_parts _ (mConf o.image || w.conf == 1) o.image hn
  rw [hD]
  refine ⟨_, rfl, DevOnly.trans ?_ ((ho.mono (by simp)).trans ((devOnly_upMld _ _).mono (by simp))), rfl, fun x hx => ⟨_, hp x hx⟩⟩
  exact devOnly_each _ _ (fun _ _ => devOnly_release _ _ _ _ _) _

/-! ### Twin moulds (R139) -/

/-- R139: without the partner's digest the twin partitions go on alone. -/
theorem doPourTwinTimeout_solo {d : Dev} {o : LoadOp} (hop : d.mld.op = some o) (ht : d.mld.twinWait = true) :
    let ps := (bitsOf 16 o.targets.toNat).filter (fun p => (d.part p).twScope != 0)
    ∃ D, doPourTwinTimeout d = D ∧ DevOnly [.mld, .evc] d D ∧ D.mld.twinWait = false ∧ (∀ p ∈ ps, (D.part p).twin = 2) ∧
      ∀ p, p ∉ ps → D.part p = d.part p := by
  intro ps
  have hdo : doPourTwinTimeout d = (d.each ps (fun d p => (d.upPart p (fun x => { x with twin := 2 })).raise (0xD110 + p) d.partnerId)).upMld
      (fun m => { m with twinWait := false }) := by
    unfold doPourTwinTimeout
    rw [hop]
    simp only [ht, if_true]
    rfl
  obtain ⟨hin, hout⟩ := each_key (g := Dev.part) (key := id) (f := fun d p => (d.upPart p (fun x => { x with twin := 2 })).raise (0xD110 + p) d.partnerId)
    (F := fun _ x => { x with twin := 2 }) (fun d x j => (raise_part _ _ _ _).trans (upAt_part d x _ j)) ps
    (by rw [List.map_id]; exact (bitsOf_nodup _ _).filter _) d
  rw [List.map_id] at hout
  have ho := devOnly_each (bs := [.mld, .evc]) ps (fun d p => (d.upPart p (fun x => { x with twin := 2 })).raise (0xD110 + p) d.partnerId)
    (fun _ _ => ((devOnly_upPart _ _ _).mono (by simp)).trans ((devOnly_raise _ _ _).mono (by simp))) d
  exact ⟨_, hdo, ho.trans ((devOnly_upMld _ _).mono (by simp)), rfl, fun p hp => congrArg Part.twin (hin p hp), hout⟩

/-! ### Completion of a pour (R136) -/

/-- R136: partition `x.1` comes into service, its stacks `x.2.1` and shelf pages `x.2.2` kept. -/
def Dev.pourTarget (o : LoadOp) (d : Dev) (x : Nat × BitVec 16 × List Nat) : Dev :=
  let y := d.part x.1
  let zero := y.conf || ((mPart o.image x.1).elim false (fun e => bit e.flags 0))
  let d := d.each ((bitsOf 16 y.stackSet.toNat).filter (fun s => zero || !bit x.2.1.toNat s)) (fun d s => d.zeroStack s)
  let d := d.each (y.shelf.filter (fun g => zero || !x.2.2.contains g)) (fun d g => d.zeroShelf g)
  let d := d.each y.slots (fun d k => d.upSlot k Slot.wipe)
  (d.perfClearPart x.1).upPart x.1 (fun y => { y.clearLedger with
    state := 2, gen := (y.gen + 1) % 2 ^ 16, digest := o.digest, swapDig := 0, swapped := false, patDig := mPatDigest o.image })

/-- What a pour leaves of a partition's own fields. -/
def Part.served (o : LoadOp) (y : Part) : Part :=
  { y.clearLedger with
    state := 2, gen := (y.gen + 1) % 2 ^ 16, digest := o.digest, swapDig := 0, swapped := false, patDig := mPatDigest o.image }

theorem pourTarget_keeps (o : LoadOp) (d : Dev) (x : Nat × BitVec 16 × List Nat) : DevOnly [.mem, .cat, .mld] d (d.pourTarget o x) ∧
    (∀ j, (d.pourTarget o x).part j = if j = x.1 then (d.part j).served o else d.part j) ∧ (d.pourTarget o x).mld.op = d.mld.op ∧
      (d.pourTarget o x).mld.pours = d.mld.pours := by
  have hmem : DevOnly [.mem, .cat] d (((((d.each ((bitsOf 16 (d.part x.1).stackSet.toNat).filter (fun s => ((d.part x.1).conf ||
      ((mPart o.image x.1).elim false (fun e => bit e.flags 0))) || !bit x.2.1.toNat s)) (fun d s => d.zeroStack s)).each
      ((d.part x.1).shelf.filter (fun g => ((d.part x.1).conf || ((mPart o.image x.1).elim false (fun e => bit e.flags 0))) || !x.2.2.contains g))
      (fun d g => d.zeroShelf g)).each (d.part x.1).slots (fun d k => d.upSlot k Slot.wipe)).perfClearPart x.1)) :=
    (devOnly_each _ _ (fun _ _ => (devOnly_zeroStack _ _).mono (by simp)) _).trans
      ((devOnly_each _ _ (fun _ _ => (devOnly_zeroShelf _ _).mono (by simp)) _).trans
        ((devOnly_each _ _ (fun _ _ => (devOnly_upSlot _ _ _).mono (by simp)) _).trans ((devOnly_upCat _ _).mono (by simp))))
  unfold Dev.pourTarget
  dsimp only
  generalize Dev.perfClearPart _ _ = E at hmem
  have hmld : E.mld = d.mld := hmem .mld (by simp)
  refine ⟨(hmem.mono (by simp)).trans ((devOnly_upPart _ _ _).mono (by simp)), fun j => ?_,
    show E.mld.op = d.mld.op from congrArg Mld.op hmld, show E.mld.pours = d.mld.pours from congrArg Mld.pours hmld⟩
  rw [upAt_part, part_same hmld]
  rfl

/-- R136: the counters of a mould, bound with their initial values. -/
theorem counters_bound (m : Bytes) (d : Dev) (hn : ((mCounters m).map (fun c => c.counter)).Nodup) :
    ∃ E, d.each (mCounters m) (fun d c => d.upCounter c.counter (fun _ =>
        { bound := true, part := c.part, peerIncr := bit c.flags 0, hostRead := bit c.flags 1, value := c.initial, ovf := false })) = E ∧
      DevOnly [.syn] d E ∧ ∀ c ∈ mCounters m, (E.counter c.counter).bound = true ∧ (E.counter c.counter).part = c.part ∧
        (E.counter c.counter).value = c.initial := by
  obtain ⟨hin, -⟩ := each_key (g := Dev.counter) (key := fun c : CEnt => c.counter) (f := fun d c => d.upCounter c.counter (fun _ =>
        { bound := true, part := c.part, peerIncr := bit c.flags 0, hostRead := bit c.flags 1, value := c.initial, ovf := false }))
    (F := fun c _ => { bound := true, part := c.part, peerIncr := bit c.flags 0, hostRead := bit c.flags 1, value := c.initial, ovf := false })
    (fun d c j => counter_upCounter d c.counter _ j) (mCounters m) hn d
  refine ⟨_, rfl, devOnly_each _ _ (fun _ _ => devOnly_upSyn _ _) _, fun c hc => ?_⟩
  rw [hin c hc]
  exact ⟨rfl, rfl, rfl⟩

/-- R136: the queues of a mould, open and empty. -/
theorem queues_bound (m : Bytes) (d : Dev) (hn : ((mQueues m).map (fun x => x.queue)).Nodup) :
    ∃ E, d.each (mQueues m) (fun d q => d.upQueue q.queue (fun x =>
        { Queue.init with state := 1, part := q.part, prio := q.prio, log2 := q.log2, ring := q.ring, compl := q.compl, uj := x.uj })) = E ∧
      DevOnly [.que] d E ∧ (∀ q i, E.flight q i = d.flight q i) ∧ ∀ x ∈ mQueues m, (E.queue x.queue).state = 1 ∧ (E.queue x.queue).part = x.part ∧
        (E.queue x.queue).ring = x.ring ∧ (E.queue x.queue).compl = x.compl ∧ (E.queue x.queue).prod = 0 := by
  obtain ⟨hin, -⟩ := each_key (g := Dev.queue) (key := fun q : QEnt => q.queue) (f := fun d q => d.upQueue q.queue (fun x =>
        { Queue.init with state := 1, part := q.part, prio := q.prio, log2 := q.log2, ring := q.ring, compl := q.compl, uj := x.uj }))
    (F := fun q x => { Queue.init with state := 1, part := q.part, prio := q.prio, log2 := q.log2, ring := q.ring, compl := q.compl, uj := x.uj })
    (fun d q j => by
      rw [queue_upQueue]
      split
      · rename_i h; rw [h]
      · rfl) (mQueues m) hn d
  have hfl := fun q i => each_inv (fun d => d.flight q i) (mQueues m) (fun d q => d.upQueue q.queue (fun x =>
        { Queue.init with state := 1, part := q.part, prio := q.prio, log2 := q.log2, ring := q.ring, compl := q.compl, uj := x.uj }))
    (fun _ _ => rfl) d
  have ho := devOnly_each (mQueues m) (fun d q => d.upQueue q.queue (fun x =>
        { Queue.init with state := 1, part := q.part, prio := q.prio, log2 := q.log2, ring := q.ring, compl := q.compl, uj := x.uj }))
    (fun _ _ => devOnly_upQue _ _) d
  refine ⟨_, rfl, ho, hfl, fun x hx => ?_⟩
  rw [hin x hx]
  exact ⟨rfl, rfl, rfl, rfl, rfl⟩

/-- R136: a pour is complete. -/
theorem doPourComplete_ends {d : Dev} {o : LoadOp} {f : Flight} (hop : d.mld.op = some o) (hf : d.flight o.queue o.index = some f)
    (hst : f.started = true) (hs : f.status = none) (hm : o.mode = 0) (hph : d.mld.phase = 5) (ht : d.mld.twinWait = false)
    (hk : o.kept.length = (bitsOf 16 o.targets.toNat).length) (hsh : o.keptSh.length = (bitsOf 16 o.targets.toNat).length)
    (hc : ((mCounters o.image).map (fun c => c.counter)).Nodup) (hq : ((mQueues o.image).map (fun x => x.queue)).Nodup) :
    ∃ D, doPourComplete d = D ∧ DevOnly [.cat, .mld, .que, .syn, .mem] d D ∧ D.mld.op = none ∧ D.mld.phase = 0 ∧
      D.mld.pours = (d.mld.pours + 1) % 2 ^ 64 ∧
      (∀ p ∈ bitsOf 16 o.targets.toNat, D.part p = (d.part p).served o) ∧
      (∀ p, p ∉ bitsOf 16 o.targets.toNat → D.part p = d.part p) ∧
      (∀ c ∈ mCounters o.image, (D.counter c.counter).bound = true ∧ (D.counter c.counter).part = c.part ∧ (D.counter c.counter).value = c.initial) ∧
      (∀ x ∈ mQueues o.image, (D.queue x.queue).state = 1 ∧ (D.queue x.queue).part = x.part ∧ (D.queue x.queue).ring = x.ring ∧
        (D.queue x.queue).compl = x.compl ∧ (D.queue x.queue).prod = 0) ∧ Ended o.queue o.index f 0 0 0 d D := by
  have hzip : ((bitsOf 16 o.targets.toNat).zip (o.kept.zip o.keptSh)).map Prod.fst = bitsOf 16 o.targets.toNat :=
    List.map_fst_zip (by rw [List.length_zip, hk, hsh, Nat.min_self])
  have hdo : doPourComplete d = (((d.each ((bitsOf 16 o.targets.toNat).zip (o.kept.zip o.keptSh)) (fun d x => d.pourTarget o x)).each (mCounters o.image)
      (fun d c => d.upCounter c.counter (fun _ =>
        { bound := true, part := c.part, peerIncr := bit c.flags 0, hostRead := bit c.flags 1, value := c.initial, ovf := false }))).each (mQueues o.image)
      (fun d q => d.upQueue q.queue (fun x =>
        { Queue.init with state := 1, part := q.part, prio := q.prio, log2 := q.log2, ring := q.ring, compl := q.compl, uj := x.uj }))).opEnd o stOk 0 := by
    unfold doPourComplete
    rw [hop]
    simp only [hm, hph, ht, bne_self_eq_false, Bool.or_self, Bool.false_eq_true, if_false]
    rfl
  obtain ⟨hin, hout⟩ := each_key (g := Dev.part) (key := Prod.fst) (f := fun d x => d.pourTarget o x) (F := fun _ y => y.served o)
    (fun d x j => (pourTarget_keeps o d x).2.1 j) _ (by rw [hzip]; exact bitsOf_nodup _ _) d
  have hT := devOnly_each (bs := [.mem, .cat, .mld]) ((bitsOf 16 o.targets.toNat).zip (o.kept.zip o.keptSh)) (fun d x => d.pourTarget o x)
    (fun d x => (pourTarget_keeps o d x).1) d
  have hpours := each_inv (fun d => d.mld.pours) ((bitsOf 16 o.targets.toNat).zip (o.kept.zip o.keptSh)) (fun d x => d.pourTarget o x)
    (fun d x => (pourTarget_keeps o d x).2.2.2) d
  rw [hzip] at hout
  generalize d.each _ _ = T at *
  obtain ⟨C, hC, hCo, hCc⟩ := counters_bound o.image T hc
  obtain ⟨Q, hQ, hQo, hQf, hQq⟩ := queues_bound o.image C hq
  rw [hC, hQ] at hdo
  have hpart : ∀ p, (Q.opEnd o stOk 0).part p = T.part p := fun p => by
    rw [part_opEnd, part_same (hQo .mld (by simp)), part_same (hCo .mld (by simp))]
  have hmld : Q.mld = T.mld := (hQo .mld (by simp)).trans (hCo .mld (by simp))
  refine ⟨_, hdo, (hT.mono (by simp)).trans ((hCo.mono (by simp)).trans ((hQo.mono (by simp)).trans ((devOnly_opEnd _ _ _ _).mono (by simp)))),
    rfl, rfl, ?_, fun p hp => ?_, fun p hp => (hpart p).trans (hout p hp), fun c hmem => ?_, fun x hx => hQq x hx, ?_⟩
  · rw [← hpours, ← hmld]
    rfl
  · rw [← hzip] at hp
    obtain ⟨x, hx, rfl⟩ := List.mem_map.mp hp
    exact (hpart _).trans (hin x hx)
  · have hcn : (Q.opEnd o stOk 0).counter c.counter = C.counter c.counter := counter_same (hQo .syn (by simp)) _
    rw [hcn]
    exact hCc c hmem
  · exact opEnd_ends hf hst hs (fun q i => by
      rw [hQf, flight_same (hCo .que (by simp)), flight_same (hT .que (by simp))]) _ _

/-! ### The second pass of a pattern swap (R142) -/

/-- A program store as a pattern of these instructions fills it. -/
def storeOf (code : List Nat) : Tab (BitVec 128) := tputs 0 [] 0 (code.map (BitVec.ofNat 128))

/-- R121: the stores of a list of cells, written in turn: each cell's slot takes the pattern, no other slot changes. -/
theorem writeStores_slots (code : List Nat) (l : List Nat) (d : Dev) :
    (∀ n ∈ l, ∀ k, d.slotOf n = some k → ((d.each l (fun d n => d.writeStore n code)).slot k).store = storeOf code) ∧
    (∀ k, (∀ n ∈ l, d.slotOf n ≠ some k) → (d.each l (fun d n => d.writeStore n code)).slot k = d.slot k) := by
  have hcat : ∀ (e : Dev) n k, ((e.writeStore n code).slotOf n = some k) = (e.slotOf n = some k) := fun e n k => by
    rw [show (e.writeStore n code).slotOf n = (e.upCell n (fun s => { s with store := storeOf code })).slotOf n from rfl, slotOf_upCell]
  have hkeep : ∀ (l : List Nat) (e : Dev) k, (e.slot k).store = storeOf code →
      ((e.each l (fun d n => d.writeStore n code)).slot k).store = storeOf code := by
    intro l
    induction l with
    | nil => exact fun _ _ h => h
    | cons a l ih =>
      refine fun e k h => ih (e.writeStore a code) k ?_
      show ((e.upCell a (fun s => { s with store := storeOf code })).slot k).store = storeOf code
      by_cases ha : e.slotOf a = some k
      · rw [slot_upCell_of_eq _ ha]
      · rw [slot_upCell_of_ne _ ha, h]
  induction l generalizing d with
  | nil => exact ⟨fun n hn => absurd hn List.not_mem_nil, fun _ _ => rfl⟩
  | cons a l ih =>
    have hof : ∀ n, (d.writeStore a code).slotOf n = d.slotOf n := fun n => slotOf_upCell d a _ n
    obtain ⟨ih1, ih2⟩ := ih (d.writeStore a code)
    simp only [hof] at ih1 ih2
    refine ⟨fun n hn k hk => ?_, fun k hk => ?_⟩
    · rcases List.mem_cons.mp hn with rfl | hn
      · refine hkeep l (d.writeStore n code) k ?_
        show ((d.upCell n (fun s => { s with store := storeOf code })).slot k).store = storeOf code
        rw [slot_upCell_of_eq _ hk]
      · exact ih1 n hn k hk
    · refine (ih2 k (fun n hn => hk n (List.mem_cons_of_mem _ hn))).trans ?_
      exact slot_upCell_of_ne _ (hk a (List.mem_cons_self ..))

theorem each_single {α : Type} (d : Dev) (x : α) (f : Dev → α → Dev) : d.each [x] f = f d x := rfl

/-- R142: a swap of one pattern, none of whose cells is in a run, writes its stores and ends. -/
theorem doPatternSwapWrite_ends {d : Dev} {o : LoadOp} {f : Flight} {m : Bytes} {t : TEnt} {p : Nat} (hop : d.mld.op = some o)
    (hf : d.flight o.queue o.index = some f) (hst : f.started = true) (hs : f.status = none) (hm : o.mode = 1)
    (hrun : ∀ r ∈ d.cat.runs, ∀ n ∈ r.cells, n ∉ o.cells) (hd : mDigest m = o.digest) (ht : mPats m = [t])
    (hp : bitsOf 16 o.targets.toNat = [p]) :
    ∃ D, doPatternSwapWrite d (some m) = D ∧ DevOnly [.cat, .mld, .que] d D ∧ D.mld.op = none ∧
      (D.part p).swapped = true ∧ (D.part p).swapDig = o.digest ∧ Ended o.queue o.index f 0 0 0 d D ∧
      (∀ n ∈ cellsOf t.cells, ∀ k, d.slotOf n = some k → (D.slot k).store = storeOf (mCode m t)) ∧
      (∀ k, (∀ n ∈ cellsOf t.cells, d.slotOf n ≠ some k) → D.slot k = d.slot k) := by
  have hany : d.cat.runs.any (fun r => r.cells.any (fun n => o.cells.contains n)) = false := by
    simp only [List.any_eq_false, Bool.not_eq_true, List.contains_eq_mem, decide_eq_false_iff_not]
    exact hrun
  have hdo : ∃ (g : Cat → Nat) (dig : Nat), doPatternSwapWrite d (some m) = (((d.each (cellsOf t.cells) (fun d n => d.writeStore n (mCode m t))).upCat
      (fun c => { c with swapBad := g c })).upPart p (fun x => { x with swapped := true, swapDig := o.digest, patDig := dig })).opEnd o stOk 0 := by
    unfold doPatternSwapWrite
    rw [hop]
    simp only [hm, hany, hd, ht, hp, bne_self_eq_false, Bool.or_self, Bool.false_eq_true, if_false, List.headD_cons, each_single]
    generalize mPatDigest m = dig
    generalize hg : (fun c : Cat => ofBits ((bitsOf 1024 c.swapBad).filter (fun n => !o.cells.contains n))) = g
    have hg' : ∀ c : Cat, ofBits ((bitsOf 1024 c.swapBad).filter (fun n => !o.cells.contains n)) = g c := fun c => congrFun hg c
    simp only [hg']
    exact ⟨g, dig, rfl⟩
  obtain ⟨g, dig, hdo⟩ := hdo
  have ho := devOnly_each (cellsOf t.cells) (fun d n => d.writeStore n (mCode m t)) (fun _ _ => devOnly_writeStore _ _ _) d
  obtain ⟨hin, hout⟩ := writeStores_slots (mCode m t) (cellsOf t.cells) d
  generalize d.each _ _ = E at *
  have hC := devOnly_upCat E (fun c => { c with swapBad := g c })
  have hslot : ∀ k, (E.upCat (fun c => { c with swapBad := g c })).slot k = E.slot k := fun _ => rfl
  generalize E.upCat _ = C at *
  have hP := devOnly_upPart C p (fun x => { x with swapped := true, swapDig := o.digest, patDig := dig })
  have hpart := part_upPart C p (fun x => { x with swapped := true, swapDig := o.digest, patDig := dig }) p
  rw [if_pos rfl] at hpart
  generalize C.upPart p _ = P at *
  have hE := devOnly_opEnd P o stOk 0
  have hslots : ∀ k, (P.opEnd o stOk 0).slot k = E.slot k := fun k => by
    rw [slot_same (hE .cat (by simp)), slot_same (hP .cat (by simp)), hslot]
  refine ⟨_, hdo, ((ho.trans hC).mono (by simp)).trans ((hP.mono (by simp)).trans (hE.mono (by simp))), rfl, ?_, ?_,
    opEnd_ends hf hst hs (fun q i => ?_) _ _, fun n hn k hk => ?_, fun k hk => ?_⟩
  · rw [part_opEnd, hpart]
  · rw [part_opEnd, hpart]
  · rw [flight_same (hP .que (by simp)), flight_same (hC .que (by simp)), flight_same (ho .que (by simp))]
  · rw [hslots]; exact hin n hn k hk
  · rw [hslots]; exact hout k hk

end Sys2Proof.Machine
end

section
/-! PROOFS. The obligation about pours, unpours and pattern swaps. -/

open Sys2Proof Sys2Proof.Machine

/-- R141: a swap whose image could not be read or has an error ends its work order with that error. -/
theorem patternSwap_fails {s : State} {q i : Nat} {f : Flight} {image : Option Bytes} {e : MErr} (hq : q < 32768) (h : s.dev.take q i 0x30 = some f)
    (hdo : doPatternSwap s.dev s.owner q i image = (swapAsked s.dev q i f).opFail (swapOp s.dev q i f) e) :
    Runs (.patternSwap q i image) s [.que, .mld, .mgmt, .out] (fun d =>
      d.mld.errCode = e.code ∧ d.mld.errValid = true ∧ d.mld.op = none ∧ Ended q i f (mStatus e.code) e.code 0 s.dev d) := by
  obtain ⟨ho, hfl, hbut⟩ := swapAsked_keeps h
  obtain ⟨D, hD, hDo, hcode, -, -, hvalid, hop, hend, hothers⟩ := opFail_fails (o := swapOp s.dev q i f) hfl rfl (take_some h).2.2.2 e
  refine runs_unitDevN (f := fun d => doPatternSwap d s.owner q i image) rfl (decide_eq_true hq) (hdo.trans hD)
    ((ho.mono (by simp)).trans (hDo.mono (by simp))) (by simp) (by simp) ?_
  simp only [report_mld]
  exact ⟨hcode, hvalid, hop, ended_report ⟨hend, fun q' i' hne => (hothers q' i' hne).trans (hbut q' i' hne)⟩⟩

/-- Settles O32. -/
theorem poursUnpoursAndPatternSwaps : Obligations.PoursUnpoursAndPatternSwaps := by
  refine ⟨fun s i f hop => ⟨fun hrec h => ?_, fun h hne hp => ?_⟩, fun s q i f m hop hq h => ⟨?_, fun e he => ?_, fun he => ?_⟩,
    fun s o f m hop hf hst hs => ⟨fun hm hph => ⟨fun he => ?_, fun e he => ?_⟩, fun hm hph hc hd ht hn => ?_, fun ht => ?_,
      fun hm hph ht hk hsh hc hq => ?_, fun t p hm hrun hd ht hp => ?_⟩⟩
  · obtain ⟨D, hD, ho, h1, h2, h3, h4, h5⟩ := doPour_starts hop hrec h
    exact runs_devN (F := fun d => doPour d i) rfl hD (ho.mono (by simp)) (by simp) (by simp)
      (by simpa only [report_mld, report_part, report_flight, ButWork] using ⟨h1, h2, h3, out_report h4, h5⟩)
  · obtain ⟨D, hD, ho, h⟩ := doUnpour_fences hop h hne hp
    exact runs_devN (F := fun d => doUnpour d i) rfl hD (ho.mono (by simp)) (by simp) (by simp)
      (by simpa only [report_mld, report_part, report_flight, ButWork] using h)
  · exact patternSwap_fails hq h (doPatternSwap_unread hop (by simp [ctlQ]; omega) h)
  · exact patternSwap_fails hq h (doPatternSwap_fails hop (by simp [ctlQ]; omega) h he)
  · obtain ⟨ho, hfl, hbut⟩ := swapAsked_keeps h
    obtain ⟨o, hfields, hdo⟩ := doPatternSwap_keeps hop (by simp [ctlQ]; omega) h he
    refine runs_unitDevN (f := fun d => doPatternSwap d s.owner q i (some m)) rfl (decide_eq_true hq) hdo
      ((ho.mono (by simp)).trans ((devOnly_upMld _ _).mono (by simp))) (by simp) (by simp) ?_
    simp only [report_mld, report_flight, ButWork]
    exact ⟨⟨o, rfl, hfields⟩, rfl, hfl, hbut⟩
  · obtain ⟨D, hD, ho, h⟩ := doPourFirstPass_keeps hop hm hph he
    exact runs_devN (F := fun d => doPourFirstPass d s.owner (some m)) rfl hD (ho.mono (by simp)) (by simp) (by simp)
      (by simpa only [report_mld] using h)
  · obtain ⟨D, hD, ho, h1, h2, h3, -, h4, h5⟩ := opFail_fails hf hst hs e
    exact runs_devN (F := fun d => doPourFirstPass d s.owner (some m)) rfl ((doPourFirstPass_fails hop hm hph he).trans hD) (ho.mono (by simp))
      (by simp) (by simp) (by simpa only [report_mld] using ⟨h1, h2, h3, h4, ended_report h5⟩)
  · obtain ⟨D, hD, ho, hph5, hparts⟩ := doPourSecondPass_writes (w := s.owner) hop hm hph hc hd ht hn
    refine runs_devN (F := fun d => doPourSecondPass d s.owner (some m)) rfl hD (ho.mono (by simp)) (by simp) (by simp) ?_
    simp only [report_mld, report_part]
    refine ⟨hph5, fun x hx => ?_⟩
    obtain ⟨y, hy⟩ := hparts x hx
    rw [hy]
    exact ⟨rfl, rfl, rfl, rfl, rfl, rfl⟩
  · obtain ⟨D, hD, ho, h⟩ := doPourTwinTimeout_solo hop ht
    exact runs_devN (F := fun d => doPourTwinTimeout d) rfl hD (ho.mono (by simp)) (by simp) (by simp)
      (by simpa only [report_mld, report_part] using h)
  · obtain ⟨D, hD, ho, h1, h2, h3, hin, hout, h4, h5, h6⟩ := doPourComplete_ends hop hf hst hs hm hph ht hk hsh hc hq
    refine runs_devN (F := fun d => doPourComplete d) rfl hD (ho.mono (by simp)) (by simp) (by simp) ?_
    simp only [report_mld, report_part, report_counter, report_queue]
    refine ⟨h1, h2, h3, fun p hp => ?_, hout, h4, h5, ended_report h6⟩
    rw [hin p hp]
    exact ⟨rfl, rfl, rfl, rfl⟩
  · obtain ⟨D, hD, ho, h1, h2, h3, h4, h5⟩ := doPatternSwapWrite_ends hop hf hst hs hm hrun hd ht hp
    exact runs_devN (F := fun d => doPatternSwapWrite d (some m)) rfl hD (ho.mono (by simp)) (by simp) (by simp)
      (by simpa only [report_mld, report_part, report_slot] using ⟨h1, h2, h3, ended_report h4, h5⟩)

end

section
/-! PROOFS. The memory base dies: plain accesses, scrub, temperature, ordered accumulation, zeroisation (R172, R182–R187, R192). -/

namespace Sys2Proof.Machine

/-- A command of a unit that exists, which the report does not follow. -/
theorem runs_unitDev {c : Instr} {s : State} {ok : Bool} {f : Dev → Dev} {D : Dev} {bs : List Block} {post : Dev → Prop}
    (h : exec c s = unitOk ok (onDev s f)) (hok : ok = true) (hD : f s.dev = D) (o : DevOnly bs s.dev D) (p : post D) : Runs c s bs post := by
  subst hok hD
  exact runs_onDev (h.trans (unitOk_true rfl)) o p

/-! ### Plain accesses (R183) -/

section
variable {d : Dev} {p va n : Nat} {r : Reader} {bs : Bytes} {l : List (Nat × Nat)}

theorem doNmuRead_admitted (hr : (d.part p).ready = true) (h : Admits d p va n (readNeed r) (readerOwn r) l) :
    doNmuRead d p r va n Ecc.quiet = d.emit (.memData (memGets d.mem.bytes l)) := by
  unfold doNmuRead
  simp only [hr, Bool.not_true, Bool.false_eq_true, if_false, vaRead_quiet _ h]

theorem doNmuWrite_admitted (hr : (d.part p).ready = true) (h : Admits d p va bs.length (writeNeed r) (readerOwn r) l) :
    DevOnly [.mld, .evc, .mem] d (doNmuWrite d p r va bs) ∧ (doNmuWrite d p r va bs).mem.bytes = memPuts d.mem.bytes l bs := by
  obtain ⟨D, hD, hb, ho, -⟩ := vaWrite_admitted (readerCode r) h
  unfold doNmuWrite
  simp only [hr, Bool.not_true, Bool.false_eq_true, if_false, hD]
  exact ⟨ho, hb⟩

theorem doNmu_notReady (hr : (d.part p).ready = false) (e : Ecc) :
    doNmuRead d p r va n e = d.emit .memFail ∧ doNmuWrite d p r va bs = d.emit .memFail := by
  unfold doNmuRead doNmuWrite
  simp only [hr, Bool.not_false, if_true, and_self]

end

/-! ### Reads and writes of sound memory -/

/-- R180: without an error to report a read of memory whose units are sound gives its bytes and changes nothing. -/
theorem memRead_quiet (d : Dev) (rd pa n : Nat) (hu : d.mem.ueUnits = []) :
    d.memRead rd pa n Ecc.quiet = (d, some (tgets 0 d.mem.bytes pa n)) := by
  unfold Dev.memRead Ecc.quiet
  have hsame : d.upMem (fun m => { m with ueUnits := m.ueUnits }) = d := rfl
  simp only [List.filter_nil, Dev.each, List.foldl_nil, hsame, hu, if_true]

theorem memPut_quiet (d : Dev) (rd pa : Nat) (bs : Bytes) (hu : d.mem.ueUnits = []) :
    ∃ D, d.memPut rd pa bs = (D, true) ∧ DevOnly [.mem] d D ∧ D.mem.bytes = tputs 0 d.mem.bytes pa bs ∧ D.mem.accs = d.mem.accs := by
  unfold Dev.memPut
  simp only [hu, List.filter_nil, Dev.each, List.foldl_nil, beq_self_eq_true]
  exact ⟨_, rfl, devOnly_upMem _ _, rfl, rfl⟩

/-! ### Ordered accumulation (R184–R187) -/

theorem openWaiting_none {m : Mem} (h : m.waiting = []) : m.openWaiting = m := by
  unfold Mem.openWaiting
  rw [h]
  simp only [List.foldl_nil]
  rw [← h]

/-- R184: with no sequence waiting one that may open does so at once. -/
theorem doAccOpen_opens {d : Dev} {a : AccSeq} (hw : d.mem.waiting = []) (h : d.mem.canOpen a = true) :
    doAccOpen d a = d.upMem (fun m => { m with accs := m.accs ++ [a] }) := by
  have hcan : ∀ l, (Mem.canOpen { d.mem with waiting := l } a) = d.mem.canOpen a := fun _ => rfl
  unfold doAccOpen Dev.upMem Mem.openWaiting
  simp only [hw, List.nil_append, List.foldl_cons, List.foldl_nil, hcan, h, List.any_nil, Bool.not_false, Bool.and_self, if_true]

/-- The first element that meets `p`, updated so that it still does, is the first of the updated list. -/
theorem find_updWhere_first {α : Type} {p : α → Bool} {f : α → α} {a : α} (l : List α) (h : l.find? p = some a) (hf : p (f a) = true) :
    (updWhere p f l).find? p = some (f a) := by
  unfold updWhere
  induction l with
  | nil => cases h
  | cons x l ih =>
    cases hx : p x with
    | true =>
      rw [List.find?_cons_of_pos hx] at h
      cases h
      simp only [List.map_cons, hx, if_true, List.find?_cons_of_pos hf]
    | false =>
      rw [List.find?_cons_of_neg (by simp [hx])] at h
      rw [List.map_cons, hx, if_neg Bool.false_ne_true, List.find?_cons_of_neg (by simp [hx])]
      exact ih h

section
variable {d : Dev} {st tag : Nat} {a : AccSeq}

theorem accSeq_name (h : d.accSeq st tag = some a) : (a.stack == st && a.tag == tag) = true :=
  List.find?_some (p := fun a : AccSeq => a.stack == st && a.tag == tag) h

/-- The open sequence (st, tag) after it has been updated. -/
theorem accSeq_up {e : Dev} (h : d.accSeq st tag = some a) (f : AccSeq → AccSeq) (hf : (f a).stack = a.stack ∧ (f a).tag = a.tag)
    (he : e.mem.accs = updWhere (fun x => x.stack == st && x.tag == tag) f d.mem.accs) : e.accSeq st tag = some (f a) := by
  unfold Dev.accSeq
  rw [he]
  exact find_updWhere_first _ h (by rw [hf.1, hf.2]; exact accSeq_name h)

variable {pos : Nat} {data : Bytes}

/-- R186: a contribution behind the position expected is only counted. -/
theorem accOne_dup (h : d.accSeq st tag = some a) (hp : pos < a.next) :
    d.accOne st tag pos data (crc32c data) Ecc.quiet = (d.upMem (fun m => { m with accDup := satAdd 64 m.accDup 1 }), .dup) := by
  unfold Dev.accOne
  rw [h]
  simp only [bne_self_eq_false, Bool.false_eq_true, if_false, hp, decide_true, Bool.or_true, Bool.true_or, if_true]

/-- R185: a contribution ahead of the position expected is held in staging. -/
theorem accOne_held (h : d.accSeq st tag = some a) (hn : pos < a.n) (hp : a.next < pos) (hh : tget none a.held pos = none)
    (hroom : d.mem.staged st + data.length ≤ 8388608) :
    d.accOne st tag pos data (crc32c data) Ecc.quiet = (d.upMem (fun m => { m with
      accs := updWhere (fun x => x.stack == st && x.tag == tag) (fun x => { x with held := tset none x.held pos (some data) }) m.accs }), .held) := by
  unfold Dev.accOne
  rw [h]
  simp only [bne_self_eq_false, Bool.false_eq_true, if_false, Nat.not_le.mpr hn, Nat.not_lt.mpr hp.le, hh, Option.isSome_none, decide_false,
    Bool.or_self, Nat.ne_of_gt hp, Nat.not_lt.mpr hroom]

theorem devOnly_colLedger (d : Dev) (p n : Nat) (l : Led) : DevOnly [.mld, .que] d (d.colLedger p n l) := by
  unfold Dev.colLedger
  split
  · split
    · exact devOnly_ledger _ _ _ _ _
    · exact (devOnly_upPart _ _ _).mono (by simp)
  · exact (devOnly_upPart _ _ _).mono (by simp)

/-- R184, R185: the contribution expected is merged into the destination; none held follows it. -/
theorem accRun_merges (fuel : Nat) (hu : d.mem.ueUnits = []) (hh : tget none a.held (a.next + 1) = none) :
    ∃ D, Dev.accRun Ecc.quiet (fuel + 1) d a data = (D, { a with next := a.next + 1 }, true) ∧ DevOnly [.mem, .mld, .que] d D ∧
      D.mem.accs = d.mem.accs ∧ D.mem.bytes = tputs 0 d.mem.bytes a.addr
        (accMerge a.fmt a.next (if a.next = 0 then [] else tgets 0 d.mem.bytes a.addr a.length) data).1 := by
  have hold : (if a.next = 0 then (d, some []) else d.memRead 3 a.addr a.length Ecc.quiet) =
      (d, some (if a.next = 0 then [] else tgets 0 d.mem.bytes a.addr a.length)) := by
    split
    · rfl
    · exact memRead_quiet d _ _ _ hu
  obtain ⟨P, hP, hPo, hPb, hPa⟩ := memPut_quiet d 3 a.addr
    (accMerge a.fmt a.next (if a.next = 0 then [] else tgets 0 d.mem.bytes a.addr a.length) data).1 hu
  have hL := devOnly_colLedger P a.part a.plan
    ⟨(accMerge a.fmt a.next (if a.next = 0 then [] else tgets 0 d.mem.bytes a.addr a.length) data).2, 0, 0⟩
  have hmem := hL .mem (by simp)
  unfold Dev.accRun
  simp only [hold, hP, Bool.not_true, Bool.false_eq_true, if_false, hh]
  exact ⟨_, rfl, (hPo.mono (by simp)).trans (hL.mono (by simp)), (congrArg Mem.accs hmem).trans hPa, (congrArg Mem.bytes hmem).trans hPb⟩

/-- R184: as accRun_merges, of a contribution that does not end the sequence. -/
theorem accOne_merges (h : d.accSeq st tag = some a) (hu : d.mem.ueUnits = []) (hn : a.next + 1 < a.n)
    (h0 : tget none a.held a.next = none) (h1 : tget none a.held (a.next + 1) = none) :
    ∃ D, d.accOne st tag a.next data (crc32c data) Ecc.quiet = (D, .applied) ∧ DevOnly [.mem, .mld, .que] d D ∧
      D.accSeq st tag = some { a with next := a.next + 1 } ∧ D.mem.bytes = tputs 0 d.mem.bytes a.addr
        (accMerge a.fmt a.next (if a.next = 0 then [] else tgets 0 d.mem.bytes a.addr a.length) data).1 := by
  obtain ⟨n, hfuel⟩ : ∃ n, a.n = n + 1 := ⟨a.n - 1, by omega⟩
  obtain ⟨D, hD, ho, haccs, hb⟩ := accRun_merges (data := data) n hu h1
  rw [← hfuel] at hD
  have hup := devOnly_upMem D (fun m => { m with accs := updWhere (fun x => x.stack == st && x.tag == tag) (fun _ => { a with next := a.next + 1 }) m.accs })
  refine ⟨_, ?_, ho.trans (hup.mono (by simp)), accSeq_up h (fun _ => { a with next := a.next + 1 }) ⟨rfl, rfl⟩ ?_, hb⟩
  · unfold Dev.accOne
    rw [h]
    have hlast : a.next + 1 ≠ a.n := by omega
    have hin : ¬a.n ≤ a.next := by omega
    simp only [bne_self_eq_false, Bool.false_eq_true, if_false, hin, Nat.lt_irrefl, h0, Option.isSome_none, decide_false, Bool.or_self, if_true, hD,
      hlast]
  · rw [← haccs]
    rfl

theorem doAccApply_of {d D : Dev} {st tag pos : Nat} {data : Bytes} {crc : Nat} {e : Ecc} {x : AccRes}
    (h : d.accOne st tag pos data crc e = (D, x)) (hc : x ≠ .crcBad) (hu : x ≠ .ue) : doAccApply d st tag pos data crc e = D := by
  unfold doAccApply
  rw [h]
  cases x <;> simp_all

/-- An undefined range: the bytes outside it and the accumulation state stay. -/
theorem undefMem_single (d : Dev) (pa n : Nat) : ∃ D, d.undefMem [(pa, n)] = D ∧ DevOnly [.free, .mem] d D ∧ D.mem.accs = d.mem.accs ∧
    D.mem.waiting = d.mem.waiting ∧ D.mem.heldWr = d.mem.heldWr ∧
    ∀ x, ¬(pa ≤ x ∧ x < pa + n) → tget 0 D.mem.bytes x = tget 0 d.mem.bytes x := by
  refine ⟨_, rfl, devOnly_undefMem _ _, rfl, rfl, rfl, fun x hx => ?_⟩
  have hbytes : (d.undefMem [(pa, n)]).mem.bytes = tputs 0 d.mem.bytes pa ((List.range n).map (fun i => Config.freeValue 8 (d.free + i))) := rfl
  rw [hbytes, tget_puts, if_neg (by simpa using hx)]

/-- R187: a sequence closed with nothing held for its range and none waiting. -/
theorem accClose_closes {d : Dev} {a : AccSeq} (hw : d.mem.waiting = []) (hh : d.mem.heldWr = []) :
    d.accClose a = d.upMem (fun m => { m with accs := m.accs.filter (fun x => !(x.stack == a.stack && x.tag == a.tag)) }) := by
  unfold Dev.accClose
  simp only [Dev.upMem, hh, List.filter_nil, Dev.each, List.foldl_nil]
  rw [openWaiting_none]
  exact hw

/-- R187: an abort with nothing held for the range and none waiting. -/
theorem doAccAbort_closes (h : d.accSeq st tag = some a) (hw : d.mem.waiting = []) (hh : d.mem.heldWr = []) :
    ∃ D, doAccAbort d st tag = D ∧ DevOnly [.mem, .ldl, .free, .evc] d D ∧ D.accSeq st tag = none ∧
      D.ldl.absorbed = satAdd 64 d.ldl.absorbed a.held.length ∧
      ∀ x, ¬(a.addr ≤ x ∧ x < a.addr + a.length) → tget 0 D.mem.bytes x = tget 0 d.mem.bytes x := by
  obtain ⟨B, hB, hBo, hBa, hBw, hBh, hBb⟩ : ∃ B, (if a.next = 0 then d.upLdl (fun l => { l with absorbed := satAdd 64 l.absorbed a.held.length })
        else (d.upLdl (fun l => { l with absorbed := satAdd 64 l.absorbed a.held.length })).undefMem [(a.addr, a.length)]) = B ∧
      DevOnly [.free, .mem] (d.upLdl (fun l => { l with absorbed := satAdd 64 l.absorbed a.held.length })) B ∧ B.mem.accs = d.mem.accs ∧
      B.mem.waiting = d.mem.waiting ∧ B.mem.heldWr = d.mem.heldWr ∧
      ∀ x, ¬(a.addr ≤ x ∧ x < a.addr + a.length) → tget 0 B.mem.bytes x = tget 0 d.mem.bytes x := by
    split
    · exact ⟨_, rfl, DevOnly.refl _ _, rfl, rfl, rfl, fun _ _ => rfl⟩
    · exact undefMem_single _ _ _
  have hname := accSeq_name h
  simp only [Bool.and_eq_true, beq_iff_eq] at hname
  have hdo : doAccAbort d st tag = B.upMem (fun m => { m with accs := m.accs.filter (fun x => !(x.stack == a.stack && x.tag == a.tag)) }) := by
    unfold doAccAbort
    rw [h]
    simp only [Dev.accAbort, hB]
    exact accClose_closes (hBw.trans hw) (hBh.trans hh)
  refine ⟨_, hdo, ((devOnly_upLdl _ _).mono (by simp)).trans ((hBo.mono (by simp)).trans ((devOnly_upMem _ _).mono (by simp))), ?_,
    congrArg Ldl.absorbed (hBo .ldl (by simp)), hBb⟩
  unfold Dev.accSeq
  refine List.find?_eq_none.mpr fun x hx => ?_
  have hx' := (List.mem_filter.mp hx).2
  rw [hname.1, hname.2] at hx'
  intro hc
  rw [hc] at hx'
  cases hx'

end

/-! ### Zeroisation (R183) -/

theorem mem_parts16 {p : Nat} (h : p ∈ parts16) : p < 16 := List.mem_range.mp h

/-- R183: ZERO with no partition in service. -/
theorem doZero_clears {d : Dev} (page : Bool) (n : Nat) (h : ∀ p, p < 16 → (d.part p).ready = false) :
    doZero d page n = if page then d.zeroShelf n else d.zeroStack n := by
  unfold doZero
  cases page with
  | true =>
    rw [if_pos rfl, if_pos rfl]
    refine if_neg (Bool.eq_false_iff.mp (List.any_eq_false.mpr fun p hp => ?_))
    rw [h p (mem_parts16 hp), Bool.false_and]
    exact Bool.false_ne_true
  | false =>
    rw [if_neg Bool.false_ne_true, if_neg Bool.false_ne_true]
    split
    · rename_i p hp
      rw [h p (mem_parts16 (List.mem_of_find?_eq_some hp)), if_neg Bool.false_ne_true]
    · rfl

/-! ### Scrub and temperature (R172, R173, R182) -/

/-- R182: a scrub step of an active stack whose units are sound. -/
theorem doScrubRead_steps {d : Dev} {k : Nat} (hon : d.mem.scrubOn = true) (hst : (d.stack k).state = 1) (hu : d.mem.ueUnits = []) :
    doScrubRead d k Ecc.quiet = d.upStack k (fun t =>
      if (d.stack k).scrubAt + 1 = scrubUnits then { t with scrubAt := 0, passes := (t.passes + 1) % 2 ^ 16 }
      else { t with scrubAt := (d.stack k).scrubAt + 1 }) := by
  unfold doScrubRead
  simp only [hon, hst, beq_self_eq_true, Bool.and_self, if_true, memRead_quiet d _ _ _ hu]

theorem raise_sensor (d : Dev) (n i k : Nat) : (d.raise n i).sensor k = d.sensor k := by simp only [Dev.sensor, raise_thm]

theorem setSensor_keeps (d : Dev) (n : Nat) (f : Sensor → Sensor) : ∃ D, d.setSensor n f = D ∧ DevOnly [.thm, .evc] d D ∧
    D.thm.tripped = d.thm.tripped ∧ ∃ k, D.sensor n = { f (d.sensor n) with entries := k } := by
  unfold Dev.setSensor
  dsimp only
  have hup := devOnly_upThm d (fun t => { t with sensors := tup Sensor.init t.sensors n f })
  split
  · exact ⟨_, rfl, hup.mono (by simp), rfl, (f (d.sensor n)).entries, by rw [sensor_upSensor, if_pos rfl]⟩
  · split
    · refine ⟨_, rfl, (hup.mono (by simp)).trans ((devOnly_raise _ _ _).mono (by simp)), ?_, (f (d.sensor n)).entries, ?_⟩
      · rw [raise_thm]; rfl
      · rw [raise_sensor, sensor_upSensor, if_pos rfl]
    · refine ⟨_, rfl, (hup.mono (by simp)).trans (((devOnly_upThm _ _).mono (by simp)).trans ((devOnly_raise _ _ _).mono (by simp))), ?_,
        min 4095 ((f (d.sensor n)).entries + 1), ?_⟩
      · rw [raise_thm]; rfl
      · rw [raise_sensor, sensor_upSensor, if_pos rfl, sensor_upSensor, if_pos rfl]

/-- R173, R333: the throttle that a stack's temperature `v` gives. -/
def Dev.stackThrottle (d : Dev) (s : Nat) (v : Int) : Dev :=
  if 340 < v && (d.stack s).limit = 0 then (d.upStack s (fun x => { x with limit := 7 })).raise (0xCE10 + s) (twos 16 v)
  else if v < 328 && (d.stack s).limit != 0 then (d.upStack s (fun x => { x with limit := 0 })).raise (0xCE20 + s) (twos 16 v) else d

/-- The step limit of a stack at temperature `t` after limit `l`. -/
def limitAt (t : Int) (l : Nat) : Nat := if 340 < t ∧ l = 0 then 7 else if t < 328 then 0 else l

theorem stackThrottle_limit (d : Dev) (s : Nat) (v : Int) : ∃ D, d.stackThrottle s v = D ∧ DevOnly [.mem, .evc] d D ∧
    D.mem.bytes = d.mem.bytes ∧ But s d.stack D.stack ∧ D.stack s = { d.stack s with limit := limitAt v (d.stack s).limit } := by
  have hraise : ∀ (e : Dev) n i k, (e.raise n i).stack k = e.stack k := fun e n i k => stack_same (devOnly_raise e n i .mem (by simp)) k
  have hup : ∀ l n i, DevOnly [.mem, .evc] d ((d.upStack s (fun x => { x with limit := l })).raise n i) := fun l n i =>
    ((devOnly_upMem _ _).mono (by simp)).trans ((devOnly_raise _ _ _).mono (by simp))
  unfold Dev.stackThrottle
  split
  · rename_i h
    simp only [Bool.and_eq_true, decide_eq_true_eq] at h
    refine ⟨_, rfl, hup _ _ _, by rw [raise_mem]; rfl, fun j hj => by rw [hraise, stack_upStack, if_neg hj], ?_⟩
    rw [hraise, stack_upStack, if_pos rfl, limitAt, if_pos h]
  · rename_i h
    simp only [Bool.and_eq_true, decide_eq_true_eq] at h
    split
    · rename_i h2
      simp only [Bool.and_eq_true, decide_eq_true_eq] at h2
      refine ⟨_, rfl, hup _ _ _, by rw [raise_mem]; rfl, fun j hj => by rw [hraise, stack_upStack, if_neg hj], ?_⟩
      rw [hraise, stack_upStack, if_pos rfl, limitAt, if_neg h, if_pos h2.1]
    · rename_i h2
      refine ⟨d, rfl, DevOnly.refl _ _, rfl, fun _ _ => rfl, ?_⟩
      have hl : limitAt v (d.stack s).limit = (d.stack s).limit := by
        unfold limitAt
        rw [if_neg h]
        split
        · rename_i hv
          simp [hv] at h2
          exact h2.symm
        · rfl
      rw [hl]

/-- R172, R173, R333: a plausible reading of a stack's sensor, below the trip threshold, outside a trip and outside memory training. -/
theorem doStackTempSample_cool {d : Dev} {k : Nat} {t : Int} (hlo : -160 ≤ t) (hhi : t < 380) (hf : (d.sensor (64 + k)).failed = false)
    (ht : d.thm.tripped = false) (hs : d.rst.step ≠ 3) :
    ∃ D, (doStackTempSample d k t false).resumeTraining = D ∧ DevOnly [.mem, .thm, .evc] d D ∧
      (D.sensor (64 + k)).reading = t ∧ D.mem.bytes = d.mem.bytes ∧ But k d.stack D.stack ∧
      D.stack k = { d.stack k with temp := t, hot := decide (340 ≤ t), limit := limitAt t (d.stack k).limit } := by
  obtain ⟨A, hA, hAo, hAt, n, hAs⟩ := setSensor_keeps d (64 + k) (fun x => { x with
    reading := t, failed := x.failed || false || decide (t < -160) || decide (600 < t) })
  have hfail : ((d.sensor (64 + k)).failed || false || decide (t < -160) || decide (600 < t)) = false := by
    rw [hf, decide_eq_false (by omega), decide_eq_false (by omega)]
    rfl
  have hB := devOnly_upMem A (fun m => { m with hbm := tup Stack.init m.hbm k (fun x => { x with temp := t, hot := hotRefresh t }) })
  have hBstack : ∀ j, (A.upStack k (fun x => { x with temp := t, hot := hotRefresh t })).stack j =
      if j = k then { d.stack k with temp := t, hot := hotRefresh t } else d.stack j := fun j => by
    rw [stack_upStack, stack_same (hAo .mem (by simp)), stack_same (hAo .mem (by simp))]
  have hBsensor : (A.upStack k (fun x => { x with temp := t, hot := hotRefresh t })).sensor (64 + k) = A.sensor (64 + k) := rfl
  obtain ⟨C, hC, hCo, hCb, hCbut, hCs⟩ := stackThrottle_limit (A.upStack k (fun x => { x with temp := t, hot := hotRefresh t })) k t
  have hval : (A.upStack k (fun x => { x with temp := t, hot := hotRefresh t })).stackValue k = some t := by
    unfold Dev.stackValue
    rw [hBsensor, hAs]
    simp only [hfail, Bool.false_eq_true, if_false]
  have hthm : C.thm = A.thm := hCo .thm (by simp)
  have hT := devOnly_upThm C (fun x => { x with overTrip := x.overTrip.filter (· != 32 + k) })
  have hdo : doStackTempSample d k t false = C.upThm (fun x => { x with overTrip := x.overTrip.filter (· != 32 + k) }) := by
    have hrel : (C.upThm (fun x => { x with overTrip := x.overTrip.filter (· != 32 + k) })).thm.tripped = false :=
      (congrArg Thm.tripped hthm).trans (hAt.trans ht)
    unfold doStackTempSample Dev.reading
    simp only [hA, hval]
    rw [show ∀ e : Dev, (if 340 < t && (e.stack k).limit = 0 then (e.upStack k (fun x => { x with limit := 7 })).raise (0xCE10 + k) (twos 16 t)
      else if t < 328 && (e.stack k).limit != 0 then (e.upStack k (fun x => { x with limit := 0 })).raise (0xCE20 + k) (twos 16 t) else e) =
        e.stackThrottle k t from fun _ => rfl, hC]
    unfold Dev.tripCheck Dev.tripRelease
    rw [if_pos hhi, hrel]
    rfl
  have hall := ((hAo.mono (cs := [.mem, .thm, .evc]) (by simp)).trans (hB.mono (by simp))).trans ((hCo.mono (by simp)).trans (hT.mono (by simp)))
  have hstep : ((C.upThm (fun x => { x with overTrip := x.overTrip.filter (· != 32 + k) })).rst.step = 3) = False :=
    eq_false (by rw [show Dev.rst _ = d.rst from hall .rst (by simp)]; exact hs)
  refine ⟨_, ?_, hall, ?_, ?_, fun j hj => ?_, ?_⟩
  · rw [hdo]
    unfold Dev.resumeTraining
    simp only [hstep, decide_false, Bool.false_and, Bool.false_eq_true, if_false]
  · show (C.sensor (64 + k)).reading = t
    simp only [Dev.sensor, hthm]
    exact congrArg Sensor.reading hAs
  · exact hCb.trans (show A.mem.bytes = d.mem.bytes from congrArg Mem.bytes (hAo .mem (by simp)))
  · exact (hCbut j hj).trans ((hBstack j).trans (if_neg hj))
  · refine hCs.trans ?_
    rw [hBstack, if_pos rfl]
    rfl

end Sys2Proof.Machine
end

section
/-! PROOFS. The obligation about the memory base dies. -/

open Sys2Proof Sys2Proof.Machine

/-- Settles O33. -/
theorem memoryAccessesScrubAndAccumulation : Obligations.MemoryAccessesScrubAndAccumulation := by
  refine ⟨fun s p r va n bs hp hold => ⟨fun l hr h => ?_, fun l hr h => ?_, fun hr c hc => ?_⟩,
    fun s st tag addr len n fmt p plan hst hp hpl hold => fun hw hc => ?_,
    fun s st tag pos data a hst hold ha hn hu => ⟨fun hpos hn1 h0 h1 => ?_, fun hpos hh hroom => ?_, fun hpos => ?_⟩,
    fun s st tag a hst hold ha hw hh => ?_, fun s page n hn hold hr => ?_,
    fun s k hk => ⟨fun hon hst hu => ?_, fun t hlo hhi hf ht hstep => ?_⟩, fun s p hp hr => ?_⟩
  · exact runs_unitWork (f := fun d => doNmuRead d p r va n Ecc.quiet) rfl (decide_eq_true hp) hold (doNmuRead_admitted hr h) (devOnly_emit _ _) rfl
  · obtain ⟨ho, hb⟩ := doNmuWrite_admitted hr h
    exact runs_unitWork (f := fun d => doNmuWrite d p r va bs) rfl (decide_eq_true hp) hold rfl (ho.mono (by simp))
      ⟨hb, fun a ha => by rw [hb]; exact memPuts_get _ _ _ _ ha⟩
  · simp only [List.mem_cons, List.not_mem_nil, or_false] at hc
    rcases hc with rfl | rfl
    · exact runs_unitWork (f := fun d => doNmuRead d p r va n Ecc.quiet) rfl (decide_eq_true hp) hold
        (doNmu_notReady (bs := bs) hr _).1 (devOnly_emit _ _) rfl
    · exact runs_unitWork (f := fun d => doNmuWrite d p r va bs) rfl (decide_eq_true hp) hold
        (doNmu_notReady (n := n) hr Ecc.quiet).2 (devOnly_emit _ _) rfl
  · exact runs_unitWork (f := fun d => doAccOpen d ⟨st, tag, addr, len, n, fmt, p, plan, 0, []⟩) rfl (decide_eq_true ⟨hst, hp, hpl⟩) hold
      (doAccOpen_opens hw hc) (devOnly_upMem _ _) rfl
  · subst hpos
    obtain ⟨D, hD, ho, hs, hb⟩ := accOne_merges (data := data) ha hu hn1 h0 h1
    refine runs_unitWorkN (f := fun d => doAccApply d st tag a.next data (crc32c data) Ecc.quiet) rfl (decide_eq_true hst) hold
      (doAccApply_of hD (by simp) (by simp)) (ho.mono (by simp)) (by simp) (by simp) ⟨?_, ?_⟩
    · rw [report_mem, hb]
    · simp only [Dev.accSeq, report_mem]
      exact hs
  · have hD := accOne_held (data := data) ha hn hpos hh hroom
    refine runs_unitWorkN (f := fun d => doAccApply d st tag pos data (crc32c data) Ecc.quiet) rfl (decide_eq_true hst) hold
      (doAccApply_of hD (by simp) (by simp)) ((devOnly_upMem _ _).mono (by simp)) (by simp) (by simp) ⟨?_, ?_⟩
    · rw [report_mem]; rfl
    · simp only [Dev.accSeq, report_mem]
      exact accSeq_up ha (fun x => { x with held := tset none x.held pos (some data) }) ⟨rfl, rfl⟩ rfl
  · have hD := accOne_dup (data := data) ha hpos
    refine runs_unitWorkN (f := fun d => doAccApply d st tag pos data (crc32c data) Ecc.quiet) rfl (decide_eq_true hst) hold
      (doAccApply_of hD (by simp) (by simp)) ((devOnly_upMem _ _).mono (by simp)) (by simp) (by simp) ?_
    rw [report_mem]
    rfl
  · obtain ⟨D, hD, ho, h1, h2, h3⟩ := doAccAbort_closes ha hw hh
    exact runs_unitWork (f := fun d => doAccAbort d st tag) rfl (decide_eq_true hst) hold hD ho ⟨h1, h2, h3⟩
  · have hdo := doZero_clears page n hr
    refine runs_unitWork (f := fun d => doZero d page n) rfl (decide_eq_true hn) hold hdo ?_ fun a => ?_
    · exact DevOnly.ite (devOnly_zeroShelf _ _) (devOnly_zeroStack _ _)
    · cases page with
      | true => exact tget_clear 0 s.dev.mem.bytes (shelfBase + n * 0x200000) (shelfBase + n * 0x200000 + 0x200000) a
      | false => exact tget_clear 0 s.dev.mem.bytes (n * stackSize) (n * stackSize + stackSize) a
  · refine runs_unitDev (f := fun d => doScrubRead d k Ecc.quiet) rfl (decide_eq_true hk) (doScrubRead_steps hon hst hu) (devOnly_upMem _ _)
      ⟨?_, fun j hj => ?_, rfl⟩
    · rw [stack_upStack, if_pos rfl]
    · rw [stack_upStack, if_neg hj]
  · obtain ⟨D, hD, ho, h1, h2, h3, h4⟩ := doStackTempSample_cool hlo hhi hf ht hstep
    refine runs_unitDevN (f := fun d => (doStackTempSample d k t false).resumeTraining) rfl (decide_eq_true hk) hD (ho.mono (by simp))
      (by simp) (by simp) ?_
    simp only [report_sensor, report_stack, report_mem, But]
    rw [h4]
    exact ⟨h1, rfl, rfl, rfl, rfl, h3, h2⟩
  · refine runs_onReg (f := fun d => doRegionClear d .host p) (unitOk_true (decide_eq_true hp)) hr (by simp) (by simp) (by simp) (by simp)
      (fun d _ => (devOnly_upPart _ _ _).mono (by simp)) fun d hd => ⟨?_, fun j hj => ?_⟩
    · rw [report_part]
      exact (part_upPart _ _ _ _).trans ((if_pos rfl).trans (by rw [part_same (hd .mld (by simp))]))
    · rw [report_part]
      exact (part_upPart _ _ _ _).trans ((if_neg hj).trans (part_same (hd .mld (by simp)) j))

end

section
/-! PROOFS. Flits that arrive, loss of a port (R202–R213). -/

namespace Sys2Proof.Machine

/-! ### Events without an information field -/

theorem src_raiseAny_ne (d : Dev) (n : Nat) {j : Nat} (h : j ≠ n) : (d.raiseAny n).src j = d.src j := by
  unfold Dev.raiseAny
  rw [src_raise_ne _ _ _ h]
  rfl

theorem Raises.of_same {n : Nat} {d e g : Dev} (h : e.src n = d.src n) (hr : Raises n e g) : Raises n d g := by
  unfold Raises at *
  rwa [h] at hr

/-- What a raising leaves as it is does not undo it. -/
theorem Raises.then {n : Nat} {d e g : Dev} (hr : Raises n d e) (h : g.src n = e.src n) : Raises n d g := by
  unfold Raises at *
  rwa [h]

theorem raises_raiseAny (d : Dev) (n : Nat) : Raises n d (d.raiseAny n) := fun hb hp =>
  pending_raise (d := (d.draw 48).2) hb hp

theorem raisesOnly_raise (d : Dev) (n i : Nat) : RaisesOnly n i d (d.raise n i) :=
  ⟨fun hb hp => pending_raise hb hp, fun _ hj => src_raise_ne _ _ _ hj, fun hb hp => by rw [src_raise hb hp, if_pos rfl]⟩

/-! ### One port set, the others as they were -/

/-- `e` is `d` with port `p` set to `y`. -/
def SetsPort (p : Nat) (y : Port) (d e : Dev) : Prop := DevOnly [.ports] d e ∧ e.port p = y ∧ But p d.port e.port

theorem setsPort_upPort (d : Dev) (p : Nat) (f : Port → Port) : SetsPort p (f (d.port p)) d (d.upPort p f) :=
  ⟨devOnly_upPort _ _ _, by rw [port_upPort, if_pos rfl], fun q hq => by rw [port_upPort, if_neg hq]⟩

theorem SetsPort.trans {p : Nat} {y z : Port} {d e g : Dev} (h : SetsPort p y d e) (k : SetsPort p z e g) : SetsPort p z d g :=
  ⟨h.1.trans k.1, k.2.1, fun q hq => (k.2.2 q hq).trans (h.2.2 q hq)⟩

theorem SetsPort.refl (d : Dev) (p : Nat) : SetsPort p (d.port p) d d := ⟨DevOnly.refl _ _, rfl, fun _ _ => rfl⟩

/-- A further update of the port that was set. -/
theorem SetsPort.up {p : Nat} {y : Port} {d e : Dev} (h : SetsPort p y d e) (f : Port → Port) : SetsPort p (f y) d (e.upPort p f) := by
  have := h.trans (setsPort_upPort e p f)
  rwa [h.2.1] at this

/-- R204: with nothing waiting to be sent, nothing is sent. -/
theorem pump_idle {d : Dev} {p : Nat} (h : (d.port p).txq = []) : SetsPort p (d.port p) d (d.pump p) := by
  have hp : d.pump p = d.upPort p (fun _ => d.port p) := by
    unfold Dev.pump
    rw [h]
    rfl
  rw [hp]
  exact setsPort_upPort d p (fun _ => d.port p)

/-! ### What every flit's way in does (R202, R203, R205) -/

theorem ack_keeps (x : Port) (a : Nat) : x.ack a = { x with retry := (x.ack a).retry } := by
  unfold Port.ack
  split <;> rfl

theorem common_keeps (x : Port) (w : Nat) : x.common w = { x with
    retry := (x.common w).retry, xoffIn := (x.common w).xoffIn, newTx := (x.common w).newTx } := by
  unfold Port.common
  split
  · rw [ack_keeps]
  · rfl

section
variable {d : Dev} {p ty : Nat} {f : Flit} {body : Dev → Dev}

theorem up_states {x : Port} (h : x.up = true) : x.state = 2 ∨ x.state = 3 ∨ x.state = 6 := by
  simpa [Port.up, Port.inService, or_assoc] using h

/-- R202, R203: a good flit on a port that is up, with nothing waiting to be sent: the fields it carries, then its type's effect. -/
theorem recvFlit_good (hup : (d.port p).up = true) (hq : (d.port p).txq = []) (hf : GoodFlit f ty) (ht : ty < 5) :
    ∃ E, d.recvFlit p ty f body = body E ∧ SetsPort p ((d.port p).common f.word) d E := by
  obtain ⟨hfec, hok, hty⟩ := hf
  have hset := setsPort_upPort d p (fun x => x.common f.word)
  have hidle : ((d.upPort p (fun x => x.common f.word)).port p).txq = [] := by
    rw [hset.2.1, common_keeps]
    exact hq
  have hpump := pump_idle hidle
  rw [hset.2.1] at hpump
  refine ⟨_, ?_, hset.trans hpump⟩
  unfold Dev.recvFlit
  have hty5 : ¬5 ≤ ty := by omega
  rcases up_states hup with hs | hs | hs <;>
    simp only [hs, hfec, hok, hty, hup, hty5, Bool.not_true, Bool.false_eq_true, decide_false, Bool.or_self, if_false, if_true,
      bne_self_eq_false, Nat.reduceEqDiff]

/-- As recvFlit_good, of a port in training: the type's effect alone. -/
theorem recvFlit_training (hs : (d.port p).state = 1) (hf : GoodFlit f ty) (ht : ty < 5) : d.recvFlit p ty f body = body d := by
  obtain ⟨hfec, hok, hty⟩ := hf
  have hup : (d.port p).up = false := by simp [Port.up, Port.inService, hs]
  have hty5 : ¬5 ≤ ty := by omega
  unfold Dev.recvFlit
  simp only [hs, hfec, hok, hty, hup, hty5, Bool.not_true, Bool.false_eq_true, decide_false, Bool.or_self, if_false,
    bne_self_eq_false, Nat.reduceEqDiff]

theorem up_common {x : Port} (w : Nat) : (x.common w).up = x.up := by rw [common_keeps]; rfl

/-- The NAKs that a gap on port `x` adds to `o`. -/
def nakOut (p : Nat) (x : Port) (o : List Out) : List Out := if x.waitNak then o else .nak p ((x.rxSeq + 4095) % 4096) :: o

/-- R205: a gap: one NAK until the expected sequence arrives. -/
theorem flitGap_naks {E : Dev} {y : Port} (h : SetsPort p y d E) (hup : y.up = true) :
    ∃ D, E.flitGap p = D ∧ DevOnly [.ports, .out] d D ∧ D.port p = { y with waitNak := true } ∧ D.out = nakOut p y d.out ∧
      But p d.port D.port := by
  have hy := h.2.1
  unfold Dev.flitGap nakOut
  rw [hy, hup]
  have hout : E.out = d.out := h.1 .out (by simp)
  cases hw : y.waitNak with
  | true =>
    refine ⟨E, rfl, h.1.mono (by simp), ?_, hout, h.2.2⟩
    rw [hy, ← hw]
  | false =>
    have hu := h.up (fun x => { x with waitNak := true })
    refine ⟨_, rfl, (hu.1.mono (by simp)).trans ((devOnly_emit _ _).mono (by simp)), hu.2.1, ?_, hu.2.2⟩
    show Out.nak p ((((E.upPort p (fun x => { x with waitNak := true })).port p).rxSeq + 4095) % 4096) :: E.out = _
    rw [hu.2.1, hout]
    rfl

/-- R203: a flit that fails its FEC or its CRC is only counted, and asked for again. -/
theorem recvFlit_bad (hup : (d.port p).up = true) (hbad : f.badFec = true ∨ flitOk f = false) :
    ∃ D, d.recvFlit p ty f body = D ∧ DevOnly [.ports, .out] d D ∧ D.port p = (if f.badFec then { d.port p with
        fecUe := satAdd 32 (d.port p).fecUe 1, waitNak := true }
      else { d.port p with crcErr := satAdd 32 (d.port p).crcErr 1, waitNak := true }) ∧ D.out = nakOut p (d.port p) d.out ∧ But p d.port D.port := by
  have hty : ∀ E, (E = d.upPort p (fun x => { x with fecUe := satAdd 32 x.fecUe 1 }) → f.badFec = true → d.recvFlit p ty f body = E.flitGap p) ∧
      (E = d.upPort p (fun x => { x with crcErr := satAdd 32 x.crcErr 1 }) → f.badFec = false → flitOk f = false →
        d.recvFlit p ty f body = E.flitGap p) := by
    rintro E
    unfold Dev.recvFlit
    refine ⟨?_, ?_⟩
    · rintro rfl hfec
      rcases up_states hup with hs | hs | hs <;>
        simp only [hs, hfec, decide_false, Bool.or_self, Bool.false_eq_true, if_false, if_true, Nat.reduceEqDiff]
    · rintro rfl hfec hok
      rcases up_states hup with hs | hs | hs <;>
        simp only [hs, hfec, hok, Bool.not_false, Bool.true_or, decide_false, Bool.or_self, Bool.false_eq_true, if_false, if_true, Nat.reduceEqDiff]
  cases hfec : f.badFec with
  | true =>
    rw [(hty _).1 rfl hfec]
    exact flitGap_naks (setsPort_upPort d p (fun x => { x with fecUe := satAdd 32 x.fecUe 1 })) hup
  | false =>
    rw [(hty _).2 rfl hfec (hbad.resolve_left (by simp [hfec]))]
    exact flitGap_naks (setsPort_upPort d p (fun x => { x with crcErr := satAdd 32 x.crcErr 1 })) hup

end

/-! ### DATA (R205, R218, R229) -/

/-- R218: a gathered flit: the VC it is of, the other VCs, all else of the port. -/
theorem gather_keeps (x : Port) (v : Nat) (bs : Bytes) :
    let b := tget [] x.partIn v ++ slice bs 0 256
    let y := x.gather v bs
    y = { x with partIn := y.partIn, inBuf := y.inBuf } ∧
    (if packetSize b ≤ b.length then tget [] y.inBuf v = tget [] x.inBuf v ++ [parsePacket b] ∧ tget [] y.partIn v = []
      else tget [] y.partIn v = b ∧ y.inBuf = x.inBuf) ∧
    ∀ w, w ≠ v → tget [] y.inBuf w = tget [] x.inBuf w ∧ tget [] y.partIn w = tget [] x.partIn w := by
  intro b y
  have hy : y = if packetSize b ≤ b.length then
      { x with partIn := tset [] x.partIn v [], inBuf := tset [] x.inBuf v (tget [] x.inBuf v ++ [parsePacket b]) }
    else { x with partIn := tset [] x.partIn v b } := rfl
  rw [hy]
  split
  · refine ⟨rfl, ⟨by rw [tget_set, if_pos rfl], by rw [tget_set, if_pos rfl]⟩, fun w hw => ⟨by rw [tget_set, if_neg hw], by rw [tget_set, if_neg hw]⟩⟩
  · exact ⟨rfl, ⟨by rw [tget_set, if_pos rfl], rfl⟩, fun w hw => ⟨rfl, by rw [tget_set, if_neg hw]⟩⟩

/-- R227, R229: room for a flit depends on what the input buffers hold. -/
theorem fits_congr {x y : Port} (h1 : y.inBuf = x.inBuf) (h2 : y.partIn = x.partIn) (v : Nat) : y.fits v = x.fits v := by
  have hocc : y.occ = x.occ := funext fun v => by simp only [Port.occ, h1, h2]
  have habove : y.above = x.above := funext fun v => by rw [Port.above, Port.above, hocc]
  have hpool : y.pool = x.pool := by rw [Port.pool, Port.pool, habove]
  have hhead : y.head = x.head := by rw [Port.head, Port.head, habove, hpool]
  rw [Port.fits, Port.fits, hocc, hpool, hhead]

theorem fits_common (x : Port) (w v : Nat) : (x.common w).fits v = x.fits v := by
  have h := common_keeps x w
  exact fits_congr (by rw [h]) (by rw [h]) v

/-! ### Loss of a port (R43, R213, R236) -/

/-- R43: a port in state `st`, everything it held released and counted. -/
def Port.released (x : Port) (st : Nat) : Port :=
  { x with
    state := st,
    lostFl := satAdd 32 x.lostFl (x.retry.length + x.txq.length),
    partialRx := satAdd 32 x.partialRx (x.partIn.filter (fun kv => kv.2 != [])).length,
    retry := [], txq := [], partIn := [], waitNak := false, mapPend := false, newTx := none, xoffIn := 0, xoffOut := 0,
    txMask := 0, rxMask := 0, retrain := 0, partVal := false }

theorem breakRunners_keeps (d : Dev) (p : Nat) : DevOnly [.rte, .evc, .free] d (d.breakRunners p) ∧
    ∀ j, j ≠ 0xC4A5 → (d.breakRunners p).src j = d.src j := by
  unfold Dev.breakRunners
  refine ⟨DevOnly.trans ((devOnly_upRte _ _).mono (by simp)) (devOnly_each _ _ (fun _ _ => (devOnly_raiseAny _ _).mono (by simp)) _), fun j hj => ?_⟩
  exact (each_inv (fun d => d.src j) _ (fun d _ => d.raiseAny 0xC4A5) (fun d _ => src_raiseAny_ne d _ hj) _).trans rfl

theorem releasePort_releases (d : Dev) (p st : Nat) : ∃ D, d.releasePort p st = D ∧ DevOnly [.ports, .rte, .evc, .free] d D ∧
    D.port p = (d.port p).released st ∧ But p d.port D.port ∧ ∀ j, j ≠ 0xC4A5 → D.src j = d.src j := by
  obtain ⟨ho, hp, hb⟩ := setsPort_upPort d p (fun x => x.released st)
  obtain ⟨hk, hsrc⟩ := breakRunners_keeps (d.upPort p (fun x => x.released st)) p
  have hports := hk .ports (by simp)
  exact ⟨_, rfl, (ho.mono (by simp)).trans (hk.mono (by simp)), (port_same hports p).trans hp, fun q hq => (port_same hports q).trans (hb q hq),
    fun j hj => (hsrc j hj).trans rfl⟩

/-- R213: a port declared lost. -/
theorem portLost_loses (d : Dev) {p : Nat} (hp : p < 18) : ∃ D, d.portLost p = D ∧ DevOnly [.ports, .rte, .evc, .free] d D ∧
    D.port p = { (d.port p).released 4 with losses := satAdd 16 (d.port p).losses 1 } ∧ But p d.port D.port ∧
    Raises (0xC400 + p) d D ∧ ∀ j, j ≠ 0xC4A5 → j ≠ 0xC400 + p → D.src j = d.src j := by
  obtain ⟨R, hR, hRo, hRp, hRb, hRs⟩ := releasePort_releases d p 4
  obtain ⟨ho, hport, hb⟩ := setsPort_upPort R p (fun x => { x with losses := satAdd 16 x.losses 1 })
  have hsrc : ∀ j, (R.upPort p (fun x => { x with losses := satAdd 16 x.losses 1 })).src j = R.src j := fun _ => rfl
  unfold Dev.portLost
  rw [hR]
  generalize R.upPort p _ = U at *
  have hraise := devOnly_raiseAny U (0xC400 + p)
  have hports := hraise .ports (by simp)
  refine ⟨_, rfl, hRo.trans ((ho.mono (by simp)).trans (hraise.mono (by simp))), ?_, fun q hq => ?_, ?_, fun j h1 h2 => ?_⟩
  · rw [port_same hports, hport, hRp]
    rfl
  · rw [port_same hports, hb q hq, hRb q hq]
  · refine (raises_raiseAny U (0xC400 + p)).of_same ?_
    rw [hsrc, hRs _ (by omega)]
  · rw [src_raiseAny_ne _ _ h2, hsrc, hRs j h1]

/-! ### Replay (R205, R207) -/

theorem emits_flits (d : Dev) (p : Nat) (l : List RetryFlit) : ∃ D, d.each l (fun d g => d.emit (.flit p g.seq g.vc g.last)) = D ∧
    DevOnly [.out] d D ∧ D.out = (l.map (fun r => Out.flit p r.seq r.vc r.last)).reverse ++ d.out := by
  refine ⟨_, rfl, devOnly_each _ _ (fun _ _ => devOnly_emit _ _) _, ?_⟩
  induction l generalizing d with
  | nil => rfl
  | cons g l ih =>
    refine (ih (d.emit (.flit p g.seq g.vc g.last))).trans ?_
    rw [List.map_cons, List.reverse_cons, List.append_assoc]
    rfl

section
variable {d : Dev} {p : Nat} {g : RetryFlit} {l : List RetryFlit}

/-- How many replays in a row have begun with the sequence of `g`. -/
def Port.rowOf (x : Port) (g : RetryFlit) : Nat := if x.lastNak = g.seq then x.nakRow + 1 else 1

theorem replay_sends (h : (d.port p).retry.filter (fun r => !r.acked) = g :: l) (hrow : (d.port p).rowOf g < 16) :
    ∃ D, d.replay p = D ∧ DevOnly [.ports, .out] d D ∧
      D.port p = { d.port p with replays := satAdd 32 (d.port p).replays 1, lastNak := g.seq, nakRow := (d.port p).rowOf g } ∧
      But p d.port D.port ∧ D.out = ((g :: l).map (fun r => Out.flit p r.seq r.vc r.last)).reverse ++ d.out := by
  obtain ⟨ho, hp, hb⟩ := setsPort_upPort d p (fun x => { x with
    replays := satAdd 32 x.replays 1, lastNak := g.seq, nakRow := (d.port p).rowOf g })
  obtain ⟨D, hD, hDo, hout⟩ := emits_flits (d.upPort p (fun x => { x with
    replays := satAdd 32 x.replays 1, lastNak := g.seq, nakRow := (d.port p).rowOf g })) p (g :: l)
  have hports := hDo .ports (by simp)
  refine ⟨D, ?_, (ho.mono (by simp)).trans (hDo.mono (by simp)), (port_same hports p).trans hp, fun q hq => (port_same hports q).trans (hb q hq),
    hout⟩
  unfold Dev.replay
  dsimp only
  rw [h]
  exact (if_neg (Nat.not_le.mpr hrow)).trans hD

theorem replay_loses (hp18 : p < 18) (h : (d.port p).retry.filter (fun r => !r.acked) = g :: l) (hrow : 16 ≤ (d.port p).rowOf g) :
    ∃ D, d.replay p = D ∧ DevOnly [.ports, .rte, .evc, .free] d D ∧ (D.port p).state = 4 ∧ (D.port p).losses = satAdd 16 (d.port p).losses 1 ∧
      But p d.port D.port := by
  obtain ⟨ho, hp, hb⟩ := setsPort_upPort d p (fun x => { x with
    replays := satAdd 32 x.replays 1, lastNak := g.seq, nakRow := (d.port p).rowOf g })
  obtain ⟨D, hD, hDo, hDp, hDb, -⟩ := portLost_loses (d.upPort p (fun x => { x with
    replays := satAdd 32 x.replays 1, lastNak := g.seq, nakRow := (d.port p).rowOf g })) hp18
  rw [hp] at hDp
  refine ⟨D, ?_, (ho.mono (by simp)).trans hDo, by rw [hDp]; rfl, by rw [hDp], fun q hq => (hDb q hq).trans (hb q hq)⟩
  unfold Dev.replay
  dsimp only
  rw [h]
  exact (if_pos hrow).trans hD

end

end Sys2Proof.Machine
end

section
/-! PROOFS. What each type of flit does to its port (R202, R205, R208, R211, R212, R229). -/

namespace Sys2Proof.Machine

section
variable {d : Dev} {p : Nat} {f : Flit}

/-- The port of `d` after the fields that every flit carries. -/
theorem flit_taken (ty : Nat) (ht : ty < 5) (body : Dev → Dev) (hup : (d.port p).up = true) (hq : (d.port p).txq = []) (hf : GoodFlit f ty) :
    ∃ E, d.recvFlit p ty f body = body E ∧ SetsPort p ((d.port p).common f.word) d E ∧ (E.port p).up = true := by
  obtain ⟨E, hE, hs⟩ := recvFlit_good (body := body) hup hq hf ht
  exact ⟨E, hE, hs, by rw [hs.2.1, up_common, hup]⟩

/-! ### DATA -/

/-- R205, R218: what a DATA flit that is taken leaves of port `x`. -/
def Port.takeData (x : Port) (vc : Nat) (bs : Bytes) : Port :=
  (({ x with rxSeq := (x.rxSeq + 1) % 4096, rxAny := true, waitNak := false, mapPend := false } : Port).gather vc bs).reXoff

/-- R218: the parts of a port after a DATA flit that was taken. -/
theorem takeData_keeps (x : Port) (v : Nat) (bs : Bytes) :
    let b := tget [] x.partIn v ++ slice bs 0 256
    let y := x.takeData v bs
    y.rxSeq = (x.rxSeq + 1) % 4096 ∧ y.rxAny = true ∧ y.waitNak = false ∧ y.state = x.state ∧ y.retry = x.retry ∧
    (if packetSize b ≤ b.length then tget [] y.inBuf v = tget [] x.inBuf v ++ [parsePacket b] ∧ tget [] y.partIn v = []
      else tget [] y.partIn v = b ∧ y.inBuf = x.inBuf) ∧
    ∀ w, w ≠ v → tget [] y.inBuf w = tget [] x.inBuf w ∧ tget [] y.partIn w = tget [] x.partIn w := by
  intro b y
  obtain ⟨hy, hv, hw⟩ := gather_keeps { x with rxSeq := (x.rxSeq + 1) % 4096, rxAny := true, waitNak := false, mapPend := false } v bs
  have hfield : ∀ g : Port, y = g.reXoff → y.inBuf = g.inBuf ∧ y.partIn = g.partIn ∧ y.rxSeq = g.rxSeq ∧ y.rxAny = g.rxAny ∧
      y.waitNak = g.waitNak ∧ y.state = g.state ∧ y.retry = g.retry := fun g h => by
    rw [h]
    exact ⟨rfl, rfl, rfl, rfl, rfl, rfl, rfl⟩
  obtain ⟨h1, h2, h3, h4, h5, h6, h7⟩ := hfield _ rfl
  rw [h1, h2, h3, h4, h5, h6, h7]
  generalize Port.gather _ v bs = g at hy hv hw
  refine ⟨?_, ?_, ?_, ?_, ?_, hv, hw⟩ <;> rw [hy]

theorem doFlitData_takes (hup : (d.port p).up = true) (hq : (d.port p).txq = []) (hf : GoodFlit f 0) (hseq : f.word % 4096 = (d.port p).rxSeq)
    (hfit : (d.port p).fits (fld f.word 27 25) = true) :
    ∃ D, doFlitData d p f = D ∧ SetsPort p (((d.port p).common f.word).takeData (fld f.word 27 25) f.bytes) d D := by
  unfold doFlitData
  obtain ⟨E, hE, hs, hEup⟩ := flit_taken 0 (by decide) _ hup hq hf
  have hrx : (E.port p).rxSeq = (d.port p).rxSeq := by rw [hs.2.1, common_keeps]
  have hfit' : (E.port p).fits (fld f.word 27 25) = true := by rw [hs.2.1, fits_common, hfit]
  rw [hE]
  refine ⟨_, ?_, hs.up (fun x => x.takeData (fld f.word 27 25) f.bytes)⟩
  simp only [hEup, Bool.not_true, Bool.false_eq_true, if_false, hseq, hrx, if_true, hfit']
  rfl

/-- R205: a DATA flit of another sequence, ahead of or behind the one expected. -/
theorem doFlitData_gap (hup : (d.port p).up = true) (hq : (d.port p).txq = []) (hf : GoodFlit f 0) (hseq : f.word % 4096 ≠ (d.port p).rxSeq) :
    ∃ E, SetsPort p ((d.port p).common f.word) d E ∧
      doFlitData d p f = if (f.word % 4096 + 4096 - (d.port p).rxSeq) % 4096 < 2048 then E.flitGap p else E := by
  unfold doFlitData
  obtain ⟨E, hE, hs, hEup⟩ := flit_taken 0 (by decide) _ hup hq hf
  have hrx : (E.port p).rxSeq = (d.port p).rxSeq := by rw [hs.2.1, common_keeps]
  rw [hE]
  refine ⟨E, hs, ?_⟩
  simp only [hEup, Bool.not_true, Bool.false_eq_true, if_false, hrx, hseq]

/-- R229: a DATA flit that finds no room. -/
theorem doFlitData_full (hup : (d.port p).up = true) (hq : (d.port p).txq = []) (hf : GoodFlit f 0) (hseq : f.word % 4096 = (d.port p).rxSeq)
    (hfit : (d.port p).fits (fld f.word 27 25) = false) :
    ∃ D, doFlitData d p f = D ∧ DevOnly [.ports, .rte, .out] d D ∧ D.port p = { (d.port p).common f.word with waitNak := true } ∧
      D.rte = { d.rte with headOvf := satAdd 32 d.rte.headOvf 1 } ∧ D.out = nakOut p (d.port p) d.out ∧ But p d.port D.port := by
  unfold doFlitData
  obtain ⟨E, hE, hs, hEup⟩ := flit_taken 0 (by decide) _ hup hq hf
  have hrx : (E.port p).rxSeq = (d.port p).rxSeq := by rw [hs.2.1, common_keeps]
  have hfit' : (E.port p).fits (fld f.word 27 25) = false := by rw [hs.2.1, fits_common, hfit]
  rw [hE]
  simp only [hEup, Bool.not_true, Bool.false_eq_true, if_false, hseq, hrx, if_true, hfit']
  have hR := devOnly_upRte E (fun r => { r with headOvf := satAdd 32 r.headOvf 1 })
  have hset : SetsPort p ((d.port p).common f.word) (E.upRte (fun r => { r with headOvf := satAdd 32 r.headOvf 1 }))
      (E.upRte (fun r => { r with headOvf := satAdd 32 r.headOvf 1 })) := by
    have := SetsPort.refl (E.upRte (fun r => { r with headOvf := satAdd 32 r.headOvf 1 })) p
    rwa [show (E.upRte (fun r => { r with headOvf := satAdd 32 r.headOvf 1 })).port p = (d.port p).common f.word from hs.2.1] at this
  obtain ⟨D, hD, ho, hp, hout, hb⟩ := flitGap_naks hset (by rw [up_common, hup])
  refine ⟨D, hD, (hs.1.mono (by simp)).trans ((hR.mono (by simp)).trans (ho.mono (by simp))), hp, ?_, ?_, fun q hq' => (hb q hq').trans (hs.2.2 q hq')⟩
  · rw [show D.rte = _ from ho .rte (by simp)]
    show { E.rte with headOvf := satAdd 32 E.rte.headOvf 1 } = _
    rw [show E.rte = d.rte from hs.1 .rte (by simp)]
  · rw [hout, show (E.upRte (fun r => { r with headOvf := satAdd 32 r.headOvf 1 })).out = d.out from hs.1 .out (by simp), common_keeps]
    rfl

/-! ### IDLE, NAK, LANEMAP -/

theorem doFlitIdle_named (hup : (d.port p).up = true) (hq : (d.port p).txq = []) (hf : GoodFlit f 1)
    (hn : le f.bytes 0 4 % 2 ^ 20 = (d.port p).partner ∧ le f.bytes 4 1 = (d.port p).partPort) :
    ∃ D, doFlitIdle d p f = D ∧ SetsPort p ((d.port p).common f.word) d D := by
  unfold doFlitIdle
  obtain ⟨E, hE, hs, -⟩ := flit_taken 1 (by decide) _ hup hq hf
  have hpart : (E.port p).partner = (d.port p).partner ∧ (E.port p).partPort = (d.port p).partPort := by rw [hs.2.1, common_keeps]; exact ⟨rfl, rfl⟩
  rw [hE]
  refine ⟨E, ?_, hs⟩
  simp only [hpart.1, hpart.2, hn.1, hn.2, bne_self_eq_false, Bool.or_self, Bool.and_false, Bool.false_eq_true, if_false]

/-- R212: an IDLE flit of another sender: the wrong wiring. -/
theorem doFlitIdle_wrong (hp : p < 18) (hup : (d.port p).up = true) (hq : (d.port p).txq = []) (hf : GoodFlit f 1)
    (hn : ¬(le f.bytes 0 4 % 2 ^ 20 = (d.port p).partner ∧ le f.bytes 4 1 = (d.port p).partPort)) :
    ∃ D, doFlitIdle d p f = D ∧ DevOnly [.ports, .rte, .evc, .free] d D ∧ (D.port p).state = 5 ∧
      (D.port p).losses = satAdd 16 (d.port p).losses 1 ∧ (D.port p).retry = [] ∧ Raises (0xC440 + p) d D ∧ But p d.port D.port := by
  unfold doFlitIdle
  obtain ⟨E, hE, hs, hEup⟩ := flit_taken 1 (by decide) _ hup hq hf
  have hpart : (E.port p).partner = (d.port p).partner ∧ (E.port p).partPort = (d.port p).partPort := by rw [hs.2.1, common_keeps]; exact ⟨rfl, rfl⟩
  have hc : ((E.port p).up && (le f.bytes 0 4 % 2 ^ 20 != (E.port p).partner || le f.bytes 4 1 != (E.port p).partPort)) = true := by
    rw [hEup, hpart.1, hpart.2]
    by_cases h1 : le f.bytes 0 4 % 2 ^ 20 = (d.port p).partner
    · have h2 : le f.bytes 4 1 ≠ (d.port p).partPort := fun h2 => hn ⟨h1, h2⟩
      simp only [bne_iff_ne.mpr h2, Bool.or_true, Bool.and_self]
    · simp only [bne_iff_ne.mpr h1, Bool.true_or, Bool.and_self]
  rw [hE]
  simp only [hc, if_true]
  obtain ⟨L, hL, hLo, hLp, hLb, -, hLs⟩ := portLost_loses E hp
  obtain ⟨hUo, hUp, hUb⟩ := setsPort_upPort L p (fun x => { x with state := 5 })
  have hUs : ∀ j, (L.upPort p (fun x => { x with state := 5 })).src j = L.src j := fun _ => rfl
  rw [hL]
  generalize L.upPort p _ = U at *
  have hR := devOnly_raise U (0xC440 + p) (le f.bytes 0 4 % 2 ^ 20)
  have hports := hR .ports (by simp)
  have hport : (U.raise (0xC440 + p) (le f.bytes 0 4 % 2 ^ 20)).port p = { ((E.port p).released 4) with
      state := 5, losses := satAdd 16 (E.port p).losses 1 } := by
    rw [port_same hports, hUp, hLp]
  have hloss : (E.port p).losses = (d.port p).losses := by rw [hs.2.1, common_keeps]
  refine ⟨_, rfl, (hs.1.mono (by simp)).trans (hLo.trans ((hUo.mono (by simp)).trans (hR.mono (by simp)))), by rw [hport], by rw [hport, hloss],
    by rw [hport]; rfl, ?_, fun q hq' => ?_⟩
  · refine (raisesOnly_raise U _ _).1.of_same ?_
    rw [hUs, hLs _ (by omega) (by omega), src_same (hs.1 .evc (by simp))]
  · rw [port_same hports, hUb q hq', hLb q hq', hs.2.2 q hq']

/-- R205: a NAK leads to a replay, after the fields that every flit carries. -/
theorem doFlitNak_replays (hup : (d.port p).up = true) (hq : (d.port p).txq = []) (hf : GoodFlit f 2) :
    ∃ E, SetsPort p ((d.port p).common f.word) d E ∧ doFlitNak d p f = E.replay p := by
  unfold doFlitNak
  obtain ⟨E, hE, hs, hEup⟩ := flit_taken 2 (by decide) _ hup hq hf
  rw [hE]
  exact ⟨E, hs, if_pos hEup⟩

theorem doFlitLanemap_sets (hup : (d.port p).up = true) (hq : (d.port p).txq = []) (hf : GoodFlit f 4) :
    ∃ D, doFlitLanemap d p f = D ∧ SetsPort p { (d.port p).common f.word with
      newTx := some (BitVec.ofNat 8 (fld f.word 47 40), fld f.word 23 12) } d D := by
  unfold doFlitLanemap
  obtain ⟨E, hE, hs, hEup⟩ := flit_taken 4 (by decide) _ hup hq hf
  rw [hE]
  exact ⟨_, if_pos hEup, hs.up (fun x => { x with newTx := some (BitVec.ofNat 8 (fld f.word 47 40), fld f.word 23 12) })⟩

/-! ### HELLO -/

/-- What a HELLO that arrives in training leaves of port `x` before its name is compared. -/
def Port.named (x : Port) (f : Flit) : Port :=
  { x with partner := le f.bytes 0 4 % 2 ^ 20, partPort := le f.bytes 4 1 % 32, partMast := bit (le f.bytes 7 1) 0 }

theorem devOnly_noteTrained (d : Dev) : DevOnly [.rst] d d.noteTrained := DevOnly.ite (devOnly_upRst _ _) (DevOnly.refl _ _)

/-- R211: a HELLO of the partner expected, with lanes that both sides lock. -/
theorem doFlitHello_enters (hst : (d.port p).state = 1) (hf : GoodFlit f 3) (hw : (le f.bytes 0 4 % 2 ^ 20, le f.bytes 4 1) = wiring d.rte.devId p)
    (hm : (d.port p).locked &&& BitVec.ofNat 8 (le f.bytes 6 1) &&& ~~~ (d.port p).laneHold ≠ 0) :
    ∃ D, (doFlitHello d p f).noteTrained = D ∧ DevOnly [.ports, .evc, .free, .rst] d D ∧
      D.port p = ((d.port p).named f).enter ((d.port p).locked &&& BitVec.ofNat 8 (le f.bytes 6 1) &&& ~~~ (d.port p).laneHold) ∧
      Raises (0xC460 + p) d D ∧ But p d.port D.port := by
  have hset := (setsPort_upPort d p (fun x => x.named f)).up (fun x => x.enter ((d.port p).locked &&& BitVec.ofNat 8 (le f.bytes 6 1) &&&
    ~~~ (d.port p).laneHold))
  have hdo : doFlitHello d p f = ((d.upPort p (fun x => x.named f)).upPort p (fun x => x.enter ((d.port p).locked &&&
      BitVec.ofNat 8 (le f.bytes 6 1) &&& ~~~ (d.port p).laneHold))).raiseAny (0xC460 + p) := by
    unfold doFlitHello
    rw [recvFlit_training hst hf (by decide)]
    simp only [hst, if_true, upPort_rte, hw, hm, if_false]
    rfl
  have hsrc : ∀ j, ((d.upPort p (fun x => x.named f)).upPort p (fun x => x.enter ((d.port p).locked &&& BitVec.ofNat 8 (le f.bytes 6 1) &&&
    ~~~ (d.port p).laneHold))).src j = d.src j := fun _ => rfl
  rw [hdo]
  generalize (d.upPort p (fun x => x.named f)).upPort p _ = U at *
  have hR := devOnly_raiseAny U (0xC460 + p)
  have hN := devOnly_noteTrained (U.raiseAny (0xC460 + p))
  have hports := Block.same_trans (hR .ports (by simp)) (hN .ports (by simp))
  refine ⟨_, rfl, (hset.1.mono (by simp)).trans ((hR.mono (by simp)).trans (hN.mono (by simp))), ?_, ?_, fun q hq => ?_⟩
  · rw [port_same hports, hset.2.1]
  · exact ((raises_raiseAny U _).of_same (hsrc _)).then (src_same (hN .evc (by simp)) _)
  · rw [port_same hports, hset.2.2 q hq]

/-- R212: a HELLO of another device. -/
theorem doFlitHello_wrong (hst : (d.port p).state = 1) (hf : GoodFlit f 3) (hw : (le f.bytes 0 4 % 2 ^ 20, le f.bytes 4 1) ≠ wiring d.rte.devId p) :
    ∃ D, (doFlitHello d p f).noteTrained = D ∧ DevOnly [.ports, .evc, .rst] d D ∧ D.port p = { (d.port p).named f with state := 5 } ∧
      RaisesOnly (0xC440 + p) (le f.bytes 0 4 % 2 ^ 20) d D ∧ But p d.port D.port := by
  have hset := (setsPort_upPort d p (fun x => x.named f)).up (fun x => { x with state := 5 })
  have hdo : doFlitHello d p f = ((d.upPort p (fun x => x.named f)).upPort p (fun x => { x with state := 5 })).raise (0xC440 + p)
      (le f.bytes 0 4 % 2 ^ 20) := by
    unfold doFlitHello
    rw [recvFlit_training hst hf (by decide)]
    simp only [hst, if_true, upPort_rte, hw, if_false]
    rfl
  have hsrc : ∀ j, ((d.upPort p (fun x => x.named f)).upPort p (fun x => { x with state := 5 })).src j = d.src j := fun _ => rfl
  rw [hdo]
  generalize (d.upPort p (fun x => x.named f)).upPort p _ = U at *
  have hR := devOnly_raise U (0xC440 + p) (le f.bytes 0 4 % 2 ^ 20)
  have hN := devOnly_noteTrained (U.raise (0xC440 + p) (le f.bytes 0 4 % 2 ^ 20))
  have hports := Block.same_trans (hR .ports (by simp)) (hN .ports (by simp))
  have hsN := src_same (hN .evc (by simp))
  obtain ⟨h1, h2, h3⟩ := raisesOnly_raise U (0xC440 + p) (le f.bytes 0 4 % 2 ^ 20)
  refine ⟨_, rfl, (hset.1.mono (by simp)).trans ((hR.mono (by simp)).trans (hN.mono (by simp))), ?_, ⟨?_, fun j hj => ?_, fun hb hp => ?_⟩,
    fun q hq => ?_⟩
  · rw [port_same hports, hset.2.1]
  · exact (h1.of_same (hsrc _)).then (hsN _)
  · rw [hsN, h2 j hj, hsrc]
  · rw [hsN]
    rw [← hsrc] at hb hp
    exact h3 hb hp
  · rw [port_same hports, hset.2.2 q hq]

end

end Sys2Proof.Machine
end

section
/-! PROOFS. The obligation about flits. -/

open Sys2Proof Sys2Proof.Machine

/-- R203: what any flit that fails its FEC or its CRC does. -/
theorem badFlit_runs {s : State} {p ty : Nat} {f : Flit} {i : Instr} {body : Dev → Dev} {F : Dev → Dev} (hp : p < 18)
    (hex : exec i s = unitOk (decide (p < 18)) (onDev s F))
    (hF : ∀ D, s.dev.recvFlit p ty f body = D → DevOnly [.ports, .out] s.dev D → ∃ E, F s.dev = E ∧ DevOnly [.rst] D E)
    (hup : (s.dev.port p).up = true) (hbad : f.badFec = true ∨ flitOk f = false) :
    Runs i s [.ports, .out, .rst] (fun d => d.port p = (if f.badFec then { s.dev.port p with
        fecUe := satAdd 32 (s.dev.port p).fecUe 1, waitNak := true }
      else { s.dev.port p with crcErr := satAdd 32 (s.dev.port p).crcErr 1, waitNak := true }) ∧
      d.out = nakOut p (s.dev.port p) s.dev.out ∧ But p s.dev.port d.port) := by
  obtain ⟨D, hD, ho, hport, hout, hb⟩ := recvFlit_bad (ty := ty) (body := body) hup hbad
  obtain ⟨E, hE, hEo⟩ := hF D hD ho
  have hports := hEo .ports (by simp)
  refine runs_unitDev hex (decide_eq_true hp) hE ((ho.mono (by simp)).trans (hEo.mono (by simp))) ⟨?_, ?_, fun q hq => ?_⟩
  · rw [port_same hports, hport]
  · rw [show E.out = D.out from hEo .out (by simp), hout]
  · rw [port_same hports, hb q hq]

/-- Settles O34. -/
theorem flitsAreAcceptedOnceAndInOrder : Obligations.FlitsAreAcceptedOnceAndInOrder := by
  intro s p f hp
  have hc : (s.dev.port p).common f.word = { s.dev.port p with
    retry := ((s.dev.port p).common f.word).retry, xoffIn := ((s.dev.port p).common f.word).xoffIn,
    newTx := ((s.dev.port p).common f.word).newTx } := common_keeps _ _
  have hnak : nakOut p ((s.dev.port p).common f.word) s.dev.out = nakOut p (s.dev.port p) s.dev.out := by rw [hc]; rfl
  refine ⟨fun hup hq => ⟨fun hf => ⟨fun hseq hfit => ?_, fun hseq hfit => ?_, fun h0 h1 hseq => ?_, fun h0 hseq => ?_⟩,
    fun hf => ⟨fun hn => ?_, fun hn => ?_⟩, fun hf g l hg => ⟨fun hrow => ?_, fun hrow => ?_⟩, fun hf => ?_, fun i hi => ?_⟩,
    fun hst hf => ⟨fun hw hm => ?_, fun hw => ?_⟩⟩
  · obtain ⟨D, hD, ho, hport, hb⟩ := doFlitData_takes hup hq hf hseq hfit
    obtain ⟨h1, h2, h3, h4, h5, h6, h7⟩ := takeData_keeps ((s.dev.port p).common f.word) (fld f.word 27 25) f.bytes
    have hin : ((s.dev.port p).common f.word).partIn = (s.dev.port p).partIn ∧ ((s.dev.port p).common f.word).inBuf = (s.dev.port p).inBuf ∧
        ((s.dev.port p).common f.word).rxSeq = (s.dev.port p).rxSeq ∧ ((s.dev.port p).common f.word).state = (s.dev.port p).state := by
      rw [hc]; exact ⟨rfl, rfl, rfl, rfl⟩
    rw [hin.1, hin.2.1] at h6 h7
    refine runs_unitDev (f := fun d => doFlitData d p f) rfl (decide_eq_true hp) hD ho ?_
    rw [hport]
    exact ⟨h1.trans (by rw [hin.2.2.1]), h2, h3, h4.trans hin.2.2.2, h5, h6, h7, hb⟩
  · obtain ⟨D, hD, ho, hport, hr, hout, hb⟩ := doFlitData_full hup hq hf hseq hfit
    exact runs_unitDev (f := fun d => doFlitData d p f) rfl (decide_eq_true hp) hD ho ⟨hport, hr, hout, hb⟩
  · obtain ⟨E, hE, hdo⟩ := doFlitData_gap hup hq hf hseq
    rw [if_pos h1] at hdo
    obtain ⟨D, hD, ho, hport, hout, hb⟩ := flitGap_naks hE (by rw [up_common, hup])
    exact runs_unitDev (f := fun d => doFlitData d p f) rfl (decide_eq_true hp) (hdo.trans hD) ho ⟨hport, hout.trans hnak, hb⟩
  · obtain ⟨E, hE, hdo⟩ := doFlitData_gap hup hq hf hseq
    rw [if_neg (Nat.not_lt.mpr h0)] at hdo
    exact runs_unitDev (f := fun d => doFlitData d p f) rfl (decide_eq_true hp) hdo hE.1 hE.2
  · obtain ⟨D, hD, ho, hport⟩ := doFlitIdle_named hup hq hf hn
    exact runs_unitDev (f := fun d => doFlitIdle d p f) rfl (decide_eq_true hp) hD ho hport
  · obtain ⟨D, hD, ho, h⟩ := doFlitIdle_wrong hp hup hq hf hn
    exact runs_unitDev (f := fun d => doFlitIdle d p f) rfl (decide_eq_true hp) hD ho h
  · obtain ⟨E, hE, hdo⟩ := doFlitNak_replays hup hq hf
    have hg' : (E.port p).retry.filter (fun r => !r.acked) = g :: l := by rw [hE.2.1]; exact hg
    have hrowE : (E.port p).rowOf g = if (s.dev.port p).lastNak = g.seq then (s.dev.port p).nakRow + 1 else 1 := by rw [hE.2.1, hc]; rfl
    obtain ⟨D, hD, ho, hport, hb, hout⟩ := replay_sends hg' (by rw [hrowE]; exact hrow)
    refine runs_unitDev (f := fun d => doFlitNak d p f) rfl (decide_eq_true hp) (hdo.trans hD) ((hE.1.mono (by simp)).trans ho)
      ⟨?_, fun q hq' => (hb q hq').trans (hE.2.2 q hq'), ?_⟩
    · rw [hport, hrowE, hE.2.1]
      rw [hc]
    · rw [hout, show E.out = s.dev.out from hE.1 .out (by simp)]
  · obtain ⟨E, hE, hdo⟩ := doFlitNak_replays hup hq hf
    have hg' : (E.port p).retry.filter (fun r => !r.acked) = g :: l := by rw [hE.2.1]; exact hg
    have hrowE : (E.port p).rowOf g = if (s.dev.port p).lastNak = g.seq then (s.dev.port p).nakRow + 1 else 1 := by rw [hE.2.1, hc]; rfl
    obtain ⟨D, hD, ho, hstate, hloss, hb⟩ := replay_loses hp hg' (by rw [hrowE]; exact hrow)
    refine runs_unitDev (f := fun d => doFlitNak d p f) rfl (decide_eq_true hp) (hdo.trans hD) ((hE.1.mono (by simp)).trans ho)
      ⟨hstate, ?_, fun q hq' => (hb q hq').trans (hE.2.2 q hq')⟩
    rw [hloss, hE.2.1, hc]
  · obtain ⟨D, hD, ho, hport⟩ := doFlitLanemap_sets hup hq hf
    exact runs_unitDev (f := fun d => doFlitLanemap d p f) rfl (decide_eq_true hp) hD ho hport
  · have hkeep : ∀ {ty : Nat} {body F : Dev → Dev}, F s.dev = s.dev.recvFlit p ty f body → exec i s = unitOk (decide (p < 18)) (onDev s F) →
        (f.badFec = true ∨ flitOk f = false) →
        Runs i s [.ports, .out, .rst] (fun d => d.port p = (if f.badFec then { s.dev.port p with
            fecUe := satAdd 32 (s.dev.port p).fecUe 1, waitNak := true }
          else { s.dev.port p with crcErr := satAdd 32 (s.dev.port p).crcErr 1, waitNak := true }) ∧
          d.out = nakOut p (s.dev.port p) s.dev.out ∧ But p s.dev.port d.port) := fun hF hex hbad =>
      badFlit_runs hp hex (fun D hD _ => ⟨_, hF.trans hD, DevOnly.refl _ _⟩) hup hbad
    have hall : (f.badFec = true ∨ flitOk f = false) → Runs i s [.ports, .out, .rst] (fun d => d.port p = (if f.badFec then { s.dev.port p with
            fecUe := satAdd 32 (s.dev.port p).fecUe 1, waitNak := true }
          else { s.dev.port p with crcErr := satAdd 32 (s.dev.port p).crcErr 1, waitNak := true }) ∧
          d.out = nakOut p (s.dev.port p) s.dev.out ∧ But p s.dev.port d.port) := by
      intro hbad
      simp only [List.mem_cons, List.not_mem_nil, or_false] at hi
      rcases hi with rfl | rfl | rfl | rfl | rfl
      · exact hkeep (F := fun d => doFlitData d p f) rfl rfl hbad
      · exact hkeep (F := fun d => doFlitIdle d p f) rfl rfl hbad
      · exact hkeep (F := fun d => doFlitNak d p f) rfl rfl hbad
      · exact hkeep (F := fun d => doFlitLanemap d p f) rfl rfl hbad
      · exact badFlit_runs (F := fun d => (doFlitHello d p f).noteTrained) hp rfl (fun D hD _ =>
          ⟨_, congrArg Dev.noteTrained hD, devOnly_noteTrained D⟩) hup hbad
    refine ⟨fun hfec => ?_, fun hfec hok => ?_⟩
    · have h := hall (Or.inl hfec)
      rwa [hfec] at h
    · have h := hall (Or.inr hok)
      rwa [hfec] at h
  · obtain ⟨D, hD, ho, hport, hr, hb⟩ := doFlitHello_enters hst hf hw hm
    refine runs_unitDev (f := fun d => (doFlitHello d p f).noteTrained) rfl (decide_eq_true hp) hD ho ?_
    rw [hport]
    exact ⟨rfl, rfl, rfl, rfl, rfl, rfl, rfl, rfl, hr, hb⟩
  · obtain ⟨D, hD, ho, hport, hr, hb⟩ := doFlitHello_wrong hst hf hw
    refine runs_unitDev (f := fun d => (doFlitHello d p f).noteTrained) rfl (decide_eq_true hp) hD ho ?_
    rw [hport]
    exact ⟨rfl, rfl, hr, hb⟩

end

section
/-! PROOFS. Lanes that fail, retrain and return; ports that train, are lost and retrain (R205–R217). -/

namespace Sys2Proof.Machine

section
variable {d : Dev} {p : Nat}

/-- R209, R215: the state that port `x` reports with these masks. -/
def Port.stateWith (x : Port) (t r : BitVec 8) : Nat := if x.inService then (if t = 0xFF ∧ r = 0xFF then 2 else 3) else x.state

theorem report_keeps (x : Port) : x.report = { x with state := x.stateWith x.txMask x.rxMask } := by
  unfold Port.report Port.stateWith
  split
  · simp only [Bool.and_eq_true, decide_eq_true_eq]
  · rfl

/-! ### Lanes -/

/-- R208: what a lane's failure leaves of its port. -/
def Port.dropLane (x : Port) (l : Nat) (c : LaneCause) : Port :=
  { x with
      rxMask := x.rxMask &&& ~~~ lane l, failed := x.failed ||| lane l,
      marker := if c == .markers then x.marker ||| lane l else x.marker,
      retrain := x.retrain &&& ~~~ lane l,
      degrades := satAdd 16 x.degrades 1, mapPend := true, state := x.stateWith x.txMask (x.rxMask &&& ~~~ lane l) }

theorem doLaneFail_drops (l : Nat) (c : LaneCause) (hup : (d.port p).up = true) (hl : (d.port p).rxMask &&& lane l ≠ 0) :
    let m := (d.port p).rxMask &&& ~~~ lane l
    ∃ D, doLaneFail d p l c = D ∧ DevOnly [.ports, .evc, .out] d D ∧ D.port p = (d.port p).dropLane l c ∧ But p d.port D.port ∧
      RaisesOnly (0xC420 + p) m.toNat d D ∧
      D.out = (if m = 0 then d.out else .lanemap p m.toNat (((d.port p).rxSeq + 4095) % 4096) :: d.out) := by
  intro m
  have hset : SetsPort p ((d.port p).dropLane l c) d (d.upPort p (fun x => ({ x with
      rxMask := x.rxMask &&& ~~~ lane l, failed := x.failed ||| lane l,
      marker := if c == .markers then x.marker ||| lane l else x.marker,
      retrain := x.retrain &&& ~~~ lane l,
      degrades := satAdd 16 x.degrades 1, mapPend := true } : Port).report)) := by
    have h := setsPort_upPort d p (fun x => ({ x with
      rxMask := x.rxMask &&& ~~~ lane l, failed := x.failed ||| lane l,
      marker := if c == .markers then x.marker ||| lane l else x.marker,
      retrain := x.retrain &&& ~~~ lane l,
      degrades := satAdd 16 x.degrades 1, mapPend := true } : Port).report)
    rw [report_keeps] at h
    exact h
  unfold doLaneFail
  simp only [hup, bne_iff_ne.mpr hl, Bool.and_self, if_true]
  have hsrc : ∀ j, (d.upPort p (fun x => ({ x with
      rxMask := x.rxMask &&& ~~~ lane l, failed := x.failed ||| lane l,
      marker := if c == .markers then x.marker ||| lane l else x.marker,
      retrain := x.retrain &&& ~~~ lane l,
      degrades := satAdd 16 x.degrades 1, mapPend := true } : Port).report)).src j = d.src j := fun _ => rfl
  generalize d.upPort p _ = U at *
  have hm : (U.port p).rxMask = m := by rw [hset.2.1]; rfl
  rw [hm]
  have hR := devOnly_raise U (0xC420 + p) m.toNat
  have hport : ∀ q, (U.raise (0xC420 + p) m.toNat).port q = U.port q := fun q => port_same (hR .ports (by simp)) q
  have hout : (U.raise (0xC420 + p) m.toNat).out = d.out := (hR .out (by simp)).trans (hset.1 .out (by simp))
  have hraises : RaisesOnly (0xC420 + p) m.toNat d (U.raise (0xC420 + p) m.toNat) := by
    obtain ⟨h1, h2, h3⟩ := raisesOnly_raise U (0xC420 + p) m.toNat
    refine ⟨h1.of_same (hsrc _), fun j hj => (h2 j hj).trans (hsrc j), fun hb hp => ?_⟩
    rw [← hsrc] at hb hp
    exact h3 hb hp
  have hUo := (hset.1.mono (cs := [.ports, .evc, .out]) (by simp)).trans (hR.mono (by simp))
  generalize U.raise (0xC420 + p) m.toNat = R at *
  have hRm : (R.port p).rxMask = m := by rw [hport, hm]
  rw [hRm]
  by_cases h0 : m = 0
  · rw [if_pos h0, if_pos h0]
    exact ⟨_, rfl, hUo, by rw [hport, hset.2.1], fun q hq => by rw [hport, hset.2.2 q hq], hraises, hout⟩
  · rw [if_neg h0, if_neg h0]
    refine ⟨_, rfl, hUo.trans ((devOnly_emit _ _).mono (by simp)), (hport p).trans hset.2.1, fun q hq => (hport q).trans (hset.2.2 q hq), hraises, ?_⟩
    show Out.lanemap p (R.port p).rxMask.toNat (((R.port p).rxSeq + 4095) % 4096) :: R.out = _
    rw [hRm, hout, hport, hset.2.1]
    rfl

/-- R210: the event that all 8 lanes are back, where that is so. -/
theorem lanesBack_raises {U : Dev} {y : Port} (h : SetsPort p y d U) (was : Nat) :
    ∃ D, U.lanesBack p was = D ∧ DevOnly [.ports, .evc, .free] d D ∧ D.port p = y ∧ (was = 3 → y.state = 2 → Raises (0xC480 + p) d D) ∧
      But (0xC480 + p) d.src D.src ∧ But p d.port D.port := by
  have hsrc : ∀ j, U.src j = d.src j := src_same (h.1 .evc (by simp))
  unfold Dev.lanesBack
  rw [h.2.1]
  by_cases hc : was = 3 ∧ y.state = 2
  · have hR := devOnly_raiseAny U (0xC480 + p)
    have hports := hR .ports (by simp)
    rw [if_pos (by simp [hc.1, hc.2])]
    exact ⟨_, rfl, (h.1.mono (by simp)).trans (hR.mono (by simp)), by rw [port_same hports, h.2.1],
      fun _ _ => (raises_raiseAny U _).of_same (hsrc _), fun j hj => by rw [src_raiseAny_ne _ _ hj, hsrc],
      fun q hq => by rw [port_same hports, h.2.2 q hq]⟩
  · rw [if_neg (by simpa using hc)]
    exact ⟨_, rfl, h.1.mono (by simp), h.2.1, fun h1 h2 => absurd ⟨h1, h2⟩ hc, fun j _ => hsrc j, h.2.2⟩

theorem doLaneRetrain_starts (l : Nat) (hup : (d.port p).up = true) (hl : (d.port p).rxMask &&& lane l = 0) (hh : (d.port p).laneHold &&& lane l = 0) :
    doLaneRetrain d p l = d.upPort p (fun x => { x with retrain := x.retrain ||| lane l }) := by
  unfold doLaneRetrain
  simp only [hup, hl, hh, beq_self_eq_true, Bool.and_self, if_true]

/-- R210: what the return of a lane leaves of port `x`. -/
def Port.addLane (x : Port) (l : Nat) : Port :=
  { x with
    rxMask := x.rxMask ||| lane l, retrain := x.retrain &&& ~~~ lane l, state := x.stateWith x.txMask (x.rxMask ||| lane l) }

theorem doLaneRestore_adds (l : Nat) (hup : (d.port p).up = true) (hl : (d.port p).retrain &&& lane l ≠ 0) :
    ∃ U, SetsPort p ((d.port p).addLane l) d U ∧ doLaneRestore d p l = U.lanesBack p (d.port p).state := by
  have h := setsPort_upPort d p (fun x => ({ x with rxMask := x.rxMask ||| lane l, retrain := x.retrain &&& ~~~ lane l } : Port).report)
  rw [report_keeps] at h
  refine ⟨_, h, ?_⟩
  unfold doLaneRestore
  simp only [hup, bne_iff_ne.mpr hl, Bool.and_self, if_true]

/-- R208: what the switch to lane mask `m` leaves of port `x`. -/
def Port.switched (x : Port) (m : BitVec 8) : Port := { x with txMask := m, newTx := none, state := x.stateWith m x.rxMask }

theorem doLaneMaskSwitch_sets {m : BitVec 8} {a : Nat} (hup : (d.port p).up = true) (hn : (d.port p).newTx = some (m, a)) :
    ∃ U, SetsPort p ((d.port p).switched m) d U ∧ doLaneMaskSwitch d p =
      if a < 4096 then
        let e := ((U.lanesBack p (d.port p).state).upPort p (fun x => x.ack a)).replay p
        if (e.port p).up then e.pump p else e
      else U.lanesBack p (d.port p).state := by
  have h := setsPort_upPort d p (fun x => ({ x with txMask := m, newTx := none } : Port).report)
  rw [report_keeps] at h
  refine ⟨_, h, ?_⟩
  unfold doLaneMaskSwitch
  dsimp only
  rw [hn]
  simp only [hup, Bool.not_true, Bool.false_eq_true, if_false]

theorem ack_congr {x y : Port} (h : y.retry = x.retry) (a : Nat) : (y.ack a).retry = (x.ack a).retry := by
  unfold Port.ack
  rw [h]
  split
  · rfl
  · exact h

theorem up_iff (x : Port) : x.up = true ↔ x.state = 2 ∨ x.state = 3 ∨ x.state = 6 := by simp [Port.up, Port.inService, or_assoc]

theorem up_switched {x : Port} (m : BitVec 8) (h : x.up = true) : (x.switched m).up = true := by
  rw [up_iff]
  show x.stateWith m x.rxMask = 2 ∨ x.stateWith m x.rxMask = 3 ∨ x.stateWith m x.rxMask = 6
  unfold Port.stateWith
  split
  · split
    · exact Or.inl rfl
    · exact Or.inr (Or.inl rfl)
  · exact (up_iff x).mp h

/-- R208: after a LANEMAP the switch replays what its ack does not cover. -/
theorem doLaneMaskSwitch_replays {m : BitVec 8} {a : Nat} {g : RetryFlit} {l : List RetryFlit} (hup : (d.port p).up = true)
    (hn : (d.port p).newTx = some (m, a)) (ha : a < 4096) (hq : (d.port p).txq = [])
    (hg : ((d.port p).ack a).retry.filter (fun r => !r.acked) = g :: l) (hrow : (d.port p).rowOf g < 16) :
    ∃ D, doLaneMaskSwitch d p = D ∧ DevOnly [.ports, .evc, .free, .out] d D ∧
      D.port p = { (d.port p).switched m with
        retry := ((d.port p).ack a).retry, replays := satAdd 32 (d.port p).replays 1, lastNak := g.seq, nakRow := (d.port p).rowOf g } ∧
      D.out = ((g :: l).map (fun r => Out.flit p r.seq r.vc r.last)).reverse ++ d.out ∧ But p d.port D.port := by
  obtain ⟨U, hU, hdo⟩ := doLaneMaskSwitch_sets hup hn
  obtain ⟨B, hB, hBo, hBp, -, -, hBb⟩ := lanesBack_raises hU (d.port p).state
  rw [if_pos ha, hB] at hdo
  have hV := setsPort_upPort B p (fun x => x.ack a)
  have hVp : (B.upPort p (fun x => x.ack a)).port p = { (d.port p).switched m with retry := ((d.port p).ack a).retry } := by
    rw [hV.2.1, hBp, ack_keeps, ack_congr (x := d.port p) (y := (d.port p).switched m) rfl]
  generalize B.upPort p _ = V at *
  have hrowV : (V.port p).rowOf g = (d.port p).rowOf g := by rw [hVp]; rfl
  obtain ⟨R, hR, hRo, hRp, hRb, hRout⟩ := replay_sends (d := V) (p := p) (by rw [hVp]; exact hg) (by rw [hrowV]; exact hrow)
  rw [hVp] at hRp
  have hRup : (R.port p).up = true := by
    rw [hRp]
    exact up_switched m hup
  have hP := pump_idle (d := R) (p := p) (by rw [hRp]; exact hq)
  refine ⟨R.pump p, ?_, hBo.mono (by simp) |>.trans ((hV.1.mono (by simp)).trans ((hRo.mono (by simp)).trans (hP.1.mono (by simp)))), ?_, ?_,
    fun q hq' => ?_⟩
  · rw [hdo]
    simp only [hR, hRup, if_true]
  · rw [hP.2.1, hRp]
    rfl
  · rw [show (R.pump p).out = R.out from hP.1 .out (by simp), hRout, show V.out = B.out from hV.1 .out (by simp),
      show B.out = d.out from hBo .out (by simp)]
  · rw [hP.2.2 q hq', hRb q hq', hV.2.2 q hq', hBb q hq']

/-! ### Loss, training, LNK_CTL -/

theorem doPortLossTimeout_loses (hp : p < 18) (hup : (d.port p).up = true) :
    ∃ D, (doPortLossTimeout d p).noteTrained = D ∧ DevOnly [.ports, .rte, .evc, .free, .rst] d D ∧
      D.port p = { (d.port p).released 4 with losses := satAdd 16 (d.port p).losses 1 } ∧ Raises (0xC400 + p) d D ∧ But p d.port D.port := by
  obtain ⟨L, hL, hLo, hLp, hLb, hLr, -⟩ := portLost_loses d hp
  have hN := devOnly_noteTrained L
  have hports := hN .ports (by simp)
  refine ⟨L.noteTrained, ?_, (hLo.mono (by simp)).trans (hN.mono (by simp)), by rw [port_same hports, hLp],
    hLr.then (src_same (hN .evc (by simp)) _), fun q hq => by rw [port_same hports, hLb q hq]⟩
  unfold doPortLossTimeout
  rw [if_pos hup, hL]

/-- R211, R228: a port in training, with the lanes that lock and the margin of its round trip. -/
def Port.training (x : Port) (locked : BitVec 8) (rtt : Nat) : Port :=
  { x with state := 1, locked := locked &&& ~~~ x.laneHold, margin := earlyMargin rtt, partVal := false }

theorem train_sets (d : Dev) (p : Nat) (locked : BitVec 8) (rtt : Nat) : SetsPort p ((d.port p).training locked rtt) d (d.train p locked rtt) :=
  setsPort_upPort d p (fun x => x.training locked rtt)

theorem doPortTrain_trains (locked : BitVec 8) (rtt : Nat) (he : (d.port p).enable = true) (hv : d.rte.valid = true)
    (hs : (d.port p).state = 0 ∨ (d.port p).state = 1) : doPortTrain d p locked rtt = d.train p locked rtt := by
  unfold doPortTrain
  rcases hs with hs | hs <;> simp [he, hv, hs]

theorem doPortRetrain_trains (locked : BitVec 8) (rtt : Nat) (he : (d.port p).enable = true) (hs : (d.port p).state = 4) :
    doPortRetrain d p locked rtt = d.train p locked rtt := by
  unfold doPortRetrain
  simp [he, hs]

theorem doHelloSend_sends (hs : (d.port p).state = 1 ∨ (d.port p).state = 5) :
    doHelloSend d p = d.emit (.hello p d.rte.devId (d.port p).locked.toNat d.rte.isMaster) := by
  unfold doHelloSend
  rcases hs with hs | hs <;> simp [hs]

/-- R215: LNK_CTL retrain of a port that is not disabled. -/
theorem doLinkRetrain_retrains (hp : p < 18) (hs : (d.port p).state ≠ 0) : ∃ D, doLinkRetrain d p = D ∧ DevOnly [.ports, .rte, .evc, .free] d D ∧
    (D.port p).state = 1 ∧ (D.port p).losses = (if (d.port p).inService then satAdd 16 (d.port p).losses 1 else (d.port p).losses) ∧
    (D.port p).retry = [] ∧ (D.port p).enable = (d.port p).enable ∧ But p d.port D.port := by
  obtain ⟨L, hL, hLo, hLl, hLr, hLe, hLb⟩ : ∃ L, (if (d.port p).inService then d.portLost p else d.releasePort p (d.port p).state) = L ∧
      DevOnly [.ports, .rte, .evc, .free] d L ∧
      (L.port p).losses = (if (d.port p).inService then satAdd 16 (d.port p).losses 1 else (d.port p).losses) ∧
      (L.port p).retry = [] ∧ (L.port p).enable = (d.port p).enable ∧ But p d.port L.port := by
    split
    · obtain ⟨L, hL, hLo, hLp, hLb, -⟩ := portLost_loses d hp
      exact ⟨L, hL, hLo, by rw [hLp], by rw [hLp]; rfl, by rw [hLp]; rfl, hLb⟩
    · obtain ⟨L, hL, hLo, hLp, hLb, -⟩ := releasePort_releases d p (d.port p).state
      exact ⟨L, hL, hLo, by rw [hLp]; rfl, by rw [hLp]; rfl, by rw [hLp]; rfl, hLb⟩
  have hU := setsPort_upPort L p (fun x => { x with state := 1 })
  refine ⟨_, ?_, hLo.trans (hU.1.mono (by simp)), by rw [hU.2.1], by rw [hU.2.1, hLl], by rw [hU.2.1, hLr], by rw [hU.2.1, hLe],
    fun q hq => by rw [hU.2.2 q hq, hLb q hq]⟩
  unfold doLinkRetrain
  simp only [hs, if_false, hL]

/-- R215: LNK_CTL enable. -/
theorem doLinkEnable_on (d : Dev) (p : Nat) : ∃ D, (doLinkEnable d p true).noteTrained = D ∧ DevOnly [.ports, .rst] d D ∧
    D.port p = { d.port p with
      enable := true,
      state := if (d.port p).state = 0 ∧ (d.port p).enable = false ∧ d.rte.valid = true then 1 else (d.port p).state } ∧ But p d.port D.port := by
  have hU := setsPort_upPort d p (fun x => { x with enable := true })
  obtain ⟨E, hE, hEs⟩ : ∃ E, doLinkEnable d p true = E ∧ SetsPort p { d.port p with
      enable := true,
      state := if (d.port p).state = 0 ∧ (d.port p).enable = false ∧ d.rte.valid = true then 1 else (d.port p).state } d E := by
    have hdo : doLinkEnable d p true = if (d.port p).state = 0 && !(d.port p).enable && d.rte.valid then
        (d.upPort p (fun x => { x with enable := true })).upPort p (fun x => { x with state := 1 })
      else d.upPort p (fun x => { x with enable := true }) := rfl
    rw [hdo]
    by_cases hc : (d.port p).state = 0 ∧ (d.port p).enable = false ∧ d.rte.valid = true
    · rw [if_pos (by simp [hc.1, hc.2.1, hc.2.2]), if_pos hc]
      exact ⟨_, rfl, hU.up (fun x => { x with state := 1 })⟩
    · rw [if_neg (by simpa [and_assoc] using hc), if_neg hc]
      exact ⟨_, rfl, hU⟩
  have hN := devOnly_noteTrained E
  have hports := hN .ports (by simp)
  exact ⟨_, congrArg Dev.noteTrained hE, (hEs.1.mono (by simp)).trans (hN.mono (by simp)), by rw [port_same hports, hEs.2.1],
    fun q hq => by rw [port_same hports, hEs.2.2 q hq]⟩

/-- R215: LNK_CTL disable. -/
theorem doLinkEnable_off (d : Dev) (p : Nat) : ∃ D, (doLinkEnable d p false).noteTrained = D ∧ DevOnly [.ports, .rte, .evc, .free, .rst] d D ∧
    (D.port p).enable = false ∧ (D.port p).state = 0 ∧ ((d.port p).state ≠ 0 → (D.port p).retry = []) ∧
    (D.port p).losses = (d.port p).losses ∧ But p d.port D.port := by
  obtain ⟨L, hL, hLo, hLl, hLr, hLb⟩ : ∃ L, (if (d.port p).state = 0 then d else d.releasePort p 0) = L ∧
      DevOnly [.ports, .rte, .evc, .free] d L ∧ (L.port p).losses = (d.port p).losses ∧ ((d.port p).state ≠ 0 → (L.port p).retry = []) ∧
      But p d.port L.port := by
    split
    · rename_i h
      exact ⟨d, rfl, DevOnly.refl _ _, rfl, fun hne => absurd h hne, fun _ _ => rfl⟩
    · obtain ⟨L, hL, hLo, hLp, hLb, -⟩ := releasePort_releases d p 0
      exact ⟨L, hL, hLo, by rw [hLp]; rfl, fun _ => by rw [hLp]; rfl, hLb⟩
  have hU := setsPort_upPort L p (fun x => { x with enable := false, state := 0 })
  have hdo : doLinkEnable d p false = L.upPort p (fun x => { x with enable := false, state := 0 }) := by
    unfold doLinkEnable
    simp only [Bool.false_eq_true, if_false, hL]
  have hN := devOnly_noteTrained (L.upPort p (fun x => { x with enable := false, state := 0 }))
  have hports := hN .ports (by simp)
  refine ⟨_, congrArg Dev.noteTrained hdo, (hLo.mono (by simp)).trans ((hU.1.mono (by simp)).trans (hN.mono (by simp))), ?_, ?_, fun hne => ?_, ?_,
    fun q hq => ?_⟩
  · rw [port_same hports, hU.2.1]
  · rw [port_same hports, hU.2.1]
  · rw [port_same hports, hU.2.1]; exact hLr hne
  · rw [port_same hports, hU.2.1]; exact hLl
  · rw [port_same hports, hU.2.2 q hq, hLb q hq]

end

end Sys2Proof.Machine
end

section
/-! PROOFS. The obligation about lanes and ports. -/

open Sys2Proof Sys2Proof.Machine

/-- Settles O35. -/
theorem lanesAndPortsTrainFailAndReturn : Obligations.LanesAndPortsTrainFailAndReturn := by
  intro s p hp
  have hok : decide (p < 18) = true := decide_eq_true hp
  refine ⟨fun hup => ⟨fun hw => ?_, fun hm hr => ?_, fun l hl => ⟨fun cause h => ?_, fun h hh => ?_, fun h => ?_⟩, fun m hn => ?_,
    fun m a g l hn ha hq hg hrow => ?_, ?_⟩, fun locked rtt he => ⟨fun hv hs => ?_, fun hs => ?_⟩, fun hs => ?_, fun r hr => ⟨fun hs => ?_, ?_, ?_⟩⟩
  · refine runs_unitDev (f := fun d => doNakRepeat d p) rfl hok (if_pos ?_) (devOnly_emit _ _) rfl
    rw [hup, hw]
    rfl
  · refine runs_unitDev (f := fun d => doLanemapRepeat d p) rfl hok (if_pos ?_) (devOnly_emit _ _) rfl
    rw [hup, hm, bne_iff_ne.mpr hr]
    rfl
  · obtain ⟨D, hD, ho, hport, hb, hraise, hout⟩ := doLaneFail_drops l cause hup h
    refine runs_unitDev (f := fun d => doLaneFail d p l cause) rfl (decide_eq_true ⟨hp, hl⟩) hD ho ?_
    rw [hport]
    refine ⟨rfl, rfl, ?_, rfl, rfl, rfl, rfl, rfl, hraise, hout, hb⟩
    show (if cause == .markers then _ else _) = _
    simp only [beq_iff_eq]
  · have hset := setsPort_upPort s.dev p (fun x => { x with retrain := x.retrain ||| lane l })
    exact runs_unitDev (f := fun d => doLaneRetrain d p l) rfl (decide_eq_true ⟨hp, hl⟩) (doLaneRetrain_starts l hup h hh) hset.1 hset.2
  · obtain ⟨U, hU, hdo⟩ := doLaneRestore_adds l hup h
    obtain ⟨D, hD, ho, hport, hr, hs, hb⟩ := lanesBack_raises hU (s.dev.port p).state
    exact runs_unitDev (f := fun d => doLaneRestore d p l) rfl (decide_eq_true ⟨hp, hl⟩) (hdo.trans hD) ho ⟨hport, hr, hs, hb⟩
  · obtain ⟨U, hU, hdo⟩ := doLaneMaskSwitch_sets hup hn
    obtain ⟨D, hD, ho, hport, hr, hs, hb⟩ := lanesBack_raises hU (s.dev.port p).state
    rw [if_neg (Nat.lt_irrefl _)] at hdo
    exact runs_unitDev (f := fun d => doLaneMaskSwitch d p) rfl hok (hdo.trans hD) ho ⟨hport, hr, hs, hb⟩
  · obtain ⟨D, hD, ho, hport, hout, hb⟩ := doLaneMaskSwitch_replays hup hn ha hq hg hrow
    exact runs_unitDev (f := fun d => doLaneMaskSwitch d p) rfl hok hD ho ⟨hport, hout, hb⟩
  · obtain ⟨D, hD, ho, hport, hr, hb⟩ := doPortLossTimeout_loses hp hup
    refine runs_unitDev (f := fun d => (doPortLossTimeout d p).noteTrained) rfl hok hD ho ?_
    rw [hport]
    exact ⟨rfl, rfl, rfl, rfl, hr, hb⟩
  · have hset := train_sets s.dev p locked rtt
    exact runs_unitDev (f := fun d => doPortTrain d p locked rtt) rfl hok (doPortTrain_trains locked rtt he hv hs) hset.1 hset.2
  · have hset := train_sets s.dev p locked rtt
    exact runs_unitDev (f := fun d => doPortRetrain d p locked rtt) rfl hok (doPortRetrain_trains locked rtt he hs) hset.1 hset.2
  · exact runs_unitDev (f := fun d => doHelloSend d p) rfl hok (doHelloSend_sends hs) (devOnly_emit _ _) rfl
  · refine runs_onReg (f := fun d => doLinkRetrain d p) (unitOk_true hok) hr (by simp) (by simp) (by simp) (by simp) (fun d hd => ?_) fun d hd => ?_
    · obtain ⟨D, hD, ho, -⟩ := doLinkRetrain_retrains hp (by rw [port_same (hd .ports (by simp))]; exact hs)
      rw [hD]
      exact ho.mono (by simp)
    · have hport := fun q => port_same (hd .ports (by simp)) q
      obtain ⟨D, hD, -, h1, h2, h3, h4, h5⟩ := doLinkRetrain_retrains (d := d) hp (by rw [hport]; exact hs)
      rw [hport] at h2 h4
      rw [hD]
      simp only [report_port]
      exact ⟨h1, h2, h3, h4, fun q hq => by rw [report_port, h5 q hq, hport]⟩
  · refine runs_onReg (f := fun d => (doLinkEnable d p true).noteTrained) (unitOk_true hok) hr (by simp) (by simp) (by simp) (by simp) (fun d _ => ?_)
      fun d hd => ?_
    · obtain ⟨D, hD, ho, -⟩ := doLinkEnable_on d p
      rw [hD]
      exact ho.mono (by simp)
    · have hport := fun q => port_same (hd .ports (by simp)) q
      obtain ⟨D, hD, -, h1, h2⟩ := doLinkEnable_on d p
      rw [hport, show d.rte = s.dev.rte from hd .rte (by simp)] at h1
      rw [hD]
      simp only [report_port]
      exact ⟨h1, fun q hq => by rw [report_port, h2 q hq, hport]⟩
  · refine runs_onReg (f := fun d => (doLinkEnable d p false).noteTrained) (unitOk_true hok) hr (by simp) (by simp) (by simp) (by simp) (fun d _ => ?_)
      fun d hd => ?_
    · obtain ⟨D, hD, ho, -⟩ := doLinkEnable_off d p
      rw [hD]
      exact ho.mono (by simp)
    · have hport := fun q => port_same (hd .ports (by simp)) q
      obtain ⟨D, hD, -, h1, h2, h3, h4, h5⟩ := doLinkEnable_off d p
      rw [hport] at h3 h4
      rw [hD]
      simp only [report_port]
      exact ⟨h1, h2, h3, h4, fun q hq => by rw [report_port, h5 q hq, hport]⟩

end

section
/-! PROOFS. Forwarding, runners (R218–R236). -/

namespace Sys2Proof.Machine

/-! ### Sending on a link (R204, R218) -/

/-- R204: sending moves flits into the retry buffer, in order; on their way nothing is lost. -/
theorem pump_flits (fuel : Nat) (x : Port) :
    ((x.pump fuel).1.retry ++ (x.pump fuel).1.txq).map (fun f => (f.vc, f.bytes)) = (x.retry ++ x.txq).map (fun f => (f.vc, f.bytes)) ∧
    (x.pump fuel).1.inBuf = x.inBuf := by
  induction fuel generalizing x with
  | zero => exact ⟨rfl, rfl⟩
  | succ fuel ih =>
    unfold Port.pump
    split
    · exact ⟨rfl, rfl⟩
    · rename_i f rest hq
      split
      · obtain ⟨h1, h2⟩ := ih { x with
          retry := x.retry ++ [{ f with seq := x.txSeq }], txq := rest, txSeq := (x.txSeq + 1) % 4096,
          peak := max x.peak ((x.retry.filter (fun y => !y.acked)).length + 1) }
        refine ⟨h1.trans ?_, h2⟩
        rw [hq]
        simp
      · exact ⟨rfl, rfl⟩

/-- R218: the flits of a packet, before they have a sequence. -/
def linkFlits (vc : Nat) (k : Packet) : List RetryFlit := (pktFlits k).zipIdx.map (fun x =>
  { seq := 0, vc := vc, bytes := x.1, last := x.2 + 1 == (pktFlits k).length, acked := false })

theorem linkFlits_bytes (vc : Nat) (k : Packet) : (linkFlits vc k).map (fun f => (f.vc, f.bytes)) = (pktFlits k).map (fun b => (vc, b)) := by
  have hfst : (fun f : RetryFlit => (f.vc, f.bytes)) ∘ (fun (x : Bytes × Nat) =>
      ({ seq := 0, vc := vc, bytes := x.1, last := x.2 + 1 == (pktFlits k).length, acked := false } : RetryFlit)) = (fun b => (vc, b)) ∘ Prod.fst := rfl
  rw [linkFlits, List.map_map, hfst, ← List.map_map, List.zipIdx_map_fst]

/-- R218: a packet sent on a VC of port `p`. -/
theorem linkSend_sends (d : Dev) (p vc : Nat) (k : Packet) : ∃ D, d.linkSend p vc k = D ∧ DevOnly [.ports, .out] d D ∧
    SendsOut vc k (d.port p) (D.port p) ∧ But p d.port D.port := by
  have hlink : d.linkSend p vc k = (d.upPort p (fun x => { x with txq := x.txq ++ linkFlits vc k })).pump p := rfl
  obtain ⟨hAo, hAp, hAb⟩ := setsPort_upPort d p (fun x => { x with txq := x.txq ++ linkFlits vc k })
  rw [hlink]
  generalize d.upPort p _ = A at *
  have hB := setsPort_upPort A p (fun _ => ((A.port p).pump (A.port p).txq.length).1)
  obtain ⟨D, hD, hDo, -⟩ := emits_flits (A.upPort p (fun _ => ((A.port p).pump (A.port p).txq.length).1)) p
    ((A.port p).pump (A.port p).txq.length).2
  have hports := hDo .ports (by simp)
  refine ⟨D, hD, (hAo.mono (by simp)).trans ((hB.1.mono (by simp)).trans (hDo.mono (by simp))), ?_, fun q hq => ?_⟩
  · rw [port_same hports, hB.2.1]
    unfold SendsOut
    rw [(pump_flits _ _).1, hAp]
    show ((d.port p).retry ++ ((d.port p).txq ++ linkFlits vc k)).map _ = _
    rw [← List.append_assoc, List.map_append, linkFlits_bytes]
  · rw [port_same hports, hB.2.2 q hq, hAb q hq]

/-! ### A packet leaves its input (R222) -/

/-- The oldest packet `old` of input `p` and VC `vc` has left. -/
def LeavesInput (p vc : Nat) (old : Packet) (d e : Dev) : Prop :=
  (p < 18 → tget [] (e.port p).inBuf vc = (tget [] (d.port p).inBuf vc).drop 1) ∧
  (p = 18 → e.rte.heldInj = dropFirst (· == old) d.rte.heldInj)

theorem dropAt_leaves (d : Dev) (p vc : Nat) (old : Packet) : ∃ D, d.dropAt p vc old = D ∧ DevOnly [.ports, .rte] d D ∧
    LeavesInput p vc old d D ∧ But p d.port D.port ∧
    D.rte = { d.rte with heldInj := if p = 18 then dropFirst (· == old) d.rte.heldInj else d.rte.heldInj } := by
  unfold Dev.dropAt
  by_cases hp : p = 18
  · rw [if_pos hp, if_pos hp]
    exact ⟨_, rfl, (devOnly_upRte _ _).mono (by simp), ⟨fun h => absurd hp (by omega), fun _ => rfl⟩, fun _ _ => rfl, rfl⟩
  · rw [if_neg hp, if_neg hp]
    have hs := setsPort_upPort d p (fun x => ({ x with inBuf := tset [] x.inBuf vc ((tget [] x.inBuf vc).drop 1) } : Port).reXoff)
    refine ⟨_, rfl, hs.1.mono (by simp), ⟨fun _ => ?_, fun h => absurd h hp⟩, hs.2.2, rfl⟩
    rw [hs.2.1]
    exact (tget_set [] (d.port p).inBuf vc _ vc).trans (if_pos rfl)

/-- A change elsewhere after the packet has left. -/
theorem LeavesInput.then {p vc : Nat} {old : Packet} {d e g : Dev} (h : LeavesInput p vc old d e) (hp : g.port p = e.port p)
    (hi : p = 18 → g.rte.heldInj = e.rte.heldInj) : LeavesInput p vc old d g :=
  ⟨fun h18 => by rw [hp]; exact h.1 h18, fun h18 => (hi h18).trans (h.2 h18)⟩

theorem LeavesInput.from {p vc : Nat} {old : Packet} {d d' e : Dev} (h : LeavesInput p vc old d' e) (hp : d'.port p = d.port p)
    (hi : d'.rte.heldInj = d.rte.heldInj) : LeavesInput p vc old d e := by
  unfold LeavesInput at *
  rwa [hp, hi] at h

section
variable {d : Dev} {p vc w : Nat} {old : Packet}

/-- R221, R230: the packet `old` as it leaves a buffer after `w` units there. -/
def agedPkt (w : Nat) (old : Packet) : Packet := { old with age := min 0xFFFF (old.age + max 1 w) }

/-- R220, R230: a packet on a VC that its kind may not use, or too old, is discarded. -/
theorem forward_discards (hw : d.waitingAt p vc = some old) (hh : d.holds p vc (agedPkt w old) = false) :
    (kindOnVc (agedPkt w old).kind vc = false →
      d.forward p vc w = (d.dropAt p vc old).upRte (fun r => { r with noRoute := satAdd 32 r.noRoute 1 })) ∧
    (kindOnVc (agedPkt w old).kind vc = true → 50000 < (agedPkt w old).age →
      d.forward p vc w = (d.dropAt p vc old).upRte (fun r => { r with aged := satAdd 32 r.aged 1 })) := by
  dsimp only [agedPkt] at *
  unfold Dev.forward
  rw [hw]
  refine ⟨fun hk => ?_, fun hk ha => ?_⟩
  · simp only [hh, hk, Bool.not_false, Bool.false_eq_true, if_false, if_true]
  · simp only [hh, hk, Bool.not_true, Bool.false_eq_true, if_false, ha, if_true]

/-- R222: a packet for this device is delivered. -/
theorem forward_delivers (hw : d.waitingAt p vc = some old) (hh : d.holds p vc (agedPkt w old) = false)
    (hk : kindOnVc (agedPkt w old).kind vc = true) (ha : (agedPkt w old).age ≤ 50000) (hd : (agedPkt w old).dst = d.rte.devId) :
    d.forward p vc w = (d.dropAt p vc old).upRte (fun r => { r with inbox := r.inbox ++ [agedPkt w old] }) := by
  dsimp only [agedPkt] at *
  unfold Dev.forward
  rw [hw]
  simp only [hh, hk, Bool.not_true, Bool.false_eq_true, if_false, Nat.not_lt.mpr ha, decide_eq_true hd, Bool.true_or, if_true]

/-- R222, R224: the class in which a packet that came by input `p` on VC `vc` is routed. -/
def routeHi (p vc : Nat) : Bool := if vc = 0 then p != 18 else vc == 2 || vc == 4 || vc == 6

def routeDim (p : Nat) : Nat := if p = 18 then 4 else portDim p

/-- R222: a packet for another device goes where its runner or its route says. -/
theorem forward_routes (hw : d.waitingAt p vc = some old) (hh : d.holds p vc (agedPkt w old) = false)
    (hk : kindOnVc (agedPkt w old).kind vc = true) (ha : (agedPkt w old).age ≤ 50000) (hd : (agedPkt w old).dst ≠ d.rte.devId)
    (hrun : (agedPkt w old).kind = 0x19 ∨ (agedPkt w old).kind = 0x1A → p = 18) :
    (∀ o, vc = 7 → d.runnerOut (agedPkt w old) = some o → d.forward p vc w = d.sendOut p vc o 7 (agedPkt w old) old) ∧
    (vc ≠ 7 → ∀ h, d.route (agedPkt w old).dst (routeDim p) (routeHi p vc) = some h →
      d.forward p vc w = d.sendOut p vc h.port (if vc = 0 then 0 else (vc - 1) / 2 * 2 + 1 + b2n h.hi) (agedPkt w old) old) ∧
    (vc ≠ 7 → d.route (agedPkt w old).dst (routeDim p) (routeHi p vc) = none → d.forward p vc w = (d.dropAt p vc old).noRoute (agedPkt w old)) := by
  dsimp only [agedPkt] at *
  have hdel : (decide (old.dst = d.rte.devId) || (old.kind == 0x19 || old.kind == 0x1A) && p != 18) = false := by
    rw [decide_eq_false hd, Bool.false_or]
    by_cases h18 : p = 18
    · rw [h18, bne_self_eq_false, Bool.and_false]
    · have hne : ¬(old.kind = 0x19 ∨ old.kind = 0x1A) := fun h => h18 (hrun h)
      have hb : (old.kind == 0x19 || old.kind == 0x1A) = false := by simpa using hne
      rw [hb, Bool.false_and]
  unfold Dev.forward routeDim routeHi at *
  rw [hw]
  refine ⟨fun o h7 ho => ?_, fun h7 h hr => ?_, fun h7 hr => ?_⟩
  · subst h7
    simp only [hh, hk, Bool.not_true, Bool.false_eq_true, if_false, Nat.not_lt.mpr ha, hdel, if_true, ho]
  · simp only [hh, hk, Bool.not_true, Bool.false_eq_true, if_false, Nat.not_lt.mpr ha, hdel, h7, hr]
    by_cases h0 : vc = 0 <;> simp only [h0, if_true, if_false]
  · simp only [hh, hk, Bool.not_true, Bool.false_eq_true, if_false, Nat.not_lt.mpr ha, hdel, h7, hr]

/-- R222, R231: a packet that goes out by a port which its partner does not hold off. -/
theorem sendOut_sends {o ovc : Nat} {k : Packet} (hx : bit (d.port o).xoffIn.toNat ovc = false) (ho : o ≠ p) :
    ∃ D, d.sendOut p vc o ovc k old = D ∧ DevOnly [.ports, .rte, .out] d D ∧ LeavesInput p vc old d D ∧ D.rte.inbox = d.rte.inbox ∧
      D.rte.marks = (if d.marksAt p vc k then satAdd 32 d.rte.marks 1 else d.rte.marks) ∧
      SendsOut ovc { k with cong := k.cong || d.marksAt p vc k } (d.port o) (D.port o) := by
  obtain ⟨A, hA, hAo, hAp, hAm⟩ : ∃ A, (if d.marksAt p vc k then d.upRte (fun r => { r with marks := satAdd 32 r.marks 1 }) else d) = A ∧
      DevOnly [.rte] d A ∧ (∀ q, A.port q = d.port q) ∧
      A.rte = { d.rte with marks := if d.marksAt p vc k then satAdd 32 d.rte.marks 1 else d.rte.marks } := by
    split
    · exact ⟨_, rfl, devOnly_upRte _ _, fun _ => rfl, rfl⟩
    · exact ⟨d, rfl, DevOnly.refl _ _, fun _ => rfl, rfl⟩
  obtain ⟨B, hB, hBo, hBl, hBb, hBr⟩ := dropAt_leaves A p vc old
  obtain ⟨D, hD, hDo, hDs, hDb⟩ := linkSend_sends B o ovc { k with cong := k.cong || d.marksAt p vc k }
  have hrte : D.rte = B.rte := hDo .rte (by simp)
  rw [hBb o ho, hAp] at hDs
  refine ⟨D, ?_, (hAo.mono (by simp)).trans ((hBo.mono (by simp)).trans (hDo.mono (by simp))),
    (hBl.from (hAp p) (by rw [hAm])).then (hDb p ho.symm) (fun _ => by rw [hrte]), by rw [hrte, hBr, hAm], by rw [hrte, hBr, hAm], hDs⟩
  unfold Dev.sendOut
  rw [if_neg (by rw [hx]; exact Bool.false_ne_true)]
  simp only [hA, hB, hD]

end

end Sys2Proof.Machine
end

section
/-! PROOFS. Packets without a route; runner setups, answers and teardowns (R225, R234–R236). -/

namespace Sys2Proof.Machine

/-! ### No route (R225) -/

theorem noRoute_tells (d : Dev) {k : Packet} (hk : unreachKind k.kind = true) : ∃ D u, d.noRoute k = D ∧ DevOnly [.rte, .free, .out] d D ∧
    D.rte = { d.rte with noRoute := satAdd 32 d.rte.noRoute 1, heldInj := d.rte.heldInj ++ [u] } ∧
    u.kind = 0x0C ∧ u.dst = k.src ∧ u.dstPart = k.srcPart ∧ u.arg0 = k.dst := by
  have hn := devOnly_upRte d (fun r => { r with noRoute := satAdd 32 r.noRoute 1 })
  unfold Dev.noRoute
  rw [if_pos hk]
  refine ⟨_, _, rfl, (hn.mono (by simp)).trans (((devOnly_draw _ 32).mono (by simp)).trans ((feeds_inject _ _).1.mono (by simp))), rfl, rfl, rfl, rfl, rfl⟩

/-! ### Runners (R234–R236) -/

/-- An entry of a table after a write: the one written, or one of another key that was there. -/
theorem mem_tset {α : Type} [DecidableEq α] {d : α} {t : Tab α} {k : Nat} {v : α} {kv : Nat × α} (h : kv ∈ tset d t k v) :
    kv = (k, v) ∨ kv ∈ t ∧ kv.1 ≠ k := by
  have hcons : ∀ l : Tab α, kv ∈ tcons d k v l → kv = (k, v) ∨ kv ∈ l := fun l h => by
    unfold tcons at h
    split at h
    · exact Or.inr h
    · exact List.mem_cons.mp h
  have hins : ∀ l : Tab α, kv ∈ tins d k v l → kv = (k, v) ∨ kv ∈ l := by
    intro l
    induction l with
    | nil => exact hcons []
    | cons e l ih =>
      obtain ⟨k', v'⟩ := e
      intro h
      unfold tins at h
      split at h
      · exact hcons _ h
      · rcases List.mem_cons.mp h with rfl | h
        · exact Or.inr (List.mem_cons_self ..)
        · exact (ih h).imp_right (List.mem_cons_of_mem _)
  rcases hins _ h with h | h
  · exact Or.inl h
  · exact Or.inr ⟨List.mem_of_mem_filter h, drop_fresh t k kv h⟩

/-- R234: where every staged runner's setup is under way, none is sent. -/
theorem sendSetups_none (n : Nat) {d : Dev} (h : ∀ kv ∈ d.rte.runners, ∀ x, kv.2 = some x → x.state ≠ 1 ∨ x.sentUp = true) :
    Dev.sendSetups n d = d := by
  cases n with
  | zero => rfl
  | succ n =>
    unfold Dev.sendSetups
    split
    · rename_i k r hf
      have hmem := List.mem_of_find?_eq_some hf
      have hp := List.find?_some hf
      rcases h _ hmem r rfl with hs | hs <;> simp [hs] at hp
    · rfl

section
variable {d : Dev} {k : Packet}

/-- R234: whether a hop can carry a runner does not depend on the packets that wait for units. -/
theorem runFits_takePkt (dst share key : Nat) : (d.takePkt k).runFits dst share key = d.runFits dst share key := rfl

theorem doRunSetup_arrives (h : k.dst = d.rte.devId) : doRunSetup d k = (d.takePkt k).emit (.runAnswer k.src (k.arg0 % 65536) true) := by
  unfold doRunSetup
  exact if_pos h

theorem doRunSetup_refused (h : k.dst ≠ d.rte.devId) (hf : d.runFits k.dst k.arg1 (runKey k.src (k.arg0 % 65536)) = false) :
    doRunSetup d k = (d.takePkt k).emit (.runAnswer k.src (k.arg0 % 65536) false) := by
  unfold doRunSetup
  refine (if_neg h).trans (if_neg ?_)
  rw [runFits_takePkt, hf]
  exact Bool.false_ne_true

/-- R234: a setup that fits is recorded and goes on. -/
theorem doRunSetup_passes (h : k.dst ≠ d.rte.devId) (hf : d.runFits k.dst k.arg1 (runKey k.src (k.arg0 % 65536)) = true) :
    ∃ D, doRunSetup d k = D ∧ DevOnly [.ports, .rte, .out] d D ∧
      (∃ r, tget none D.rte.runners (runKey k.src (k.arg0 % 65536)) = some r ∧ r.state = 2 ∧ r.loc = false ∧
        r.egress = runEgress d.rte.devId k.dst ∧ r.share = k.arg1 ∧ r.dst = k.dst) ∧
      (∀ j, j ≠ runKey k.src (k.arg0 % 65536) → tget none D.rte.runners j = tget none d.rte.runners j) ∧
      SendsOut 0 k (d.port (runEgress d.rte.devId k.dst)) (D.port (runEgress d.rte.devId k.dst)) := by
  obtain ⟨r, hr, hdo⟩ : ∃ r : Runner, (r.state = 2 ∧ r.loc = false ∧ r.egress = runEgress d.rte.devId k.dst ∧ r.share = k.arg1 ∧ r.dst = k.dst) ∧
      doRunSetup d k = ((d.takePkt k).setRunner (runKey k.src (k.arg0 % 65536)) (some r)).linkSend (runEgress d.rte.devId k.dst) 0 k := by
    unfold doRunSetup
    rw [← runFits_takePkt (k := k)] at hf
    exact ⟨_, ⟨rfl, rfl, rfl, rfl, rfl⟩, (if_neg h).trans (if_pos hf)⟩
  obtain ⟨D, hD, ho, hs, -⟩ := linkSend_sends ((d.takePkt k).setRunner (runKey k.src (k.arg0 % 65536)) (some r)) (runEgress d.rte.devId k.dst) 0 k
  have hrun : D.rte.runners = tset none d.rte.runners (runKey k.src (k.arg0 % 65536)) (some r) := congrArg Rte.runners (ho .rte (by simp))
  refine ⟨D, hdo.trans hD, ((devOnly_takePkt _ _).mono (by simp)).trans (((devOnly_upRte _ _).mono (by simp)).trans (ho.mono (by simp))),
    ⟨r, ?_, hr⟩, fun j hj => ?_, hs⟩
  · rw [hrun, tget_set, if_pos rfl]
  · rw [hrun, tget_set, if_neg hj]

/-- R236: a teardown removes the entry and goes on. -/
theorem doRunTeardown_removes {r : Runner} (h : tget none d.rte.runners (runKey k.src (k.arg0 % 65536)) = some r) (hl : r.loc = false)
    (he : r.egress < 18) (hs : (d.port r.egress).inService = true) :
    ∃ D, doRunTeardown d k = D ∧ DevOnly [.ports, .rte, .out] d D ∧ tget none D.rte.runners (runKey k.src (k.arg0 % 65536)) = none ∧
      (∀ j, j ≠ runKey k.src (k.arg0 % 65536) → tget none D.rte.runners j = tget none d.rte.runners j) ∧
      SendsOut 0 k (d.port r.egress) (D.port r.egress) := by
  obtain ⟨D, hD, ho, hsend, -⟩ := linkSend_sends ((d.takePkt k).setRunner (runKey k.src (k.arg0 % 65536)) none) r.egress 0 k
  have hrun : D.rte.runners = tset none d.rte.runners (runKey k.src (k.arg0 % 65536)) none := congrArg Rte.runners (ho .rte (by simp))
  have hget : tget none (d.takePkt k).rte.runners (runKey k.src (k.arg0 % 65536)) = some r := h
  have hserve : (decide (r.egress < 18) && (((d.takePkt k).setRunner (runKey k.src (k.arg0 % 65536)) none).port r.egress).inService) = true := by
    rw [decide_eq_true he, Bool.true_and]
    exact hs
  refine ⟨D, ?_, ((devOnly_takePkt _ _).mono (by simp)).trans (((devOnly_upRte _ _).mono (by simp)).trans (ho.mono (by simp))), ?_, fun j hj => ?_,
    hsend⟩
  · unfold doRunTeardown
    simp only [hget, hl, Bool.false_eq_true, if_false, hserve, if_true]
    exact hD
  · rw [hrun, tget_set, if_pos rfl]
  · rw [hrun, tget_set, if_neg hj]

end

section
variable {d : Dev} {n : Nat} {r : Runner}

/-- The entry `key` of the runner table rewritten. -/
theorem upRunner_runners (e : Dev) (key : Nat) (f : Runner → Runner) (h : tget none e.rte.runners key = some r) :
    (e.upRunner key f).rte.runners = tset none e.rte.runners key (some (f r)) := by
  show tset none e.rte.runners key ((tget none e.rte.runners key).map f) = _
  rw [h]
  rfl

/-- R234: once runner `key` is staged no more, no setup is due where none of another runner is. -/
theorem noSetup_due {e : Dev} {key : Nat} {y : Runner} {t : Tab (Option Runner)} (he : e.rte.runners = tset none t key (some y)) (hy : y.state ≠ 1)
    (h : ∀ kv ∈ t, ∀ x, kv.2 = some x → kv.1 ≠ key → x.state ≠ 1 ∨ x.sentUp = true) :
    ∀ kv ∈ e.rte.runners, ∀ x, kv.2 = some x → x.state ≠ 1 ∨ x.sentUp = true := by
  intro kv hkv x hx
  rw [he] at hkv
  rcases mem_tset hkv with rfl | ⟨hin, hne⟩
  · cases hx
    exact Or.inl hy
  · exact h kv hin x hx hne

theorem devOnly_sendRun (d : Dev) (kind : Nat) (r : Runner) : DevOnly [.ports, .out] d (d.sendRun kind r) := by
  obtain ⟨D, hD, ho, -⟩ := linkSend_sends d r.egress 0 { d.packet kind r.dst r.dstPart r.part 0 0 r.runner (if kind = 0x19 then r.share else 0) [] with
    src := r.src }
  unfold Dev.sendRun
  split
  · rw [hD]; exact ho
  · exact DevOnly.refl _ _

/-- R234: an answer that the path is set up. -/
theorem doRunSetupAnswer_active (h : tget none d.rte.runners (runKey d.rte.devId n) = some r) (hl : r.loc = true) (hs : r.state = 1)
    (hu : r.sentUp = true)
    (hall : ∀ kv ∈ d.rte.runners, ∀ x, kv.2 = some x → kv.1 ≠ runKey d.rte.devId n → x.state ≠ 1 ∨ x.sentUp = true) :
    ∃ D, doRunSetupAnswer d n true = D ∧ DevOnly [.rte] d D ∧ D.rte.runners = tset none d.rte.runners (runKey d.rte.devId n) (some { r with
      state := 2, sentUp := false }) := by
  have hrun := upRunner_runners d (runKey d.rte.devId n) (fun x => { x with state := 2, sentUp := false }) h
  refine ⟨_, ?_, devOnly_upRte _ _, hrun⟩
  unfold doRunSetupAnswer
  simp only [h, hl, hs, hu, beq_self_eq_true, Bool.and_self, if_true]
  exact sendSetups_none _ (noSetup_due hrun (Nat.succ_ne_self 1) hall)

/-- R234: an answer that the path is not set up. -/
theorem doRunSetupAnswer_fails (h : tget none d.rte.runners (runKey d.rte.devId n) = some r) (hl : r.loc = true) (hs : r.state = 1)
    (hu : r.sentUp = true)
    (hall : ∀ kv ∈ d.rte.runners, ∀ x, kv.2 = some x → kv.1 ≠ runKey d.rte.devId n → x.state ≠ 1 ∨ x.sentUp = true) :
    ∃ D, doRunSetupAnswer d n false = D ∧ DevOnly [.ports, .rte, .evc, .free, .out] d D ∧
      D.rte.runners = tset none d.rte.runners (runKey d.rte.devId n) (some { r with state := 3, sentUp := false }) ∧ Raises 0xC4A4 d D := by
  have hS := devOnly_sendRun d 0x1A r
  have hrte : (d.sendRun 0x1A r).rte = d.rte := hS .rte (by simp)
  have hrun := upRunner_runners (d.sendRun 0x1A r) (runKey d.rte.devId n) (fun x => { x with state := 3, sentUp := false }) (by rw [hrte]; exact h)
  rw [hrte] at hrun
  have hU := devOnly_upRte (d.sendRun 0x1A r) (fun x => { x with runners := tup none x.runners (runKey d.rte.devId n) (fun o => o.map (fun x => { x with
    state := 3, sentUp := false })) })
  have hsrc : ((d.sendRun 0x1A r).upRunner (runKey d.rte.devId n) (fun x => { x with state := 3, sentUp := false })).src 0xC4A4 = d.src 0xC4A4 :=
    src_same (hS .evc (by simp)) _
  have hfail : (d.sendRun 0x1A r).failRunner (runKey d.rte.devId n) = ((d.sendRun 0x1A r).upRunner (runKey d.rte.devId n) (fun x => { x with
    state := 3, sentUp := false })).raiseAny 0xC4A4 := rfl
  have hUo : DevOnly [.rte] (d.sendRun 0x1A r) ((d.sendRun 0x1A r).upRunner (runKey d.rte.devId n) (fun x => { x with state := 3, sentUp := false })) := hU
  generalize hV : (d.sendRun 0x1A r).upRunner (runKey d.rte.devId n) (fun x => { x with state := 3, sentUp := false }) = V at *
  have hR := devOnly_raiseAny V 0xC4A4
  have hrunR : (V.raiseAny 0xC4A4).rte.runners = tset none d.rte.runners (runKey d.rte.devId n) (some { r with state := 3, sentUp := false }) :=
    (congrArg Rte.runners (hR .rte (by simp))).trans hrun
  refine ⟨V.raiseAny 0xC4A4, ?_, (hS.mono (by simp)).trans ((hUo.mono (by simp)).trans (hR.mono (by simp))), hrunR, (raises_raiseAny V _).of_same hsrc⟩
  unfold doRunSetupAnswer
  simp only [h, hl, hs, hu, beq_self_eq_true, Bool.and_self, if_true, Bool.false_eq_true, if_false]
  rw [hfail]
  exact sendSetups_none _ (noSetup_due hrunR (Nat.succ_succ_ne_one 1) hall)

end

end Sys2Proof.Machine
end

section
/-! PROOFS. The obligation about forwarding and runners. -/

open Sys2Proof Sys2Proof.Machine

/-- R222, R235: a packet taken by PACKET_FORWARD or, on VC 7, by RUN_DATA. -/
theorem forward_runs {s : State} {c : Instr} {p vc w : Nat} {D : Dev} {bs : List Block} {post : Dev → Prop} (hp : p < 19)
    (hc : c = .packetForward p vc w ∧ vc < 8 ∨ c = .runData p w ∧ vc = 7) (hD : s.dev.forward p vc w = D) (o : DevOnly bs s.dev D)
    (hm : Block.mgmt ∈ bs) (ho : Block.out ∈ bs) (hpost : ∀ e, DevOnly [.mgmt, .out] D e → post e) : Runs c s bs post := by
  rcases hc with ⟨rfl, hvc⟩ | ⟨rfl, rfl⟩
  · exact runs_unitDevN (f := fun d => doPacketForward d p vc w) rfl (decide_eq_true ⟨hp, hvc⟩) hD o hm ho (hpost _ (devOnly_report _ _))
  · exact runs_unitDev (f := fun d => doRunData d p w) rfl (decide_eq_true hp) hD o (hpost _ (DevOnly.refl _ _))

/-- What a packet's leaving says of later states, which keep the ports and the routing block. -/
theorem leaves_kept {p vc : Nat} {old : Packet} {d D e : Dev} (h : LeavesInput p vc old d D) (he : DevOnly [.mgmt, .out] D e) :
    LeavesInput p vc old d e :=
  h.then (port_same (he .ports (by simp)) p) (fun _ => congrArg Rte.heldInj (he .rte (by simp)))

/-- R220, R222, R230: a packet that leaves its input with a change of the routing block only. -/
theorem leaves_runs {s : State} {c : Instr} {p vc w : Nat} {old : Packet} {f : Rte → Rte} (hp : p < 19)
    (hc : c = .packetForward p vc w ∧ vc < 8 ∨ c = .runData p w ∧ vc = 7) (hD : s.dev.forward p vc w = (s.dev.dropAt p vc old).upRte f)
    (hf : ∀ r, (f r).heldInj = r.heldInj) {post : Rte → Prop} (hpost : ∀ r : Rte, (∃ l, r = { s.dev.rte with heldInj := l }) → post (f r)) :
    Runs c s [.ports, .rte, .mgmt, .out] (fun d => LeavesInput p vc old s.dev d ∧ post d.rte) := by
  obtain ⟨E, hE, hEo, hEl, -, hEr⟩ := dropAt_leaves s.dev p vc old
  rw [hE] at hD
  refine forward_runs hp hc hD ((hEo.mono (by simp)).trans ((devOnly_upRte _ _).mono (by simp))) (by simp) (by simp) fun e he => ⟨?_, ?_⟩
  · exact leaves_kept (LeavesInput.then (g := E.upRte f) hEl rfl (fun _ => hf E.rte)) he
  · rw [show e.rte = f E.rte from he .rte (by simp)]
    exact hpost _ ⟨_, hEr⟩

/-- Settles O36. -/
theorem packetsAreForwardedDeliveredOrCounted : Obligations.PacketsAreForwardedDeliveredOrCounted := by
  refine ⟨fun s c p vc w old hp hc hw hh => ⟨fun hk => ?_, fun hk ha => ?_, fun hk ha => ⟨fun hd => ?_, fun hd hrun => ⟨fun o h7 ho hop hx hm => ?_,
    fun h7 => ⟨fun h hr hop hx => ?_, fun hr hu hp18 => ?_⟩⟩⟩⟩, fun s k => ⟨fun hd => ?_, fun hd => ⟨fun hf => ?_, fun hf => ?_⟩, fun r hr hl he hs => ?_⟩,
    fun s n r => fun hr hl hs hu hall => ⟨?_, ?_⟩⟩
  · exact leaves_runs hp hc ((forward_discards hw hh).1 hk) (fun _ => rfl) (post := fun r => r.noRoute = _ ∧ r.inbox = _)
      (by rintro r ⟨l, rfl⟩; exact ⟨rfl, rfl⟩)
  · exact leaves_runs hp hc ((forward_discards hw hh).2 hk ha) (fun _ => rfl) (post := fun r => r.aged = _ ∧ r.inbox = _)
      (by rintro r ⟨l, rfl⟩; exact ⟨rfl, rfl⟩)
  · exact leaves_runs hp hc (forward_delivers hw hh hk ha hd) (fun _ => rfl) (post := fun r => r.inbox = _) (by rintro r ⟨l, rfl⟩; rfl)
  · obtain ⟨D, hD, hDo, hl, hi, -, hsend⟩ := sendOut_sends (k := agedPkt w old) (old := old) (p := p) (vc := vc) hx hop
    have hdo := (forward_routes hw hh hk ha hd hrun).1 o h7 ho
    have hm' : s.dev.marksAt p vc (agedPkt w old) = false := hm
    rw [hm', Bool.or_false] at hsend
    refine forward_runs hp hc (hdo.trans hD) (hDo.mono (by simp)) (by simp) (by simp) fun e he => ⟨leaves_kept hl he, ?_, ?_⟩
    · rw [show e.rte = D.rte from he .rte (by simp)]; exact hi
    · rw [port_same (he .ports (by simp))]; exact hsend
  · obtain ⟨D, hD, hDo, hl, hi, hmk, hsend⟩ := sendOut_sends (k := agedPkt w old) (old := old) (p := p) (vc := vc) hx hop
    have hdo := (forward_routes hw hh hk ha hd hrun).2.1 h7 h hr
    refine forward_runs hp hc (hdo.trans hD) (hDo.mono (by simp)) (by simp) (by simp) fun e he => ⟨leaves_kept hl he, ?_, ?_, ?_⟩
    · rw [show e.rte = D.rte from he .rte (by simp)]; exact hi
    · rw [show e.rte = D.rte from he .rte (by simp)]; exact hmk
    · rw [port_same (he .ports (by simp))]; exact hsend
  · obtain ⟨E, hE, hEo, hEl, -, hEr⟩ := dropAt_leaves s.dev p vc old
    obtain ⟨D, u, hD, hDo, hDr, hpkt⟩ := noRoute_tells E (k := agedPkt w old) hu
    have hdo := (forward_routes hw hh hk ha hd hrun).2.2 h7 hr
    rw [hE, hD] at hdo
    have hne : p ≠ 18 := by omega
    rw [if_neg hne] at hEr
    refine forward_runs hp hc hdo ((hEo.mono (by simp)).trans (hDo.mono (by simp))) (by simp) (by simp) fun e he => ⟨?_, ?_, u, ?_, hpkt⟩
    · exact leaves_kept (hEl.then (port_same (hDo .ports (by simp)) p) (fun h18 => absurd h18 hne)) he
    · rw [show e.rte = D.rte from he .rte (by simp), hDr, hEr]
    · rw [show e.rte = D.rte from he .rte (by simp), hDr, hEr]
  · exact runs_onDev (f := fun d => doRunSetup d k) rfl (by
      rw [doRunSetup_arrives hd]
      exact ((devOnly_takePkt _ _).mono (by simp)).trans ((devOnly_emit _ _).mono (by simp))) (by rw [doRunSetup_arrives hd]; exact ⟨rfl, rfl⟩)
  · exact runs_onDev (f := fun d => doRunSetup d k) rfl (by
      rw [doRunSetup_refused hd hf]
      exact ((devOnly_takePkt _ _).mono (by simp)).trans ((devOnly_emit _ _).mono (by simp))) (by rw [doRunSetup_refused hd hf]; exact ⟨rfl, rfl⟩)
  · obtain ⟨D, hD, ho, h⟩ := doRunSetup_passes hd hf
    exact runs_onDev (f := fun d => doRunSetup d k) rfl (by rw [hD]; exact ho) (by rw [hD]; exact h)
  · obtain ⟨D, hD, ho, h⟩ := doRunTeardown_removes hr hl he hs
    exact runs_onDev (f := fun d => doRunTeardown d k) rfl (by rw [hD]; exact ho) (by rw [hD]; exact h)
  · obtain ⟨D, hD, ho, h⟩ := doRunSetupAnswer_active hr hl hs hu hall
    refine runs_onDev (f := fun d => doRunSetupAnswer d n true) rfl (by rw [hD]; exact ho) ?_
    rw [hD, h]
    exact ⟨by rw [tget_set, if_pos rfl], fun j hj => by rw [tget_set, if_neg hj]⟩
  · obtain ⟨D, hD, ho, h, hr4⟩ := doRunSetupAnswer_fails hr hl hs hu hall
    refine runs_onDev (f := fun d => doRunSetupAnswer d n false) rfl (by rw [hD]; exact ho) ?_
    rw [hD, h]
    exact ⟨by rw [tget_set, if_pos rfl], fun j hj => by rw [tget_set, if_neg hj], hr4⟩

end

section
/-! PROOFS. DRAIN, RESUME, the protected registers (R237–R239); the gang and its master (R242, R243). -/

namespace Sys2Proof.Machine

/-! ### Sending keeps a port's state -/

theorem pump_state (fuel : Nat) (x : Port) : (x.pump fuel).1.state = x.state := by
  induction fuel generalizing x with
  | zero => rfl
  | succ fuel ih =>
    unfold Port.pump
    split
    · rfl
    · split
      · exact ih _
      · rfl

theorem linkSend_state (d : Dev) (p vc : Nat) (k : Packet) (q : Nat) : ((d.linkSend p vc k).port q).state = (d.port q).state := by
  have hlink : d.linkSend p vc k = (d.upPort p (fun x => { x with txq := x.txq ++ linkFlits vc k })).pump p := rfl
  obtain ⟨-, hAp, hAb⟩ := setsPort_upPort d p (fun x => { x with txq := x.txq ++ linkFlits vc k })
  rw [hlink]
  generalize d.upPort p _ = A at *
  obtain ⟨-, hBp, hBb⟩ := setsPort_upPort A p (fun _ => ((A.port p).pump (A.port p).txq.length).1)
  obtain ⟨D, hD, hDo, -⟩ := emits_flits (A.upPort p (fun _ => ((A.port p).pump (A.port p).txq.length).1)) p
    ((A.port p).pump (A.port p).txq.length).2
  have hpump : A.pump p = D := hD
  rw [hpump, port_same (hDo .ports (by simp))]
  by_cases hq : q = p
  · rw [hq, hBp, pump_state, hAp]
  · rw [hBb q hq, hAb q hq]

/-! ### RESUME (R239) -/

/-- What tearing runners down and setting them up leaves: each port's state, the routing state in effect, source 0xC4A2, and every
runner that there is not. -/
def KeepsService (d e : Dev) : Prop :=
  DevOnly [.ports, .rte, .evc, .free, .out] d e ∧ (∀ p, (e.port p).state = (d.port p).state) ∧ e.rte.prot = d.rte.prot ∧
  e.src 0xC4A2 = d.src 0xC4A2 ∧ ∀ key, tget none d.rte.runners key = none → tget none e.rte.runners key = none

theorem KeepsService.refl (d : Dev) : KeepsService d d := ⟨DevOnly.refl _ _, fun _ => rfl, rfl, rfl, fun _ h => h⟩

theorem KeepsService.trans {d e g : Dev} (h : KeepsService d e) (k : KeepsService e g) : KeepsService d g := by
  obtain ⟨h1, h2, h3, h4, h5⟩ := h
  obtain ⟨k1, k2, k3, k4, k5⟩ := k
  exact ⟨h1.trans k1, fun p => (k2 p).trans (h2 p), k3.trans h3, k4.trans h4, fun key hk => k5 key (h5 key hk)⟩

theorem keepsService_upRunner (d : Dev) (k : Nat) (f : Runner → Runner) : KeepsService d (d.upRunner k f) := by
  refine ⟨(devOnly_upRte _ _).mono (by simp), fun _ => rfl, rfl, rfl, fun key hk => ?_⟩
  show tget none (tup none d.rte.runners k (fun o => o.map f)) key = none
  rw [tget_up]
  split
  · rename_i hkey
    rw [← hkey, hk]
    rfl
  · exact hk

theorem keepsService_setRunner_none (d : Dev) (k : Nat) : KeepsService d (d.setRunner k none) := by
  refine ⟨(devOnly_upRte _ _).mono (by simp), fun _ => rfl, rfl, rfl, fun key hk => ?_⟩
  show tget none (tset none d.rte.runners k none) key = none
  rw [tget_set]
  split
  · rfl
  · exact hk

theorem keepsService_sendRun (d : Dev) (kind : Nat) (r : Runner) : KeepsService d (d.sendRun kind r) := by
  have ho := devOnly_sendRun d kind r
  have hrte : (d.sendRun kind r).rte = d.rte := ho .rte (by simp)
  refine ⟨ho.mono (by simp), fun p => ?_, by rw [hrte], src_same (ho .evc (by simp)) _, fun key hk => by rw [hrte]; exact hk⟩
  unfold Dev.sendRun
  split
  · exact linkSend_state _ _ _ _ _
  · rfl

theorem keepsService_failRunner (d : Dev) (k : Nat) : KeepsService d (d.failRunner k) := by
  refine (keepsService_upRunner d k (fun r => { r with state := 3, sentUp := false })).trans ?_
  unfold Dev.failRunner
  generalize d.upRunner k _ = A
  have hR := devOnly_raiseAny A 0xC4A4
  have hrte : (A.raiseAny 0xC4A4).rte = A.rte := hR .rte (by simp)
  exact ⟨hR.mono (by simp), fun p => congrArg Port.state (port_same (hR .ports (by simp)) p), by rw [hrte], src_raiseAny_ne A 0xC4A4 (by omega),
    fun key hk => by rw [hrte]; exact hk⟩

theorem keepsService_sendSetups (n : Nat) (d : Dev) : KeepsService d (Dev.sendSetups n d) := by
  induction n generalizing d with
  | zero => exact KeepsService.refl _
  | succ n ih =>
    unfold Dev.sendSetups
    split
    · split
      · exact (keepsService_upRunner _ _ _).trans (ih _)
      · split
        · exact ((keepsService_upRunner _ _ _).trans (keepsService_sendRun _ _ _)).trans (ih _)
        · exact (keepsService_failRunner _ _).trans (ih _)
    · exact KeepsService.refl _

/-- R239 step 3: the teardown that a runner's removal or break sends. -/
def Dev.sendTeardown (d : Dev) (r : Runner) : Dev := if (r.remove && r.state == 2) || r.state == 4 then d.sendRun 0x1A r else d

theorem keepsService_sendTeardown (d : Dev) (r : Runner) : KeepsService d (d.sendTeardown r) := by
  unfold Dev.sendTeardown
  split
  · exact keepsService_sendRun _ _ _
  · exact KeepsService.refl _

/-- R239 step 3: one runner of the table. -/
def tearRunner (d : Dev) (kv : Nat × Option Runner) : Dev :=
  match kv.2 with
  | some r =>
    if !r.loc then d
    else if r.remove then (d.sendTeardown r).setRunner kv.1 none
    else if r.state = 3 || r.state = 4 then (d.sendTeardown r).upRunner kv.1 (fun x => { x with state := 1, sentUp := false })
    else d.sendTeardown r
  | none => d

theorem tearDown_eq (d : Dev) : d.tearDown = d.each d.rte.runners tearRunner := rfl

theorem keepsService_tearRunner (d : Dev) (kv : Nat × Option Runner) : KeepsService d (tearRunner d kv) := by
  obtain ⟨key, o⟩ := kv
  cases o with
  | none => exact KeepsService.refl _
  | some r =>
    have hsend := keepsService_sendTeardown d r
    unfold tearRunner
    dsimp only
    split
    · exact KeepsService.refl _
    · split
      · exact hsend.trans (keepsService_setRunner_none _ _)
      · split
        · exact hsend.trans (keepsService_upRunner _ _ _)
        · exact hsend

theorem keepsService_tearDown (d : Dev) : KeepsService d d.tearDown := by
  rw [tearDown_eq]
  unfold Dev.each
  generalize d.rte.runners = l
  induction l generalizing d with
  | nil => exact KeepsService.refl _
  | cons kv l ih => exact (keepsService_tearRunner d kv).trans (ih _)

/-- R239 step 3: the only runner, marked to be removed, goes. -/
theorem tearDown_removes {d : Dev} {key : Nat} {x : Runner} (h : d.rte.runners = [(key, some x)]) (hl : x.loc = true) (hr : x.remove = true) :
    tget none d.tearDown.rte.runners key = none := by
  rw [tearDown_eq, h]
  show tget none (tearRunner d (key, some x)).rte.runners key = none
  unfold tearRunner
  simp only [hl, hr, Bool.not_true, Bool.false_eq_true, if_false, if_true]
  show tget none (tset none (d.sendTeardown x).rte.runners key none) key = none
  rw [tget_set, if_pos rfl]

/-- R239 step 2: what becomes of a port whose mask permits it (`ok`). -/
def Port.resumed (ok : Bool) (x : Port) : Port := if x.state = 6 && ok then ({ x with state := 2 } : Port).report else x

theorem resumed_state (ok : Bool) (x : Port) : (x.resumed ok).state =
    if x.state = 6 ∧ ok = true then (if x.txMask = 0xFF ∧ x.rxMask = 0xFF then 2 else 3) else x.state := by
  have hcond : (decide (x.state = 6) && ok) = true ↔ x.state = 6 ∧ ok = true := by rw [Bool.and_eq_true, decide_eq_true_eq]
  unfold Port.resumed
  by_cases h : x.state = 6 ∧ ok = true
  · rw [if_pos (hcond.mpr h), if_pos h]
    show (if (decide (x.txMask = 0xFF) && decide (x.rxMask = 0xFF)) = true then 2 else 3) = _
    simp only [Bool.and_eq_true, decide_eq_true_eq]
  · rw [if_neg (fun hb => h (hcond.mp hb)), if_neg h]

/-- R239 step 2: every port that the routing state permits comes into service. -/
def resumePort (d : Dev) (p : Nat) : Dev :=
  if (d.port p).state = 6 && bit d.rte.prot.mask.toNat p then d.upPort p (fun x => ({ x with state := 2 } : Port).report) else d

theorem resumePort_port (d : Dev) (p j : Nat) : ((resumePort d p).rte.prot, (resumePort d p).port j) =
    if j = p then (d.rte.prot, (d.port j).resumed (bit d.rte.prot.mask.toNat p)) else (d.rte.prot, d.port j) := by
  unfold resumePort Port.resumed
  by_cases hj : j = p
  · rw [if_pos hj, hj]
    split
    · rw [port_upPort, if_pos rfl]; rfl
    · rfl
  · rw [if_neg hj]
    split
    · rw [port_upPort, if_neg hj]; rfl
    · rfl

theorem devOnly_resumePort (d : Dev) (p : Nat) : DevOnly [.ports] d (resumePort d p) :=
  DevOnly.ite (devOnly_upPort _ _ _) (DevOnly.refl _ _)

theorem resumePorts_resumes (d : Dev) : ∃ D, d.each (List.range 18) resumePort = D ∧ DevOnly [.ports] d D ∧
    ∀ p, p < 18 → D.port p = (d.port p).resumed (bit d.rte.prot.mask.toNat p) := by
  have hn : ((List.range 18).map (fun p => p)).Nodup := by rw [List.map_id']; exact List.nodup_range
  generalize hl : List.range 18 = l at *
  obtain ⟨hin, -⟩ := each_key (g := fun d j => (d.rte.prot, d.port j)) (key := fun p => p) (f := resumePort)
    (F := fun p x => (x.1, x.2.resumed (bit x.1.mask.toNat p))) resumePort_port l hn d
  refine ⟨_, rfl, devOnly_each _ _ devOnly_resumePort _, fun p hp => congrArg Prod.snd (hin p ?_)⟩
  rw [← hl]
  exact List.mem_range.mpr hp

/-- R239: RESUME with the epoch, in its three steps. -/
theorem doResume_eq {d : Dev} {e : Nat} (hf : d.rte.fstate ≠ 0) (he : d.rte.epoch = e % 2 ^ 16) {B C : Dev}
    (hB : (d.upRte (fun r => { r with prot := r.pend })).each (List.range 18) resumePort = B) (hC : B.tearDown = C) :
    doResume d e = ((Dev.sendSetups C.rte.runners.length C).upRte (fun r => { r with lost := [], fstate := 0 })).raiseAny 0xC4A2 := by
  have hcond : (decide (d.rte.fstate = 0) || d.rte.epoch != e % 2 ^ 16) = false := by
    rw [decide_eq_false hf, Bool.false_or, bne_eq_false_iff_eq]
    exact he
  unfold resumePort at hB
  unfold doResume
  rw [hcond]
  dsimp only
  rw [hB, hC]
  exact if_neg Bool.false_ne_true

/-- R239. -/
theorem doResume_resumes {d : Dev} {e : Nat} (hf : d.rte.fstate ≠ 0) (he : d.rte.epoch = e % 2 ^ 16) :
    ∃ D, doResume d e = D ∧ DevOnly [.ports, .rte, .evc, .free, .out] d D ∧ D.rte.fstate = 0 ∧ D.rte.prot = d.rte.pend ∧ D.rte.lost = [] ∧
      Raises 0xC4A2 d D ∧
      (∀ p, p < 18 → (D.port p).state = ((d.port p).resumed (bit d.rte.pend.mask.toNat p)).state) ∧
      ∀ key x, d.rte.runners = [(key, some x)] → x.loc = true → x.remove = true → tget none D.rte.runners key = none := by
  obtain ⟨A, hA, hAo, hAr⟩ : ∃ A, d.upRte (fun r => { r with prot := r.pend }) = A ∧ DevOnly [.rte] d A ∧ A.rte = { d.rte with prot := d.rte.pend } :=
    ⟨_, rfl, devOnly_upRte _ _, rfl⟩
  obtain ⟨B, hB, hBo, hBp⟩ := resumePorts_resumes A
  have hBr : B.rte = A.rte := hBo .rte (by simp)
  have hC := keepsService_tearDown B
  have hgone : ∀ key x, B.rte.runners = [(key, some x)] → x.loc = true → x.remove = true → tget none B.tearDown.rte.runners key = none :=
    fun key x => tearDown_removes
  generalize hCe : B.tearDown = C at *
  have hE := keepsService_sendSetups C.rte.runners.length C
  generalize hEe : Dev.sendSetups C.rte.runners.length C = E at *
  obtain ⟨hCEo, hCEs, hCEp, hCEsrc, -⟩ := hC.trans hE
  have hR := devOnly_raiseAny (E.upRte (fun r => { r with lost := [], fstate := 0 })) 0xC4A2
  have hG : DevOnly [.rte] E (E.upRte (fun r => { r with lost := [], fstate := 0 })) := devOnly_upRte _ _
  have hrte : ((E.upRte (fun r => { r with lost := [], fstate := 0 })).raiseAny 0xC4A2).rte = { E.rte with lost := [], fstate := 0 } := hR .rte (by simp)
  refine ⟨(E.upRte (fun r => { r with lost := [], fstate := 0 })).raiseAny 0xC4A2, ?_, ?_, ?_, ?_, ?_, ?_, fun p hp => ?_, fun key x hx hl hr => ?_⟩
  · rw [doResume_eq hf he (by rw [hA, hB]) hCe, hEe]
  · exact (hAo.mono (by simp)).trans ((hBo.mono (by simp)).trans (hCEo.trans ((hG.mono (by simp)).trans (hR.mono (by simp)))))
  · rw [hrte]
  · rw [hrte]
    show E.rte.prot = _
    rw [hCEp, hBr, hAr]
  · rw [hrte]
  · refine (raises_raiseAny _ _).of_same ?_
    show E.src 0xC4A2 = d.src 0xC4A2
    rw [hCEsrc]
    exact (src_same (hBo .evc (by simp)) _).trans (src_same (hAo .evc (by simp)) _)
  · have hport : ((E.upRte (fun r => { r with lost := [], fstate := 0 })).raiseAny 0xC4A2).port p = E.port p :=
      (port_same (hR .ports (by simp)) p).trans (port_same (hG .ports (by simp)) p)
    rw [hport, hCEs, hBp p hp, hAr, port_same (hAo .ports (by simp))]
  · rw [hrte]
    show tget none E.rte.runners key = none
    have hBrun : B.rte.runners = [(key, some x)] := by rw [hBr, hAr]; exact hx
    exact hE.2.2.2.2 key (hgone key x hBrun hl hr)

/-! ### Draining (R238) -/

/-- R238 step 4: a port without what it held outside CTL. -/
def Port.drained (x : Port) : Port :=
  ({ x with inBuf := tdrop x.inBuf (fun v => v != 0), txq := x.txq.filter (fun f => f.vc == 0) } : Port).reXoff

/-- R238 step 4: packets that a port holds outside CTL. -/
def Port.heldOut (x : Port) : Nat :=
  x.inBuf.foldl (fun k kv => if kv.1 = 0 then k else k + kv.2.length) 0 + (x.txq.filter (fun f => f.vc != 0 && f.last)).length

theorem drained_inBuf (x : Port) (v : Nat) : tget [] x.drained.inBuf v = if v = 0 then tget [] x.inBuf 0 else [] := by
  show tget [] (tdrop x.inBuf (fun v => v != 0)) v = _
  rw [tget_drop]
  by_cases hv : v = 0
  · rw [hv, if_pos rfl]; rfl
  · rw [if_neg hv, if_pos (bne_iff_ne.mpr hv)]

theorem port_drain (d : Dev) (p j : Nat) : (d.upPort p Port.drained).port j = if j = p then (d.port j).drained else d.port j := by
  rw [port_upPort]
  split
  · rename_i h
    rw [h]
  · rfl

theorem doDrainTimeout_discards {d : Dev} (hf : d.rte.fstate = 1) :
    ∃ D, doDrainTimeout d = D ∧ DevOnly [.ports, .rte, .evc, .free] d D ∧ D.rte.fstate = 3 ∧ Raises 0xC4A1 d D ∧
      D.rte.drainDis = satAdd 32 d.rte.drainDis ((List.range 18).foldl (fun n p => n + (d.port p).heldOut) 0) ∧
      ∀ p, p < 18 → D.port p = (d.port p).drained := by
  obtain ⟨A, hA, hAo, hAp⟩ : ∃ A, d.each (List.range 18) (fun d p => d.upPort p Port.drained) = A ∧ DevOnly [.ports] d A ∧
      ∀ p, p < 18 → A.port p = (d.port p).drained := by
    obtain ⟨hin, -⟩ := each_key (g := fun d j => d.port j) (key := fun p => p) (f := fun d p => d.upPort p Port.drained)
      (F := fun _ x => x.drained) port_drain (List.range 18) (by rw [List.map_id']; exact List.nodup_range) d
    exact ⟨_, rfl, devOnly_each _ _ (fun d p => devOnly_upPort d p _) _, fun p hp => hin p (List.mem_range.mpr hp)⟩
  have hAr : A.rte = d.rte := hAo .rte (by simp)
  generalize hn : (List.range 18).foldl (fun n p => n + (d.port p).heldOut) 0 = n
  have hB : DevOnly [.rte] A (A.upRte (fun r => { r with fstate := 3, drainDis := satAdd 32 r.drainDis n })) := devOnly_upRte _ _
  have hR := devOnly_raiseAny (A.upRte (fun r => { r with fstate := 3, drainDis := satAdd 32 r.drainDis n })) 0xC4A1
  have hrte : ((A.upRte (fun r => { r with fstate := 3, drainDis := satAdd 32 r.drainDis n })).raiseAny 0xC4A1).rte =
      { A.rte with fstate := 3, drainDis := satAdd 32 A.rte.drainDis n } := hR .rte (by simp)
  refine ⟨(A.upRte (fun r => { r with fstate := 3, drainDis := satAdd 32 r.drainDis n })).raiseAny 0xC4A1, ?_,
    (hAo.mono (by simp)).trans ((hB.mono (by simp)).trans (hR.mono (by simp))), by rw [hrte], ?_, by rw [hrte, hAr], fun p hp => ?_⟩
  · unfold doDrainTimeout
    refine (if_pos hf).trans ?_
    rw [← hA, ← hn]
    simp only [Port.heldOut, ← Nat.add_assoc]
    rfl
  · exact Raises.of_same ((src_same (hB .evc (by simp)) _).trans (src_same (hAo .evc (by simp)) _)) (raises_raiseAny _ _)
  · exact ((port_same (hR .ports (by simp)) p).trans (port_same (hB .ports (by simp)) p)).trans (hAp p hp)

/-! ### The gang (R242, R243) -/

/-- R242: the master changes. -/
theorem follow_changes (d : Dev) {a : Nat} (ha : a ≠ if d.rte.noMaster then 8 else d.rte.master) :
    ∃ D, d.follow a = D ∧ DevOnly [.rte, .pwr, .evc, .free] d D ∧ D.rte.master = (if a = 8 then 0 else a) ∧ D.rte.noMaster = (a == 8) ∧
      D.rte.isMaster = (a == d.myA) ∧ D.rte.changes = satAdd 16 d.rte.changes 1 ∧ D.rte.heldInj = d.rte.heldInj ∧ D.rte.devId = d.rte.devId ∧
      D.pwr.alloc = 0 ∧ Raises 0xC4A6 d D := by
  obtain ⟨A, hA, hAo, hAp, hA1, hA2, hA3, hA4, hA5, hA6⟩ : ∃ A, d.follow a = A.raiseAny 0xC4A6 ∧ DevOnly [.rte, .pwr] d A ∧ A.pwr.alloc = 0 ∧
      A.rte.master = (if a = 8 then 0 else a) ∧ A.rte.noMaster = (a == 8) ∧ A.rte.isMaster = (a == d.myA) ∧
      A.rte.changes = satAdd 16 d.rte.changes 1 ∧ A.rte.heldInj = d.rte.heldInj ∧ A.rte.devId = d.rte.devId := by
    unfold Dev.follow
    simp only [if_neg ha]
    exact ⟨_, rfl, ((devOnly_upRte _ _).mono (by simp)).trans ((devOnly_upPwr _ _).mono (by simp)), rfl, rfl, rfl, rfl, rfl, rfl, rfl⟩
  have hR := devOnly_raiseAny A 0xC4A6
  have hrte : (A.raiseAny 0xC4A6).rte = A.rte := hR .rte (by simp)
  have hpwr : (A.raiseAny 0xC4A6).pwr = A.pwr := hR .pwr (by simp)
  rw [← hrte] at hA1 hA2 hA3 hA4 hA5 hA6
  rw [← hpwr] at hAp
  exact ⟨_, hA, (hAo.mono (by simp)).trans (hR.mono (by simp)), hA1, hA2, hA3, hA4, hA5, hA6, hAp,
    (raises_raiseAny A _).of_same (src_same (hAo .evc (by simp)) _)⟩

/-- R242: the beacon, or the reply, that this device sends to member `a`. -/
def Dev.beacon (d : Dev) (a : Nat) (reply : Bool) : Packet := d.packet 0x1B (d.gangId a) 0 0 0 0 d.rte.live.toNat (b2n reply) []

theorem sendBeacon_eq (d : Dev) (a : Nat) (reply : Bool) : d.sendBeacon a reply = d.inject (d.beacon a reply) := rfl

/-- R242: beacons to a list of members, in order. -/
theorem beacons_inject (l : List Nat) (d : Dev) :
    ∃ D, d.each l (fun d a => d.sendBeacon a false) = D ∧ DevOnly [.rte, .out] d D ∧
      D.rte = { d.rte with heldInj := d.rte.heldInj ++ l.map (fun a => d.beacon a false) } := by
  unfold Dev.each
  induction l generalizing d with
  | nil => exact ⟨d, rfl, DevOnly.refl _ _, by rw [List.map_nil, List.append_nil]⟩
  | cons a l ih =>
    have hB := (feeds_inject d (d.beacon a false)).1
    have hr : (d.inject (d.beacon a false)).rte = { d.rte with heldInj := d.rte.heldInj ++ [d.beacon a false] } := rfl
    rw [List.foldl_cons, sendBeacon_eq]
    generalize d.inject (d.beacon a false) = B at *
    have hbeacon : ∀ a, B.beacon a false = d.beacon a false := fun a => by
      show B.packet _ (B.gangId a) _ _ _ _ B.rte.live.toNat _ _ = _
      unfold Dev.gangId Dev.packet
      rw [hr]
      rfl
    obtain ⟨D, hD, hDo, hDr⟩ := ih B
    refine ⟨D, hD, hB.trans hDo, ?_⟩
    rw [hDr, hr]
    simp only [hbeacon, List.map_cons, List.append_assoc, List.singleton_append]

theorem doGangBeaconSend_sends {d : Dev} (h : d.rte.isMaster = true) : ∃ D, doGangBeaconSend d = D ∧ DevOnly [.rte, .out] d D ∧
    D.rte.live = d.liveNow ∧
    ∃ l, D.rte.heldInj = d.rte.heldInj ++ l ∧ l.map (·.dst) = d.gangOthers.map d.gangId ∧
      ∀ k ∈ l, k.kind = 0x1B ∧ k.src = d.rte.devId ∧ k.arg0 = d.liveNow.toNat ∧ k.arg1 = 0 := by
  obtain ⟨A, hA, hAo, hAr⟩ : ∃ A, d.upRte (fun r => { r with live := d.liveNow }) = A ∧ DevOnly [.rte] d A ∧ A.rte = { d.rte with live := d.liveNow } :=
    ⟨_, rfl, devOnly_upRte _ _, rfl⟩
  have hothers : A.gangOthers = d.gangOthers := by unfold Dev.gangOthers Dev.myA; rw [hAr]
  obtain ⟨D, hD, hDo, hDr⟩ := beacons_inject A.gangOthers A
  have hids : ∀ a, A.gangId a = d.gangId a := fun a => by unfold Dev.gangId; rw [hAr]
  refine ⟨D, ?_, (hAo.mono (by simp)).trans hDo, by rw [hDr, hAr], A.gangOthers.map (fun a => A.beacon a false), by rw [hDr, hAr], ?_, fun k hk => ?_⟩
  · unfold doGangBeaconSend
    rw [if_pos h]
    simp only [hA]
    exact hD
  · rw [List.map_map, hothers]
    exact List.map_congr_left fun a _ => hids a
  · obtain ⟨a, -, rfl⟩ := List.mem_map.mp hk
    have hid : A.rte.devId = d.rte.devId := by rw [hAr]
    have hlive : A.rte.live = d.liveNow := by rw [hAr]
    exact ⟨rfl, hid, congrArg BitVec.toNat hlive, rfl⟩

section
variable {d : Dev} {k : Packet}

/-- R242: a member's reply keeps it live. -/
theorem doGangBeacon_reply (hs : k.src = d.gangId (devA k.src)) (hm : devA k.src ≠ d.myA) (hr : k.arg1 % 2 = 1) (h : d.rte.isMaster = true) :
    ∃ D, doGangBeacon d k = D ∧ DevOnly [.rte] d D ∧ D.rte.replyAt = tset 0 d.rte.replyAt (devA k.src) (max 1 d.now) ∧ D.rte.live = D.liveNow := by
  have hcond : ¬((k.src != (d.takePkt k).gangId (devA k.src) || decide (devA k.src = (d.takePkt k).myA)) = true) := by
    have hm' : ¬devA k.src = (d.takePkt k).myA := hm
    rw [decide_eq_false hm', Bool.or_false, bne_iff_ne, not_not]
    exact hs
  let A := (d.takePkt k).upRte (fun r => { r with replyAt := tset 0 r.replyAt (devA k.src) (max 1 d.now) })
  refine ⟨A.upRte (fun r => { r with live := A.liveNow }), ?_, (devOnly_takePkt d k).trans ((devOnly_upRte _ _).trans (devOnly_upRte _ _)), rfl, rfl⟩
  unfold doGangBeacon
  exact (if_neg hcond).trans ((if_pos hr).trans (if_pos h))

/-- R242: a beacon of a member lower than the master is followed and answered. -/
theorem doGangBeacon_follows (hs : k.src = d.gangId (devA k.src)) (hm : devA k.src ≠ d.myA) (hr : k.arg1 % 2 = 0)
    (h : devA k.src < if d.rte.noMaster then 8 else d.rte.master) :
    ∃ D, doGangBeacon d k = D ∧ DevOnly [.rte, .pwr, .evc, .free, .out] d D ∧ D.rte.master = devA k.src ∧ D.rte.noMaster = false ∧
      D.rte.isMaster = false ∧ D.rte.changes = satAdd 16 d.rte.changes 1 ∧ D.pwr.alloc = 0 ∧ Raises 0xC4A6 d D ∧
      Injects d D (fun u => u.kind = 0x1B ∧ u.dst = d.gangId (devA k.src) ∧ u.arg1 = 1) := by
  have hT := devOnly_takePkt d k
  obtain ⟨A, hA, hAo, hAm, hAn, hAi, hAc, hAh, hAd, hAp, hAr⟩ := follow_changes (d.takePkt k) (a := devA k.src) (Nat.ne_of_lt h)
  have ha8 : devA k.src ≠ 8 := Nat.ne_of_lt (Nat.mod_lt _ (by omega))
  have hI := feeds_inject A (A.beacon (devA k.src) true)
  have hcond : ¬((k.src != (d.takePkt k).gangId (devA k.src) || decide (devA k.src = (d.takePkt k).myA)) = true) := by
    have hm' : ¬devA k.src = (d.takePkt k).myA := hm
    rw [decide_eq_false hm', Bool.or_false, bne_iff_ne, not_not]
    exact hs
  have hIr : (A.inject (A.beacon (devA k.src) true)).rte = { A.rte with heldInj := A.rte.heldInj ++ [A.beacon (devA k.src) true] } := rfl
  refine ⟨A.inject (A.beacon (devA k.src) true), ?_, (hT.mono (by simp)).trans ((hAo.mono (by simp)).trans (hI.1.mono (by simp))), ?_, ?_, ?_, ?_,
    hAp, ?_, A.beacon (devA k.src) true, ?_, rfl, ?_, rfl⟩
  · unfold doGangBeacon
    refine (if_neg hcond).trans ((if_neg (by omega)).trans ?_)
    rw [← sendBeacon_eq, ← hA]
    exact congrArg (fun e => Dev.sendBeacon e (devA k.src) true) (if_pos (Nat.le_of_lt h))
  · rw [hIr]; exact hAm.trans (if_neg ha8)
  · rw [hIr]; exact hAn.trans (beq_eq_false_iff_ne.mpr ha8)
  · rw [hIr]; exact hAi.trans (beq_eq_false_iff_ne.mpr hm)
  · rw [hIr]; exact hAc
  · exact (hAr.of_same rfl).then rfl
  · rw [hIr, hAh]; rfl
  · show A.gangId _ = d.gangId _
    unfold Dev.gangId
    rw [hAd]
    rfl

end

theorem doGangMasterTimeout_leads {d : Dev} (he : d.eligibleMaster = true) (hi : d.rte.isMaster = false)
    (hm : d.rte.noMaster = true ∨ d.rte.master ≠ d.myA) :
    ∃ D, doGangMasterTimeout d = D ∧ DevOnly [.rte, .pwr, .evc, .free] d D ∧ D.rte.isMaster = true ∧ D.rte.master = d.myA ∧
      D.rte.noMaster = false ∧ D.rte.changes = satAdd 16 d.rte.changes 1 ∧ Raises 0xC4A6 d D := by
  have h8 : d.myA ≠ 8 := Nat.ne_of_lt (Nat.mod_lt _ (by omega))
  have hne : d.myA ≠ if d.rte.noMaster then 8 else d.rte.master := by
    split
    · exact h8
    · rename_i hn
      exact (hm.resolve_left hn).symm
  obtain ⟨D, hD, hDo, hDm, hDn, hDi, hDc, -, -, -, hDr⟩ := follow_changes d hne
  refine ⟨D, ?_, hDo, hDi.trans (beq_self_eq_true _), hDm.trans (if_neg h8), hDn.trans (beq_eq_false_iff_ne.mpr h8), hDc, hDr⟩
  unfold doGangMasterTimeout
  rw [he, hi]
  exact hD

theorem doGangFollowTimeout_leaves {d : Dev} (hi : d.rte.isMaster = false) (hn : d.rte.noMaster = false) (hm : d.rte.master < 8) :
    ∃ D, doGangFollowTimeout d = D ∧ DevOnly [.rte, .pwr, .evc, .free] d D ∧ D.rte.noMaster = true ∧ D.rte.isMaster = false ∧
      D.rte.master = 0 ∧ D.pwr.alloc = 0 ∧ Raises 0xC4A6 d D := by
  have h8 : 8 ≠ d.myA := (Nat.ne_of_lt (Nat.mod_lt _ (by omega))).symm
  have hne : 8 ≠ if d.rte.noMaster then 8 else d.rte.master := by
    rw [hn]
    exact (Nat.ne_of_lt hm).symm
  obtain ⟨D, hD, hDo, hDm, hDn, hDi, -, -, -, hDp, hDr⟩ := follow_changes d hne
  refine ⟨D, ?_, hDo, hDn, hDi.trans (beq_eq_false_iff_ne.mpr h8), hDm, hDp, hDr⟩
  unfold doGangFollowTimeout
  rw [hi, hn]
  exact hD

end Sys2Proof.Machine
end

section
/-! PROOFS. The fabric state machine and the gang: the shape of their commands (R237–R243). -/

namespace Sys2Proof.Machine

/-- A command that answers with a changed device: its device before the report, and what every later state keeps of it. -/
theorem runs_devE {c : Instr} {s : State} {bs : List Block} {post : Dev → Prop} {F : Dev → Dev} {D : Dev} (h : exec c s = onDevN s F)
    (hD : F s.dev = D) (o : DevOnly bs s.dev D) (hm : Block.mgmt ∈ bs) (ho : Block.out ∈ bs)
    (p : ∀ e, DevOnly [.mgmt, .out] D e → post e) : Runs c s bs post :=
  runs_devN h hD o hm ho (p _ (devOnly_report _ _))

/-- As runs_devE, of a command by register. -/
theorem runs_regE {c : Instr} {s : State} {r : Requester} {bs : List Block} {post : Dev → Prop} {f : Dev → Dev} (h : exec c s = onReg s r f)
    (hr : s.dev.reaches r = true) (ha : Block.acc ∈ bs) (hs : Block.sec ∈ bs) (hm : Block.mgmt ∈ bs) (ho : Block.out ∈ bs)
    (p : ∀ d, DevOnly [.acc, .sec] s.dev d → ∃ D, f d = D ∧ DevOnly bs d D ∧ ∀ e, DevOnly [.mgmt, .out] D e → post e) : Runs c s bs post := by
  refine runs_onReg h hr ha hs hm ho (fun d hd => ?_) fun d hd => ?_
  · obtain ⟨D, hD, o, -⟩ := p d hd
    rwa [hD]
  · obtain ⟨D, hD, -, hpost⟩ := p d hd
    rw [hD]
    exact hpost _ (devOnly_report _ _)

/-- R237, R245: the pending copy with the register of the window that a write names. -/
theorem put_listed {p p' : Prot} {off v : Nat} (h : (off, p') ∈ [(0x20, { p with mask := BitVec.ofNat 18 v }),
      (0x24, { p with brkC := (fld v 6 0, fld v 14 8, bit v 31) }), (0x28, { p with brkD := (fld v 6 0, fld v 14 8, bit v 31) }),
      (0x2C, { p with detA := BitVec.ofNat 8 v, detB := BitVec.ofNat 8 (v / 256) }), (0x30, { p with healthA := BitVec.ofNat 64 v }),
      (0x38, { p with healthB := BitVec.ofNat 64 v })]) : p.put off v = p' := by
  simp only [List.mem_cons, List.not_mem_nil, or_false, Prod.mk.injEq] at h
  rcases h with ⟨rfl, rfl⟩ | ⟨rfl, rfl⟩ | ⟨rfl, rfl⟩ | ⟨rfl, rfl⟩ | ⟨rfl, rfl⟩ | ⟨rfl, rfl⟩ <;> rfl

section
variable {d : Dev}

theorem doResume_refused {e : Nat} (h : d.rte.fstate = 0 ∨ d.rte.epoch ≠ e % 2 ^ 16) :
    doResume d e = d.upRte (fun r => { r with frefused := satAdd 8 r.frefused 1 }) := by
  unfold doResume
  refine if_pos ?_
  rwa [Bool.or_eq_true, decide_eq_true_eq, bne_iff_ne]

theorem doProtectedRegisterWrite_open (off v : Nat) (h : d.rte.fstate = 2 ∨ d.rte.fstate = 3) :
    doProtectedRegisterWrite d off v = d.upRte (fun r => { r with pend := r.pend.put off v }) := by
  unfold doProtectedRegisterWrite
  refine if_pos ?_
  rwa [Bool.or_eq_true, decide_eq_true_eq, decide_eq_true_eq]

theorem doProtectedRegisterWrite_shut (off v : Nat) (h : d.rte.fstate < 2) : doProtectedRegisterWrite d off v = d.raiseAny 0xC4A3 := by
  unfold doProtectedRegisterWrite
  refine if_neg ?_
  rw [Bool.or_eq_true, decide_eq_true_eq, decide_eq_true_eq]
  omega

theorem doDrainComplete_drained (h : d.rte.fstate = 1) (hd : d.drainedNow = true) :
    doDrainComplete d = (d.upRte (fun r => { r with fstate := 2 })).raiseAny 0xC4A0 := by
  unfold doDrainComplete
  refine if_pos ?_
  rw [hd, h]
  rfl

theorem doDrainComplete_waits (hd : d.drainedNow = false) : doDrainComplete d = d := by
  unfold doDrainComplete
  refine if_neg ?_
  rw [hd, Bool.and_false]
  exact Bool.false_ne_true

end

end Sys2Proof.Machine
end

section
/-! PROOFS. The obligation about draining, resuming and the gang. -/

open Sys2Proof Sys2Proof.Machine

/-- Settles O38. -/
theorem drainResumeAndTheGang : Obligations.DrainResumeAndTheGang := by
  refine ⟨fun s r e hr => ⟨?_, fun hno => ?_, fun hf he => ?_, fun off v => ⟨fun hf p' hp' => ?_, fun hf => ?_⟩⟩,
    fun s hf => ⟨fun hd => ?_, fun hd => ?_, ?_⟩,
    fun s => ⟨fun hm => ?_, fun k hk ha => ⟨fun hr hm => ?_, fun hr hlt => ?_⟩, fun he hi hm => ?_, fun hi hn hm => ?_⟩⟩
  · refine runs_regE (f := fun d => doDrain d e) rfl hr (by simp) (by simp) (by simp) (by simp) fun d hd =>
      ⟨_, rfl, (devOnly_upRte _ _).mono (by simp), fun g hg => ?_⟩
    have hd' : d.rte = s.dev.rte := hd .rte (by simp)
    rw [show g.rte = (doDrain d e).rte from hg .rte (by simp), ← hd']
    rfl
  · refine runs_regE (f := fun d => doResume d e) rfl hr (by simp) (by simp) (by simp) (by simp) fun d hd => ?_
    have hd' : d.rte = s.dev.rte := hd .rte (by simp)
    rw [← hd'] at hno ⊢
    exact ⟨_, doResume_refused hno, (devOnly_upRte _ _).mono (by simp), fun g hg => hg .rte (by simp)⟩
  · refine runs_regE (f := fun d => doResume d e) rfl hr (by simp) (by simp) (by simp) (by simp) fun d hd => ?_
    have hd' : d.rte = s.dev.rte := hd .rte (by simp)
    obtain ⟨D, hD, ho, h1, h2, h3, h4, h5, h6⟩ := doResume_resumes (d := d) (e := e) (by rw [hd']; exact hf) (by rw [hd']; exact he)
    rw [hd'] at h2 h5 h6
    refine ⟨D, hD, ho.mono (by simp), fun g hg => ?_⟩
    rw [show g.rte = D.rte from hg .rte (by simp)]
    refine ⟨h1, h2, h3, (h4.of_same (src_same (hd .evc (by simp)) _)).then (src_same (hg .evc (by simp)) _), fun p hp => ?_, h6⟩
    rw [port_same (hg .ports (by simp)), h5 p hp, resumed_state, port_same (hd .ports (by simp))]
  · refine runs_regE (f := fun d => doProtectedRegisterWrite d off v) rfl hr (by simp) (by simp) (by simp) (by simp) fun d hd => ?_
    have hd' : d.rte = s.dev.rte := hd .rte (by simp)
    rw [← hd'] at hf hp' ⊢
    refine ⟨_, doProtectedRegisterWrite_open off v hf, (devOnly_upRte _ _).mono (by simp), fun g hg => ?_⟩
    rw [← put_listed hp']
    exact hg .rte (by simp)
  · refine runs_regE (f := fun d => doProtectedRegisterWrite d off v) rfl hr (by simp) (by simp) (by simp) (by simp) fun d hd => ?_
    have hd' : d.rte = s.dev.rte := hd .rte (by simp)
    refine ⟨_, doProtectedRegisterWrite_shut off v (by rw [hd']; exact hf), (devOnly_raiseAny _ _).mono (by simp), fun g hg => ?_⟩
    exact ((raises_raiseAny _ _).of_same (src_same (hd .evc (by simp)) _)).then (src_same (hg .evc (by simp)) _)
  · have hR := devOnly_raiseAny (s.dev.upRte (fun r => { r with fstate := 2 })) 0xC4A0
    refine runs_dev (D := (s.dev.upRte (fun r => { r with fstate := 2 })).raiseAny 0xC4A0) (by rw [← doDrainComplete_drained hf hd]; rfl)
      (((devOnly_upRte _ _).mono (by simp)).trans (hR.mono (by simp))) ⟨hR .rte (by simp), ?_⟩
    exact Raises.of_same (e := s.dev.upRte (fun r => { r with fstate := 2 })) rfl (raises_raiseAny _ _)
  · have hexec : exec .drainComplete s = .next { s with dev := doDrainComplete s.dev } := rfl
    rw [hexec, doDrainComplete_waits hd]
  · obtain ⟨D, hD, ho, h1, h2, h3, h4⟩ := doDrainTimeout_discards hf
    refine runs_dev (D := D) (by rw [← hD]; rfl) ho ⟨h1, h2, ?_, fun p hp => ⟨fun v => ?_, ?_, ?_⟩⟩
    · rw [h3]
      simp only [Port.heldOut, Nat.add_assoc]
    · rw [h4 p hp, drained_inBuf]
    · rw [h4 p hp]; rfl
    · rw [h4 p hp]; rfl
  · obtain ⟨D, hD, ho, h1, h2⟩ := doGangBeaconSend_sends hm
    refine runs_devE (F := fun d => doGangBeaconSend d) rfl hD (ho.mono (by simp)) (by simp) (by simp) fun g hg => ?_
    rw [show g.rte = D.rte from hg .rte (by simp)]
    exact ⟨h1, h2⟩
  · obtain ⟨D, hD, ho, h1, h2⟩ := doGangBeacon_reply hk ha hr hm
    refine runs_devE (F := fun d => doGangBeacon d k) rfl hD (ho.mono (by simp)) (by simp) (by simp) fun g hg => ?_
    have hgr : g.rte = D.rte := hg .rte (by simp)
    have hlive : g.liveNow = D.liveNow := by
      unfold Dev.liveNow Dev.gangOthers Dev.myA
      rw [hgr, show g.now = D.now from hg .now (by simp)]
    rw [hgr, hlive, h1]
    exact ⟨by rw [tget_set, if_pos rfl], fun j hj => by rw [tget_set, if_neg hj], h2⟩
  · obtain ⟨D, hD, ho, h1, h2, h3, h4, h5, h6, h7⟩ := doGangBeacon_follows hk ha hr hlt
    refine runs_devE (F := fun d => doGangBeacon d k) rfl hD (ho.mono (by simp)) (by simp) (by simp) fun g hg => ?_
    unfold Injects at *
    rw [show g.rte = D.rte from hg .rte (by simp), show g.pwr = D.pwr from hg .pwr (by simp)]
    exact ⟨h1, h2, h3, h4, h5, h6.then (src_same (hg .evc (by simp)) _), h7⟩
  · obtain ⟨D, hD, ho, h1, h2, h3, h4, h5⟩ := doGangMasterTimeout_leads he hi hm
    refine runs_devE (F := fun d => doGangMasterTimeout d) rfl hD (ho.mono (by simp)) (by simp) (by simp) fun g hg => ?_
    rw [show g.rte = D.rte from hg .rte (by simp)]
    exact ⟨h1, h2, h3, h4, h5.then (src_same (hg .evc (by simp)) _)⟩
  · obtain ⟨D, hD, ho, h1, h2, h3, h4, h5⟩ := doGangFollowTimeout_leaves hi hn hm
    refine runs_devE (F := fun d => doGangFollowTimeout d) rfl hD (ho.mono (by simp)) (by simp) (by simp) fun g hg => ?_
    rw [show g.rte = D.rte from hg .rte (by simp), show g.pwr = D.pwr from hg .pwr (by simp)]
    exact ⟨h1, h2, h3, h4, h5.then (src_same (hg .evc (by simp)) _)⟩

end

section
/-! PROOFS. Flow faults, the throttles, the allowance and the source in use (R323–R335). -/

namespace Sys2Proof.Machine

/-! ### Walking a list of entries -/

/-- As each_key, of updates that are as `F` says only while `P` holds, which they keep. -/
theorem each_key_of {α β : Type} {P : Dev → Prop} {g : Dev → Nat → β} {key : α → Nat} {f : Dev → α → Dev} {F : α → β → β}
    (hf : ∀ d x, P d → P (f d x) ∧ ∀ j, g (f d x) j = if j = key x then F x (g d j) else g d j) (l : List α) (hn : (l.map key).Nodup) (d : Dev)
    (hd : P d) : P (d.each l f) ∧ (∀ x ∈ l, g (d.each l f) (key x) = F x (g d (key x))) ∧ ∀ j, j ∉ l.map key → g (d.each l f) j = g d j := by
  induction l generalizing d with
  | nil => exact ⟨hd, fun x hx => absurd hx List.not_mem_nil, fun _ _ => rfl⟩
  | cons a l ih =>
    obtain ⟨hna, hnl⟩ := List.nodup_cons.mp hn
    obtain ⟨hP, hg⟩ := hf d a hd
    obtain ⟨hPe, hin, hout⟩ := ih hnl (f d a) hP
    have hstep : d.each (a :: l) f = (f d a).each l f := rfl
    rw [hstep]
    refine ⟨hPe, fun x hx => ?_, fun j hj => ?_⟩
    · rcases List.mem_cons.mp hx with rfl | hx
      · rw [hout _ hna, hg, if_pos rfl]
      · have hne : key x ≠ key a := fun h => hna (h ▸ List.mem_map_of_mem hx)
        rw [hin x hx, hg, if_neg hne]
    · obtain ⟨hja, hjl⟩ := not_or.mp (fun h => hj (List.mem_cons.mpr h))
      rw [hout j hjl, hg, if_neg hja]

/-- An entry that no element of the list updates. -/
theorem each_other {α β : Type} {g : Dev → Nat → β} {key : α → Nat} {f : Dev → α → Dev} (hf : ∀ d x j, j ≠ key x → g (f d x) j = g d j)
    (l : List α) (d : Dev) {j : Nat} (hj : j ∉ l.map key) : g (d.each l f) j = g d j := by
  induction l generalizing d with
  | nil => rfl
  | cons a l ih =>
    obtain ⟨hja, hjl⟩ := not_or.mp (fun h => hj (List.mem_cons.mpr h))
    exact (ih (f d a) hjl).trans (hf d a j hja)

/-! ### The pin that asks for the removal of VMAIN (R431) -/

/-- What a notification leaves of the management block: all that does not depend on the notifications and their tags. -/
theorem notify_mgmt {β : Type} (g : Mgmt → β) (hg : ∀ m n t, g { m with notes := n, nextTag := t } = g m) (d : Dev) (cmd : Nat) (body : Bytes) :
    g (d.notify cmd body).mgmt = g d.mgmt := by
  unfold Dev.notify
  dsimp only
  split
  · exact hg _ _ _
  · exact hg _ _ _

theorem report_mgmt {β : Type} (g : Mgmt → β) (hg : ∀ m n t, g { m with notes := n, nextTag := t } = g m) (old d : Dev) :
    g (Dev.report old d).mgmt = g d.mgmt := by
  have heach := each_inv (fun d => g d.mgmt) (parts16.filter (fun p => old.partCode p != d.partCode p)) (fun d p => d.notifyPart p)
    (fun e p => notify_mgmt g hg e 0x0101 [BitVec.ofNat 8 p, BitVec.ofNat 8 (e.partCode p), BitVec.ofNat 8 (e.part p).rcCause]) d
  unfold Dev.report
  dsimp only
  split
  · exact heach
  · exact (notify_mgmt g hg _ _ _).trans heach

theorem devOnly_vmainRemove (d : Dev) (c : Nat) : DevOnly [.mgmt, .out] d (d.vmainRemove c) :=
  ((devOnly_upMgmt _ _).mono (by simp)).trans (devOnly_notify _ _ _)

theorem vmainRemove_vmHold (d : Dev) (c : Nat) : (d.vmainRemove c).mgmt.vmHold = some c :=
  notify_mgmt Mgmt.vmHold (fun _ _ _ => rfl) _ _ _

/-! ### Flow loss (R335) -/

section
variable {d : Dev}

/-- R335: the hold of a flow loss ends. -/
theorem doFlowRecover_ends (hl : d.thm.flowLoss = true) (hn : d.thm.noLeave = false) (ho : d.thm.okFrom.isSome = true) :
    ∃ D, doFlowRecover d = D ∧ DevOnly [.thm, .mem, .evc] d D ∧ D.thm = { d.thm with flowLoss := false, okFrom := none, hold := false } ∧
      RaisesOnly 0xCE32 d.thm.flow d D ∧
      D.mem.hbm = tmap Stack.init (fun _ x => if x.state = 2 then { x with state := 1 } else x) d.mem.hbm := by
  obtain ⟨A, hA, hAo, hAt, hAm⟩ : ∃ A, (d.upThm (fun t => { t with flowLoss := false, okFrom := none })).leaveHold = A ∧
      DevOnly [.thm, .mem] d A ∧ A.thm = { d.thm with flowLoss := false, okFrom := none, hold := false } ∧
      A.mem.hbm = tmap Stack.init (fun _ x => if x.state = 2 then { x with state := 1 } else x) d.mem.hbm :=
    ⟨_, rfl, ((devOnly_upThm _ _).mono (by simp)).trans (((devOnly_upThm _ _).mono (by simp)).trans ((devOnly_upMem _ _).mono (by simp))), rfl, rfl⟩
  have hsrc := src_same (hAo .evc (by simp))
  refine ⟨A.raise 0xCE32 d.thm.flow, ?_, (hAo.mono (by simp)).trans ((devOnly_raise _ _ _).mono (by simp)), by rw [raise_thm, hAt], ?_,
    by rw [raise_mem, hAm]⟩
  · unfold doFlowRecover
    simp only [hl, hn, ho, Bool.not_false, Bool.and_self, if_true, hA]
  · have h := raisesOnly_raise A 0xCE32 d.thm.flow
    unfold RaisesOnly Raises But at *
    simp only [hsrc] at h
    exact h

/-- R335: a flow loss becomes final. -/
theorem doFlowLossTimeout_final (hl : d.thm.flowLoss = true) (hn : d.thm.noLeave = false) :
    ∃ D, doFlowLossTimeout d = D ∧ DevOnly [.thm, .evc, .mgmt, .out] d D ∧
      D.thm = { d.thm with noLeave := true, vmReq := true, logSens := 0xFF, logFlow := true } ∧
      RaisesOnly 0xCE33 d.thm.flow d D ∧ D.mgmt.vmHold = some 1 := by
  obtain ⟨A, hA, hAo, hAt, hAe⟩ : ∃ A, d.upThm (fun t => { t with noLeave := true, vmReq := true, logSens := 0xFF, logFlow := true }) = A ∧
      DevOnly [.thm] d A ∧ A.thm = { d.thm with noLeave := true, vmReq := true, logSens := 0xFF, logFlow := true } ∧ A.evc = d.evc :=
    ⟨_, rfl, devOnly_upThm _ _, rfl, rfl⟩
  have hsrc := src_same hAe
  have hV := devOnly_vmainRemove (A.raise 0xCE33 d.thm.flow) 1
  have hVsrc := src_same (hV .evc (by simp))
  refine ⟨(A.raise 0xCE33 d.thm.flow).vmainRemove 1, ?_,
    (hAo.mono (by simp)).trans (((devOnly_raise _ _ _).mono (by simp)).trans (hV.mono (by simp))), ?_, ?_, vmainRemove_vmHold _ _⟩
  · unfold doFlowLossTimeout
    simp only [hl, hn, Bool.not_false, Bool.and_self, if_true, hA]
  · rw [show ((A.raise 0xCE33 d.thm.flow).vmainRemove 1).thm = (A.raise 0xCE33 d.thm.flow).thm from hV .thm (by simp), raise_thm, hAt]
  · have h := raisesOnly_raise A 0xCE33 d.thm.flow
    unfold RaisesOnly Raises But at *
    simp only [hVsrc]
    simp only [hsrc] at h
    exact h

end

/-! ### The thermal model (R329) -/

/-- R329: the estimate of a quadrant whose power was `w`, in a device with flow. -/
def Dev.estimate (d : Dev) (w : Nat) : Int :=
  d.thm.inlet + ((d.pwr.lastSecond * 40000000 + w * 18 * 132 * d.thm.flow) / (132 * d.thm.flow * 100000) : Nat)

/-- R329: one quadrant. -/
def modelStep (ws : List Nat) (d : Dev) (q : Nat) : Dev :=
  let f := d.thm.flow
  let num := d.pwr.lastSecond * 40000000 + ws.getD q 0 * 18 * 132 * f
  if f = 0 then (d.draw 16).2.upThm (fun t => { t with model := tset 0 t.model q (d.draw 16).1.toInt })
  else d.upThm (fun t => { t with model := tset 0 t.model q (t.inlet + num / (132 * f * 100000)) })

theorem doThermalModelUpdate_eq (d : Dev) (ws : List Nat) : doThermalModelUpdate d ws = d.each (List.range 4) (modelStep ws) := rfl

theorem devOnly_modelStep (ws : List Nat) (d : Dev) (q : Nat) : DevOnly [.thm, .free] d (modelStep ws d q) := by
  unfold modelStep
  dsimp only
  split
  · exact ((devOnly_draw d 16).mono (by simp)).trans ((devOnly_upThm _ _).mono (by simp))
  · exact (devOnly_upThm _ _).mono (by simp)

theorem modelStep_other (ws : List Nat) (d : Dev) (q j : Nat) (hj : j ≠ q) : tget 0 (modelStep ws d q).thm.model j = tget 0 d.thm.model j := by
  unfold modelStep
  dsimp only
  split
  · exact (tget_set 0 d.thm.model q _ j).trans (if_neg hj)
  · exact (tget_set 0 d.thm.model q _ j).trans (if_neg hj)

theorem modelStep_flow (ws : List Nat) (d : Dev) (q : Nat) (h : d.thm.flow ≠ 0) :
    modelStep ws d q = d.upThm (fun t => { t with model := tset 0 t.model q (d.estimate (ws.getD q 0)) }) := by
  have hcast : d.thm.inlet + ((d.pwr.lastSecond * 40000000 + ws.getD q 0 * 18 * 132 * d.thm.flow : Nat) : Int) / (132 * d.thm.flow * 100000) =
      d.estimate (ws.getD q 0) := by
    unfold Dev.estimate
    push_cast
    rfl
  rw [← hcast]
  unfold modelStep
  exact if_neg h

/-- R329: with flow, each quadrant's estimate. -/
theorem doThermalModelUpdate_flow (ws : List Nat) {d : Dev} (h : d.thm.flow ≠ 0) :
    ∃ D, doThermalModelUpdate d ws = D ∧ DevOnly [.thm] d D ∧
      ∀ q, tget 0 D.thm.model q = if q < 4 then d.estimate (ws.getD q 0) else tget 0 d.thm.model q := by
  have hn : ((List.range 4).map (fun q => q)).Nodup := by rw [List.map_id']; exact List.nodup_range
  obtain ⟨⟨ho, -⟩, hin, hout⟩ := each_key_of (P := fun e => DevOnly [.thm] d e ∧ ∃ m, e.thm = { d.thm with model := m })
    (g := fun e q => tget 0 e.thm.model q) (key := fun q => q) (f := modelStep ws) (F := fun q _ => d.estimate (ws.getD q 0))
    (fun e q ⟨heo, m, hem⟩ => by
      have hflow : e.thm.flow = d.thm.flow := by rw [hem]
      have hest : e.estimate (ws.getD q 0) = d.estimate (ws.getD q 0) := by
        unfold Dev.estimate
        rw [hem, show e.pwr = d.pwr from heo .pwr (by simp)]
      rw [modelStep_flow ws e q (by rw [hflow]; exact h), hest]
      refine ⟨⟨heo.trans (devOnly_upThm _ _), tset 0 e.thm.model q (d.estimate (ws.getD q 0)), ?_⟩, fun j => tget_set 0 e.thm.model q _ j⟩
      show ({ e.thm with model := _ } : Thm) = _
      rw [hem])
    (List.range 4) hn d ⟨DevOnly.refl _ _, d.thm.model, rfl⟩
  refine ⟨_, doThermalModelUpdate_eq d ws, ho, fun q => ?_⟩
  by_cases hq : q < 4
  · rw [if_pos hq]
    exact hin q (List.mem_range.mpr hq)
  · rw [if_neg hq]
    refine hout q ?_
    rw [List.map_id', List.mem_range]
    exact hq

/-- R329: what the update leaves whatever the flow. -/
theorem doThermalModelUpdate_other (ws : List Nat) (d : Dev) : DevOnly [.thm, .free] d (doThermalModelUpdate d ws) ∧
    ∀ q, 4 ≤ q → tget 0 (doThermalModelUpdate d ws).thm.model q = tget 0 d.thm.model q := by
  rw [doThermalModelUpdate_eq]
  refine ⟨devOnly_each _ _ (devOnly_modelStep ws) d, fun q hq => ?_⟩
  refine each_other (g := fun e q => tget 0 e.thm.model q) (key := fun q => q) (modelStep_other ws) (List.range 4) d ?_
  rw [List.map_id', List.mem_range]
  omega

/-! ### The junction throttle (R332) -/

/-- R332: the thermal limits of a quadrant's clusters. -/
def Dev.throttleEach (d : Dev) (q : Nat) (f : Pwr → Nat → Nat) : Dev :=
  d.each ((List.range 16).map (· + 16 * q)) (fun d c => d.upPwr (fun p => { p with thermal := tset 65535 p.thermal c (f p c) }))

theorem throttleEach_sets (d : Dev) (q : Nat) (f : Pwr → Nat → Nat) (F : Nat → Nat → Nat)
    (hf : ∀ t c, f { d.pwr with thermal := t } c = F c (tget 65535 t c)) :
    ∃ D, d.throttleEach q f = D ∧ DevOnly [.pwr] d D ∧
      ∀ c, tget 65535 D.pwr.thermal c = if c / 16 = q then F c (tget 65535 d.pwr.thermal c) else tget 65535 d.pwr.thermal c := by
  have hn : (((List.range 16).map (· + 16 * q)).map (fun c => c)).Nodup := by
    rw [List.map_id']
    exact List.nodup_range.map (fun a b h => Nat.add_right_cancel h)
  have hmem : ∀ c, c ∈ (List.range 16).map (· + 16 * q) ↔ c / 16 = q := fun c => by
    rw [List.mem_map]
    constructor
    · rintro ⟨a, ha, rfl⟩
      have := List.mem_range.mp ha
      omega
    · intro h
      exact ⟨c % 16, List.mem_range.mpr (by omega), by omega⟩
  unfold Dev.throttleEach
  generalize (List.range 16).map (· + 16 * q) = l at *
  obtain ⟨⟨ho, -⟩, hin, hout⟩ := each_key_of (P := fun e => DevOnly [.pwr] d e ∧ ∃ t, e.pwr = { d.pwr with thermal := t })
    (g := fun e c => tget 65535 e.pwr.thermal c) (key := fun c => c)
    (f := fun d c => d.upPwr (fun p => { p with thermal := tset 65535 p.thermal c (f p c) })) (F := F)
    (fun e c ⟨heo, t, het⟩ => by
      refine ⟨⟨heo.trans (devOnly_upPwr _ _), tset 65535 e.pwr.thermal c (f e.pwr c), ?_⟩, fun j => ?_⟩
      · show ({ e.pwr with thermal := _ } : Pwr) = _
        rw [het]
      · refine (tget_set 65535 e.pwr.thermal c _ j).trans ?_
        by_cases hj : j = c
        · rw [if_pos hj, if_pos hj, hj, het, hf]
        · rw [if_neg hj, if_neg hj])
    l hn d ⟨DevOnly.refl _ _, d.pwr.thermal, rfl⟩
  refine ⟨_, rfl, ho, fun c => ?_⟩
  by_cases hc : c / 16 = q
  · rw [if_pos hc]
    exact hin c ((hmem c).mpr hc)
  · rw [if_neg hc]
    refine hout c ?_
    rw [List.map_id']
    exact fun h => hc ((hmem c).mp h)

/-- R312: what the governed check leaves. -/
theorem governedCheck_keeps (d : Dev) : ∃ D, d.governedCheck = D ∧ DevOnly [.pwr, .evc] d D ∧ D.pwr.thermal = d.pwr.thermal ∧
    ∀ n, n ≠ 0xCC09 → n ≠ 0xCC0A → D.src n = d.src n := by
  have hraise : ∀ b n i, DevOnly [.pwr, .evc] d ((d.upPwr (fun p => { p with lostGov := b })).raise n i) := fun b n i =>
    ((devOnly_upPwr _ _).mono (by simp)).trans ((devOnly_raise _ _ _).mono (by simp))
  unfold Dev.governedCheck
  dsimp only
  split
  · split
    · exact ⟨d, rfl, DevOnly.refl _ _, rfl, fun _ _ _ => rfl⟩
    · exact ⟨_, rfl, hraise _ _ _, by rw [raise_pwr]; rfl, fun n h9 _ => (src_raise_ne _ 0xCC09 _ h9).trans rfl⟩
  · split
    · exact ⟨_, rfl, hraise _ _ _, by rw [raise_pwr]; rfl, fun n _ hA => (src_raise_ne _ 0xCC0A _ hA).trans rfl⟩
    · exact ⟨d, rfl, DevOnly.refl _ _, rfl, fun _ _ _ => rfl⟩

theorem throttle_set : ∀ (v : BitVec 4) (q : Fin 4) (b : Bool),
    bit (BitVec.ofNat 4 (setFld v.toNat q.1 q.1 (b2n b))).toNat q.1 = b := by decide

/-- R332: the throttle of quadrant `q` begins or ends where it had not. -/
theorem throttle_turns (d : Dev) {q : Nat} (hq : q < 4) (b : Bool) (n i : Nat) :
    ∃ D, (if bit d.thm.throttle.toNat q = b then d
        else (d.upThm (fun t => { t with throttle := BitVec.ofNat 4 (setFld t.throttle.toNat q q (b2n b)) })).raise n i) = D ∧
      DevOnly [.thm, .evc] d D ∧ bit D.thm.throttle.toNat q = b ∧ (bit d.thm.throttle.toNat q = !b → Raises n d D) := by
  by_cases h : bit d.thm.throttle.toNat q = b
  · rw [if_pos h]
    exact ⟨d, rfl, DevOnly.refl _ _, h, fun hb => absurd (h.symm.trans hb) (by cases b <;> simp)⟩
  · rw [if_neg h]
    have hR := raisesOnly_raise (d.upThm (fun t => { t with throttle := BitVec.ofNat 4 (setFld t.throttle.toNat q q (b2n b)) })) n i
    refine ⟨_, rfl, ((devOnly_upThm _ _).mono (by simp)).trans ((devOnly_raise _ _ _).mono (by simp)), ?_, fun _ => hR.1.of_same rfl⟩
    rw [raise_thm]
    exact throttle_set d.thm.throttle ⟨q, hq⟩ b

/-- R332: what one tick does once the throttle state is `b`: the limits as `F` says. -/
theorem throttleTick_sets {d D : Dev} {q n i : Nat} (hq : q < 4) (b : Bool) (f : Pwr → Nat → Nat) (F : Nat → Nat → Nat)
    (hf : ∀ t c, f { d.pwr with thermal := t } c = F c (tget 65535 t c)) (hn : n ≠ 0xCC09 ∧ n ≠ 0xCC0A)
    (hD : ((if bit d.thm.throttle.toNat q = b then d
        else (d.upThm (fun t => { t with throttle := BitVec.ofNat 4 (setFld t.throttle.toNat q q (b2n b)) })).raise n i).throttleEach q
          f).governedCheck = D) :
    DevOnly [.thm, .pwr, .evc] d D ∧
      (∀ c, tget 65535 D.pwr.thermal c = if c / 16 = q then F c (tget 65535 d.pwr.thermal c) else tget 65535 d.pwr.thermal c) ∧
      bit D.thm.throttle.toNat q = b ∧ (bit d.thm.throttle.toNat q = !b → Raises n d D) := by
  obtain ⟨A, hA, hAo, hAb, hAr⟩ := throttle_turns d hq b n i
  have hAp : A.pwr = d.pwr := hAo .pwr (by simp)
  obtain ⟨B, hB, hBo, hBt⟩ := throttleEach_sets A q f F (by rw [hAp]; exact hf)
  obtain ⟨C, hC, hCo, hCt, hCs⟩ := governedCheck_keeps B
  rw [hA, hB, hC] at hD
  subst hD
  refine ⟨(hAo.mono (by simp)).trans ((hBo.mono (by simp)).trans (hCo.mono (by simp))), fun c => by rw [hCt, hBt, hAp], ?_, fun h => ?_⟩
  · rw [show C.thm = B.thm from hCo .thm (by simp), show B.thm = A.thm from hBo .thm (by simp)]
    exact hAb
  · exact (hAr h).then ((hCs n hn.1 hn.2).trans (src_same (hBo .evc (by simp)) n))

section
variable {d : Dev} {q : Nat}

/-- R332: a quadrant above 100 °C. -/
theorem doJunctionThrottleTick_hot (hq : q < 4) (hv : 400 < (d.hottest q).2) :
    ∃ D, doJunctionThrottleTick d q = D ∧ DevOnly [.thm, .pwr, .evc] d D ∧
      (∀ c, tget 65535 D.pwr.thermal c = if c / 16 = q then limitDown (d.pwr.limit c) else tget 65535 d.pwr.thermal c) ∧
      bit D.thm.throttle.toNat q = true ∧ (bit d.thm.throttle.toNat q = false → Raises (0xCE00 + q) d D) := by
  refine ⟨_, rfl, throttleTick_sets (i := (d.hottest q).1 + twos 16 (d.hottest q).2 * 65536) hq true (fun p c => limitDown (p.limit c))
    (fun c x => limitDown (min (d.pwr.powLimit c) x)) (fun _ _ => rfl) ⟨by omega, by omega⟩ ?_⟩
  unfold doJunctionThrottleTick
  generalize d.hottest q = x at *
  exact (if_pos hv).symm

/-- R332: a quadrant below 97 °C. -/
theorem doJunctionThrottleTick_cool (hq : q < 4) (hv : (d.hottest q).2 < 388) :
    ∃ D, doJunctionThrottleTick d q = D ∧ DevOnly [.thm, .pwr, .evc] d D ∧
      (∀ c, tget 65535 D.pwr.thermal c = if c / 16 = q then
        (if d.pwr.powLimit c ≤ limitUp (tget 65535 d.pwr.thermal c) then 65535 else limitUp (tget 65535 d.pwr.thermal c))
        else tget 65535 d.pwr.thermal c) ∧
      bit D.thm.throttle.toNat q = false ∧ (bit d.thm.throttle.toNat q = true → Raises (0xCE04 + q) d D) := by
  refine ⟨_, rfl, throttleTick_sets (i := (d.hottest q).1 + twos 16 (d.hottest q).2 * 65536) hq false
    (fun p c => if p.powLimit c ≤ limitUp (tget 65535 p.thermal c) then 65535 else limitUp (tget 65535 p.thermal c))
    (fun c x => if d.pwr.powLimit c ≤ limitUp x then 65535 else limitUp x) (fun _ _ => rfl) ⟨by omega, by omega⟩ ?_⟩
  have hhot : ¬400 < (d.hottest q).2 := by omega
  unfold doJunctionThrottleTick
  generalize d.hottest q = x at *
  refine Eq.trans ?_ ((if_neg hhot).trans (if_pos hv)).symm
  cases bit d.thm.throttle.toNat q <;> rfl

/-- R332: between 97 and 100 °C. -/
theorem doJunctionThrottleTick_between (hlo : 388 ≤ (d.hottest q).2) (hhi : (d.hottest q).2 ≤ 400) : doJunctionThrottleTick d q = d := by
  have hhot : ¬400 < (d.hottest q).2 := by omega
  have hcool : ¬(d.hottest q).2 < 388 := by omega
  unfold doJunctionThrottleTick
  generalize d.hottest q = x at *
  exact (if_neg hhot).trans (if_neg hcool)

end

/-! ### Selecting the source in use (R323, R327, R328) -/

/-- What a new flow and its events leave. -/
def KeepsSource (d e : Dev) : Prop := DevOnly [.thm, .mem, .pwr, .evc] d e ∧ e.thm.stale = d.thm.stale ∧ e.thm.inUse = d.thm.inUse ∧
  e.thm.inlet = d.thm.inlet ∧ e.src 0xCE41 = d.src 0xCE41

theorem KeepsSource.trans {d e g : Dev} (h : KeepsSource d e) (k : KeepsSource e g) : KeepsSource d g := by
  obtain ⟨h1, h2, h3, h4, h5⟩ := h
  obtain ⟨k1, k2, k3, k4, k5⟩ := k
  exact ⟨h1.trans k1, k2.trans h2, k3.trans h3, k4.trans h4, k5.trans h5⟩

theorem keepsSource_raise (d : Dev) {n : Nat} (i : Nat) (h : n ≠ 0xCE41) : KeepsSource d (d.raise n i) :=
  ⟨(devOnly_raise _ _ _).mono (by simp), by rw [raise_thm], by rw [raise_thm], by rw [raise_thm], src_raise_ne _ _ _ h.symm⟩

theorem keepsSource_upThm (d : Dev) (g : Thm → Thm) (hs : (g d.thm).stale = d.thm.stale) (hu : (g d.thm).inUse = d.thm.inUse)
    (hi : (g d.thm).inlet = d.thm.inlet) : KeepsSource d (d.upThm g) :=
  ⟨(devOnly_upThm _ _).mono (by simp), hs, hu, hi, rfl⟩

theorem keepsSource_enterHold (d : Dev) : KeepsSource d d.enterHold := by
  refine ⟨?_, rfl, rfl, rfl, rfl⟩
  unfold Dev.enterHold
  exact ((devOnly_upThm _ _).mono (by simp)).trans (((devOnly_upMem _ _).mono (by simp)).trans ((devOnly_upPwr _ _).mono (by simp)))

theorem newFlow_sets (d : Dev) (f : Nat) : KeepsSource d (d.newFlow f) ∧ (d.newFlow f).thm.flow = f := by
  obtain ⟨A, hA, hAk, hAf⟩ : ∃ A, d.upThm (fun t => { t with
      flow := f, okFrom := if t.flowLoss then t.okSince d.now f else none,
      flows := (d.now, f) :: t.flows.filter (fun x => decide (d.now < x.1 + 100000000)) }) = A ∧ KeepsSource d A ∧ A.thm.flow = f :=
    ⟨_, rfl, keepsSource_upThm d _ rfl rfl rfl, rfl⟩
  unfold Dev.newFlow
  dsimp only
  rw [hA]
  split
  · obtain ⟨B, hB, hBk, hBf⟩ : ∃ B, A.upThm (fun t => { t with flowLoss := true, noLeave := false, okFrom := none, losses := satAdd 16 t.losses 1 }) =
        B ∧ KeepsSource A B ∧ B.thm.flow = A.thm.flow := ⟨_, rfl, keepsSource_upThm A _ rfl rfl rfl, rfl⟩
    have hhold : B.enterHold.thm.flow = B.thm.flow := rfl
    rw [hB]
    refine ⟨hAk.trans (hBk.trans ((keepsSource_enterHold B).trans (keepsSource_raise _ _ (by omega)))), ?_⟩
    rw [raise_thm, hhold, hBf, hAf]
  · exact ⟨hAk, hAf⟩

theorem coolEvents_keeps (d : Dev) (a b : Int) : KeepsSource d (d.coolEvents a b) ∧ (d.coolEvents a b).thm = d.thm := by
  have hstep : ∀ (e : Dev) (c : Prop) [Decidable c] (n i : Nat), n ≠ 0xCE41 →
      KeepsSource e (if c then e.raise n i else e) ∧ (if c then e.raise n i else e).thm = e.thm := fun e c _ n i hn => by
    split
    · exact ⟨keepsSource_raise _ _ hn, raise_thm _ _ _⟩
    · exact ⟨⟨DevOnly.refl _ _, rfl, rfl, rfl, rfl⟩, rfl⟩
  unfold Dev.coolEvents
  dsimp only
  obtain ⟨h1, h2⟩ := hstep d ((decide (240 < d.thm.outlet) && decide (b ≤ 240)) = true) 0xCE43 (twos 16 d.thm.outlet) (by omega)
  generalize (if (decide (240 < d.thm.outlet) && decide (b ≤ 240)) = true then d.raise 0xCE43 (twos 16 d.thm.outlet) else d) = A at *
  obtain ⟨h3, h4⟩ := hstep A (((decide (A.thm.inlet < 60) || decide (180 < A.thm.inlet)) && !(decide (a < 60) || decide (180 < a))) = true) 0xCE44
    (twos 16 A.thm.inlet) (by omega)
  exact ⟨h1.trans h3, h4.trans h2⟩

/-- R323, R327, R328: the values in use are selected, and the allowed power recomputed. -/
theorem recool_selects (d : Dev) : ∃ D, d.recool = D ∧ DevOnly [.thm, .mem, .pwr, .evc, .free] d D ∧ D.thm.stale = d.thm.stale ∧
    D.thm.inUse = d.coolSource ∧ D.thm.allowed = allowedPower D.thm.flow D.thm.inlet ∧ D.src 0xCE41 = d.src 0xCE41 := by
  have hfinish : ∀ (e : Dev) (fixed : Bool) (tin tout oi oo : Int) (f : Nat), DevOnly [.free] d e →
      ∃ D, (((e.upThm (fun x => { x with inUse := d.coolSource, fixed := fixed, inlet := tin, outlet := tout })).newFlow f).coolEvents oi
          oo).upThm (fun x => x.allowTo (allowedPower f tin)) = D ∧ DevOnly [.thm, .mem, .pwr, .evc, .free] d D ∧ D.thm.stale = d.thm.stale ∧
        D.thm.inUse = d.coolSource ∧ D.thm.allowed = allowedPower D.thm.flow D.thm.inlet ∧ D.src 0xCE41 = d.src 0xCE41 := by
    intro e fixed tin tout oi oo f he
    have hU := devOnly_upThm e (fun x => { x with inUse := d.coolSource, fixed := fixed, inlet := tin, outlet := tout })
    have hsrcU : (e.upThm (fun x => { x with inUse := d.coolSource, fixed := fixed, inlet := tin, outlet := tout })).src 0xCE41 = e.src 0xCE41 := rfl
    obtain ⟨A, hA, hAt⟩ : ∃ A, e.upThm (fun x => { x with inUse := d.coolSource, fixed := fixed, inlet := tin, outlet := tout }) = A ∧
        A.thm = { e.thm with inUse := d.coolSource, fixed := fixed, inlet := tin, outlet := tout } := ⟨_, rfl, rfl⟩
    rw [hA] at hU hsrcU ⊢
    obtain ⟨hN, hflow⟩ := newFlow_sets A f
    generalize A.newFlow f = B at *
    obtain ⟨hC, hthm⟩ := coolEvents_keeps B oi oo
    generalize B.coolEvents oi oo = C at *
    obtain ⟨ho, h1, h2, h3, h4⟩ := hN.trans hC
    refine ⟨_, rfl, (he.mono (by simp)).trans ((hU.mono (by simp)).trans ((ho.mono (by simp)).trans ((devOnly_upThm _ _).mono (by simp)))),
      ?_, ?_, ?_, ?_⟩
    · show C.thm.stale = _
      rw [h1, hAt, show e.thm = d.thm from he .thm (by simp)]
    · show C.thm.inUse = _
      rw [h2, hAt]
    · show allowedPower f tin = allowedPower C.thm.flow C.thm.inlet
      rw [h3, hAt, hthm, hflow]
    · show C.src 0xCE41 = _
      rw [h4, hsrcU]
      exact src_same (he .evc (by simp)) _
  unfold Dev.recool
  dsimp only
  split
  · exact hfinish _ _ _ _ _ _ _ (devOnly_draw _ 16)
  · exact hfinish _ _ _ _ _ _ _ (DevOnly.refl _ _)

end Sys2Proof.Machine
end

section
/-! PROOFS. The obligation about flow loss, throttles and the allowance. -/

open Sys2Proof Sys2Proof.Machine

/-- Settles O40. -/
theorem flowLossThrottlesAndAllowance : Obligations.FlowLossThrottlesAndAllowance := by
  refine fun s => ⟨fun hl hn => ⟨fun hok => ?_, ?_⟩, fun ws => ⟨fun hf => ?_, ?_⟩, fun q hq => ⟨fun hv => ?_, fun hv => ?_, fun hlo hhi => ?_⟩,
    fun k hk hf hr hlim => ?_, fun hfell => ?_, fun hs => ?_⟩
  · obtain ⟨D, hD, ho, h1, h2, h3⟩ := doFlowRecover_ends hl hn hok
    refine runs_devE (F := fun d => doFlowRecover d) rfl hD (ho.mono (by simp)) (by simp) (by simp) fun g hg => ?_
    have hsrc := src_same (hg .evc (by simp))
    rw [show g.thm = D.thm from hg .thm (by simp), show g.mem = D.mem from hg .mem (by simp)]
    refine ⟨h1, ?_, h3⟩
    unfold RaisesOnly Raises But at *
    simp only [hsrc]
    exact h2
  · obtain ⟨D, hD, ho, h1, h2, h3⟩ := doFlowLossTimeout_final hl hn
    refine runs_devN (F := fun d => doFlowLossTimeout d) rfl hD (ho.mono (by simp)) (by simp) (by simp) ⟨by rw [report_thm, h1], ?_, ?_⟩
    · have hsrc := src_same (devOnly_report s.dev D .evc (by simp))
      unfold RaisesOnly Raises But at *
      simp only [hsrc]
      exact h2
    · rw [report_mgmt Mgmt.vmHold (fun _ _ _ => rfl), h3]
  · obtain ⟨D, hD, ho, h1⟩ := doThermalModelUpdate_flow ws hf
    refine runs_devN (F := fun d => doThermalModelUpdate d ws) rfl hD (ho.mono (by simp)) (by simp) (by simp) fun q => ?_
    rw [report_thm, h1]
    rfl
  · obtain ⟨ho, h1⟩ := doThermalModelUpdate_other ws s.dev
    refine runs_devN (F := fun d => doThermalModelUpdate d ws) rfl rfl (ho.mono (by simp)) (by simp) (by simp) fun q hq => ?_
    rw [report_thm]
    exact h1 q hq
  · obtain ⟨D, hD, ho, hpost⟩ := doJunctionThrottleTick_hot hq hv
    exact runs_unitDev (f := fun d => doJunctionThrottleTick d q) rfl (decide_eq_true hq) hD ho hpost
  · obtain ⟨D, hD, ho, hpost⟩ := doJunctionThrottleTick_cool hq hv
    exact runs_unitDev (f := fun d => doJunctionThrottleTick d q) rfl (decide_eq_true hq) hD ho hpost
  · have hexec : exec (.junctionThrottleTick q) s = unitOk (decide (q < 4)) (.next { s with dev := doJunctionThrottleTick s.dev q }) := rfl
    rw [hexec, doJunctionThrottleTick_between hlo hhi, decide_eq_true hq]
    rfl
  · have hval : s.dev.stackValue k = some (s.dev.sensor (64 + k)).reading := by
      unfold Dev.stackValue
      rw [hf]
      rfl
    have hdo : doHbmThrottleTick s.dev k = s.dev.upStack k (fun x => { x with limit := max 3 (x.limit - 1) }) := by
      unfold doHbmThrottleTick
      rw [hval]
      refine if_pos ?_
      rw [decide_eq_true hr, Bool.true_and, bne_iff_ne]
      exact hlim
    refine runs_unitDev (f := fun d => doHbmThrottleTick d k) rfl (decide_eq_true hk) hdo (devOnly_upMem _ _)
      ⟨by rw [stack_upStack, if_pos rfl], fun j hj => by rw [stack_upStack, if_neg hj], rfl⟩
  · refine runs_devN (F := fun d => doAllowanceRise d) rfl rfl ((devOnly_upThm _ _).mono (by simp)) (by simp) (by simp) ?_
    rw [report_thm]
    exact if_pos hfell
  · obtain ⟨A, hA, hAo, hAs⟩ : ∃ A, s.dev.upThm (fun t => { t with stale := true }) = A ∧ DevOnly [.thm] s.dev A ∧ A.thm.stale = true :=
      ⟨_, rfl, devOnly_upThm _ _, rfl⟩
    have hBo := devOnly_raise A 0xCE41 s.dev.trayAge
    have hR : Raises 0xCE41 s.dev (A.raise 0xCE41 s.dev.trayAge) := (raisesOnly_raise A _ _).1.of_same (src_same (hAo .evc (by simp)) _)
    have hBs : (A.raise 0xCE41 s.dev.trayAge).thm.stale = true := by rw [raise_thm]; exact hAs
    have hdo : doTrayStale s.dev = (A.raise 0xCE41 s.dev.trayAge).recool := by
      unfold doTrayStale
      rw [hA, hs]
      exact if_neg Bool.false_ne_true
    generalize A.raise 0xCE41 s.dev.trayAge = B at *
    obtain ⟨D, hD, ho, h1, h2, h3, h4⟩ := recool_selects B
    have hsrc0 : B.coolSource = 0 := by
      unfold Dev.coolSource Dev.trayGone
      refine if_pos ?_
      rw [hBs, Bool.true_or, Bool.true_or, Bool.or_true]
    refine runs_devE (F := fun d => doTrayStale d) rfl (hdo.trans hD)
      ((hAo.mono (by simp)).trans ((hBo.mono (by simp)).trans (ho.mono (by simp)))) (by simp) (by simp) fun g hg => ?_
    rw [show g.thm = D.thm from hg .thm (by simp)]
    exact ⟨h1.trans hBs, h2.trans hsrc0, h3, (hR.then h4).then (src_same (hg .evc (by simp)) _)⟩

end

section
/-! PROOFS. Reset sources and levels (R339–R345, R348), the loss and return of VMAIN (R342, R433). -/

namespace Sys2Proof.Machine

/-! ### Tables -/

/-- What holds of the value of unlisted keys and of every value that a map gives holds of every entry. -/
theorem tget_tmap_of {α : Type} [DecidableEq α] {P : α → Prop} {d : α} {f : Nat → α → α} (hd : P d) (hf : ∀ k v, P (f k v)) (t : Tab α)
    (k : Nat) : P (tget d (tmap d f t) k) := by
  induction t with
  | nil => exact hd
  | cons e t ih =>
    obtain ⟨k', v⟩ := e
    show P (tget d (tcons d k' (f k' v) (tmap d f t)) k)
    unfold tcons
    split
    · exact ih
    · unfold tget
      split
      · exact hf _ _
      · exact ih

/-- Entries written one after another: each of those, and each that had it, has the property that every write gives. -/
theorem tget_foldl_set {α : Type} [DecidableEq α] {P : α → Prop} {d : α} {F : α → α} (hF : ∀ x, P (F x)) (l : List Nat) (t : Tab α) {k : Nat}
    (hk : k ∈ l ∨ P (tget d t k)) : P (tget d (l.foldl (fun t j => tset d t j (F (tget d t j))) t) k) := by
  induction l generalizing t with
  | nil => exact hk.resolve_left List.not_mem_nil
  | cons j l ih =>
    refine ih _ ?_
    rw [tget_set]
    by_cases hj : k = j
    · rw [if_pos hj]
      exact Or.inr (hF _)
    · rw [if_neg hj]
      exact hk.imp_left (fun h => (List.mem_cons.mp h).resolve_left hj)

/-! ### Counting an assertion (R348) -/

/-- R348: an assertion changes the audit counters only, that of its source by one while VBKP is up. -/
theorem countSource_counts (d : Dev) (i : Nat) : ∃ D, d.countSource i = D ∧ DevOnly [.rst] d D ∧
    (∃ a b, D.rst = { d.rst with audit := a, auditSat := b }) ∧ Counted i d D := by
  unfold Dev.countSource
  split
  · rename_i hv
    have hget := fun j => tget_up 0 d.rst.audit i (fun n => satAdd 16 n 1) j
    exact ⟨_, rfl, devOnly_upRst _ _, ⟨_, _, rfl⟩, fun _ => (hget i).trans (if_pos rfl), fun j hj => (hget j).trans (if_neg hj)⟩
  · rename_i hv
    exact ⟨d, rfl, DevOnly.refl _ _, ⟨d.rst.audit, d.rst.auditSat, rfl⟩, fun h => absurd h hv, fun _ _ => rfl⟩

/-! ### L4 (R339, R346–R348) -/

theorem devOnly_l4State (w : OwnerFuses) (d : Dev) (src : Nat) : DevOnly Block.volatile d (d.l4State w src) := by
  intro b hb
  cases b with
  | flash => rfl
  | bind => rfl
  | _ => exact absurd (by decide) hb

/-- R346–R348: an L4's events. -/
theorem l4_events (w : OwnerFuses) (d : Dev) (src : Nat) : DevOnly [.evc, .free] (d.l4State w src) (d.l4 w src) := by
  have hraise : ∀ (e : Dev) n i, DevOnly [.evc, .free] e (e.raise n i) := fun e n i => (devOnly_raise e n i).mono (by simp)
  have hoption : ∀ (e : Dev) (c : Nat), DevOnly [.evc, .free] e (if c = 1 then e.raise 0xD020 0 else if c = 2 then e.raise 0xD021 0 else e) :=
    fun e c => DevOnly.ite (hraise _ _ _) (DevOnly.ite (hraise _ _ _) (DevOnly.refl _ _))
  have hcoord : ∀ (e : Dev) (b : Bool), DevOnly [.evc, .free] e (if b then e else e.raiseAny 0xC4A7) := fun e b =>
    DevOnly.ite (DevOnly.refl _ _) ((devOnly_raiseAny _ _).mono (by simp))
  unfold Dev.l4
  exact ((hoption _ _).trans (hcoord _ _)).trans (devOnly_each _ _ (fun e p => hraise e 0xD022 p) _)

section
variable {w : OwnerFuses} {src : Nat} {d e : Dev}

theorem afterL4_of (h : DevOnly [.evc, .free, .mgmt, .out] (d.l4State w src) e) : AfterL4 w src d e := by
  unfold AfterL4
  rw [show e.cat = (d.l4State w src).cat from h .cat (by simp), show e.mld = (d.l4State w src).mld from h .mld (by simp),
    show e.que = (d.l4State w src).que from h .que (by simp), show e.syn = (d.l4State w src).syn from h .syn (by simp),
    show e.mem = (d.l4State w src).mem from h .mem (by simp), show e.ldl = (d.l4State w src).ldl from h .ldl (by simp),
    show e.twin = (d.l4State w src).twin from h .twin (by simp), show e.pwr = (d.l4State w src).pwr from h .pwr (by simp),
    show e.acc = (d.l4State w src).acc from h .acc (by simp), show e.rst = (d.l4State w src).rst from h .rst (by simp),
    show e.rte = (d.l4State w src).rte from h .rte (by simp), show e.sec = (d.l4State w src).sec from h .sec (by simp)]
  exact ⟨rfl, rfl, rfl, rfl, rfl, rfl, rfl, rfl, rfl, rfl, rfl, rfl, rfl, rfl, rfl, rfl, rfl, rfl, rfl, rfl, rfl, rfl, rfl, rfl⟩

/-- R339: an L4 depends on the flashes, the straps and what VSTBY and VBKP hold. -/
theorem afterL4_congr {g : Dev} (h : AfterL4 w src d e) (hf : g.flash = d.flash) (hm : g.mgmt.straps = d.mgmt.straps)
    (hb : g.rst.backup = d.rst.backup) (hr : g.rst.retained = d.rst.retained) (ha : g.rst.audit = d.rst.audit) : AfterL4 w src g e := by
  unfold AfterL4 at *
  rwa [hf, hm, hb, hr, ha]

/-- R339, R348: an L4 whose assertion was counted in state `d1`, which holds of the reset record what `d` holds. -/
theorem afterL4_counted {d1 : Dev} (hf : d1.flash = d.flash) (hm : d1.mgmt.straps = d.mgmt.straps) (hb : d1.rst.backup = d.rst.backup)
    (hr : d1.rst.retained = d.rst.retained) (ha : d1.rst.audit = d.rst.audit) (hv : d1.rst.vbkp = d.rst.vbkp)
    (h : DevOnly [.evc, .free, .mgmt, .out] ((d1.countSource src).l4State w src) e) :
    AfterL4 w src { d with rst := { d.rst with audit := e.rst.audit } } e ∧ Counted src d e := by
  obtain ⟨C, hC, hCo, ⟨a, b, hCr⟩, hcount⟩ := countSource_counts d1 src
  rw [hC] at h
  have her : e.rst = (C.l4State w src).rst := h .rst (by simp)
  have haudit : e.rst.audit = C.rst.audit := by rw [her]; rfl
  refine ⟨afterL4_congr (afterL4_of h) ?_ ?_ ?_ ?_ haudit, ?_⟩
  · exact ((show C.flash = d1.flash from hCo .flash (by simp)).trans hf).symm
  · rw [show C.mgmt = d1.mgmt from hCo .mgmt (by simp)]
    exact hm.symm
  · rw [hCr]
    exact hb.symm
  · rw [hCr]
    exact hr.symm
  · unfold Counted at *
    rw [haudit, ← ha, ← hv]
    exact hcount

end

/-- R339: a command that performs an L4: its frame, and what every later state keeps of it. -/
theorem runs_l4 {c : Instr} {s : State} {src : Nat} {bs : List Block} {post : Dev → Prop} {F : Dev → Dev} {D : Dev} (h : exec c s = onDevN s F)
    (hF : F s.dev = D.l4 s.owner src) (hD : DevOnly bs s.dev D) (hbs : Block.volatile ⊆ bs)
    (p : ∀ e, DevOnly [.evc, .free, .mgmt, .out] (D.l4State s.owner src) e → e.mgmt.straps = D.mgmt.straps → post e) : Runs c s bs post := by
  have hL := l4_events s.owner D src
  have hvol := (devOnly_l4State s.owner D src).trans (hL.mono (by decide))
  refine runs_devN h hF (hD.trans (hvol.mono hbs)) (hbs (by decide)) (hbs (by decide)) (p _ ?_ ?_)
  · exact (hL.mono (by simp)).trans ((devOnly_report _ _).mono (by simp))
  · rw [report_mgmt Mgmt.straps (fun _ _ _ => rfl), show (D.l4 s.owner src).mgmt = (D.l4State s.owner src).mgmt from hL .mgmt (by simp)]
    rfl

/-! ### The level of a source (R342–R345) -/

section
variable {w : OwnerFuses} {i : Nat} {d : Dev}

theorem reach_countSource (w : OwnerFuses) (d : Dev) (k i : Nat) : (d.countSource k).reach w i = d.reach w i := by
  unfold Dev.reach
  rw [(countSource_keeps d k).2]

theorem sourceActs_l4 (h : d.reach w i = 5) (h6 : i ≠ 6) : d.sourceActs w i = (d.countSource i).l4 w i := by
  unfold Dev.sourceActs
  dsimp only
  rw [reach_countSource, h]
  exact if_neg h6

theorem sourceActs_counts (h : d.reach w i < 4) : d.sourceActs w i = d.countSource i := by
  unfold Dev.sourceActs
  dsimp only
  rw [reach_countSource]
  split
  · omega
  · omega
  · rfl

/-- R345: an L3 takes in every reset of a lower level. -/
theorem askReset_l3 {o : ResetOp} (hl : o.level = 3) (hm : d.mld.op = none) (hops : ∀ x ∈ d.rst.ops, x.level < 3) :
    ∃ D, d.askReset o = D ∧ DevOnly [.rst] d D ∧
      D.rst = { d.rst with state := 2, ops := [{ o with fences := o.fences ++ d.rst.ops.flatMap (fun x => x.fences) }] } := by
  have hinside : d.rst.ops.any (fun x => d.scopeIn o.level o.unit x.level x.unit) = false := by
    rw [List.any_eq_false]
    intro x hx
    have hx3 := hops x hx
    unfold Dev.scopeIn
    rw [hl, if_neg (by omega)]
    split
    · simp
    · split <;> simp
  have hcovers : ∀ x ∈ d.rst.ops, d.scopeIn x.level x.unit o.level o.unit = true := fun x hx => by
    unfold Dev.scopeIn
    rw [hl, if_pos (by omega)]
    exact decide_eq_true (Nat.le_of_lt (hops x hx))
  have hall : d.rst.ops.filter (fun x => d.scopeIn x.level x.unit o.level o.unit) = d.rst.ops := List.filter_eq_self.mpr hcovers
  have hnone : d.rst.ops.filter (fun x => !d.scopeIn x.level x.unit o.level o.unit) = [] := by
    rw [List.filter_eq_nil_iff]
    intro x hx
    rw [hcovers x hx]
    exact Bool.false_ne_true
  obtain ⟨y, hy⟩ : ∃ y : ResetOp, y = { o with fences := o.fences ++ d.rst.ops.flatMap (fun x => x.fences) } := ⟨_, rfl⟩
  refine ⟨(d.upRst (fun r => { r with ops := r.ops.filter (fun x => !d.scopeIn x.level x.unit o.level o.unit) ++ [y] })).upRst (fun r => { r with
    state := 2 }), ?_, (devOnly_upRst _ _).trans (devOnly_upRst _ _), ?_⟩
  · unfold Dev.askReset
    dsimp only
    rw [hinside, hall, hm, hy]
    exact (if_neg Bool.false_ne_true).trans ((if_neg (by omega)).trans (if_pos hl))
  · show ({ d.rst with ops := d.rst.ops.filter (fun x => !d.scopeIn x.level x.unit o.level o.unit) ++ [y], state := 2 } : Rst) = _
    rw [hnone, ← hy]
    rfl

/-- R342, R345: a source whose level is L3. -/
theorem sourceActs_l3 (h : d.reach w i = 4) (hm : d.mld.op = none) (hops : ∀ x ∈ d.rst.ops, x.level < 3) :
    ∃ D, d.sourceActs w i = D ∧ DevOnly [.rst] d D ∧ Counted i d D ∧ ∃ a b, D.rst = { d.rst with
      state := 2, ops := [mkReset 3 i 0 0 false (d.rst.ops.flatMap (fun x => x.fences)) d.now], audit := a, auditSat := b } := by
  obtain ⟨C, hC, hCo, ⟨a, b, hCr⟩, hcount⟩ := countSource_counts d i
  have hnow : C.now = d.now := hCo .now (by simp)
  obtain ⟨D, hD, hDo, hDr⟩ := askReset_l3 (d := C) (o := mkReset 3 i 0 0 false [] C.now) rfl (by rw [show C.mld = d.mld from hCo .mld (by simp)]; exact hm)
    (by rw [hCr]; exact hops)
  refine ⟨D, ?_, hCo.trans hDo, ?_, a, b, ?_⟩
  · have hreach := reach_countSource w d i i
    unfold Dev.sourceActs
    dsimp only
    rw [hC] at hreach ⊢
    rw [hreach, h]
    exact hD
  · unfold Counted at *
    rw [hDr]
    exact hcount
  · rw [hDr, hCr, hnow]
    rfl

end

/-- R342, R343: a source whose code gives its level, in a device `d1` that differs from the state's in the pins only: what each level does. -/
theorem runs_source {c : Instr} {s : State} {i : Nat} {F : Dev → Dev} {d1 : Dev} (h : exec c s = onDevN s F) (hF : F s.dev = d1.sourceActs s.owner i)
    (h6 : i ≠ 6) (ho : DevOnly [.rst] s.dev d1) (hr : ∃ pin clk, d1.rst = { s.dev.rst with pinHeld := pin, refclk := clk }) :
    (s.dev.reach s.owner i = 5 → Runs c s Block.volatile (fun d =>
      AfterL4 s.owner i { s.dev with rst := { s.dev.rst with audit := d.rst.audit } } d ∧ Counted i s.dev d)) ∧
    (s.dev.reach s.owner i = 4 → s.dev.mld.op = none → (∀ o ∈ s.dev.rst.ops, o.level < 3) →
      Runs c s [.rst, .mgmt, .out] (fun d => d.rst.state = 2 ∧ Counted i s.dev d ∧
        d.rst.ops = [mkReset 3 i 0 0 false (s.dev.rst.ops.flatMap (fun o => o.fences)) s.dev.now])) ∧
    (s.dev.reach s.owner i < 4 → Runs c s [.rst, .mgmt, .out] (fun d =>
      d.rst.ops = s.dev.rst.ops ∧ d.rst.state = s.dev.rst.state ∧ Counted i s.dev d)) := by
  obtain ⟨pin, clk, hr⟩ := hr
  have hreach : d1.reach s.owner i = s.dev.reach s.owner i := by
    unfold Dev.reach
    rw [hr]
  have hcounted : ∀ e, Counted i d1 e → Counted i s.dev e := fun e he => by
    unfold Counted at *
    rw [hr] at he
    exact he
  rw [← hreach]
  refine ⟨fun h5 => ?_, fun h4 hm hops => ?_, fun hlt => ?_⟩
  · have hC := devOnly_countSource d1 i
    refine runs_l4 h (hF.trans (sourceActs_l4 h5 h6)) ((ho.trans hC).mono (by decide)) (List.Subset.refl _) fun e he _ => ?_
    exact afterL4_counted (ho .flash (by simp)) (congrArg Mgmt.straps (ho .mgmt (by simp))) (by rw [hr]) (by rw [hr]) (by rw [hr]) (by rw [hr]) he
  · obtain ⟨D, hD, hDo, hcount, a, b, hDr⟩ := sourceActs_l3 h4 (by rw [show d1.mld = s.dev.mld from ho .mld (by simp)]; exact hm)
      (by rw [hr]; exact hops)
    refine runs_devE h (hF.trans hD) ((ho.trans hDo).mono (by simp)) (by simp) (by simp) fun e he => ?_
    have her : e.rst = D.rst := he .rst (by simp)
    unfold Counted at *
    rw [her]
    refine ⟨by rw [hDr], hcounted _ hcount, ?_⟩
    rw [hDr, hr, show d1.now = s.dev.now from ho .now (by simp)]
  · obtain ⟨C, hC, hCo, ⟨a, b, hCr⟩, hcount⟩ := countSource_counts d1 i
    refine runs_devE h (hF.trans ((sourceActs_counts hlt).trans hC)) ((ho.trans hCo).mono (by simp)) (by simp) (by simp) fun e he => ?_
    have her : e.rst = C.rst := he .rst (by simp)
    unfold Counted at *
    rw [her]
    exact ⟨by rw [hCr, hr], by rw [hCr, hr], hcounted _ hcount⟩

end Sys2Proof.Machine
end

section
/-! PROOFS. The loss and return of VMAIN (R31, R342, R433). -/

namespace Sys2Proof.Machine

/-! ### Losing VMAIN (R31, R433) -/

theorem devOnly_resetShell (d : Dev) : DevOnly [.cat, .mld, .que, .syn, .evc, .mem, .ports, .rte, .ldl, .hst, .twin, .pwr] d d.resetShell := by
  intro b hb
  cases b with
  | now | free | bind | thm | rst | flash | upd | sec | mgmt | acc | out => rfl
  | _ => exact absurd (by decide) hb

theorem resetShell_part (d : Dev) (p : Nat) : (d.resetShell.part p).state = 0 :=
  tget_tmap_of (P := fun x => x.state = 0) (d := Part.init) (f := fun _ x => x.l3) rfl (fun _ _ => rfl) d.mld.parts p

theorem port_powered (en : Nat → Bool) (d : Dev) (p j : Nat) : (d.upPort p (fun x => { x with state := if en p then 4 else 0 })).port j =
    if j = p then { d.port j with state := if en p then 4 else 0 } else d.port j := by
  rw [port_upPort]
  split
  · rename_i h
    rw [h]
  · rfl

theorem devOnly_upHPort (d : Dev) (p : Nat) (f : HPort → HPort) : DevOnly [.hst] d (d.upHPort p f) := devOnly_upHst _ _

theorem resetShell_bytes (d : Dev) : d.resetShell.mem.bytes = [] := rfl

theorem resetShell_runs (d : Dev) : d.resetShell.cat.runs = [] := rfl

/-- R31: the ports without VMAIN: `en` tells which were enabled. -/
theorem portsPowered (en : Nat → Bool) (d : Dev) : ∃ D,
    d.each (List.range 18) (fun e p => e.upPort p (fun x => { x with state := if en p then 4 else 0 })) = D ∧ DevOnly [.ports] d D ∧
    ∀ p, p < 18 → (D.port p).state = if en p then 4 else 0 := by
  have hn : ((List.range 18).map (fun p => p)).Nodup := by rw [List.map_id']; exact List.nodup_range
  have hmem : ∀ p, p < 18 → p ∈ List.range 18 := fun p hp => List.mem_range.mpr hp
  generalize List.range 18 = l at *
  obtain ⟨hin, -⟩ := each_key (g := fun d j => d.port j) (key := fun p => p)
    (f := fun e p => e.upPort p (fun x => { x with state := if en p then 4 else 0 }))
    (F := fun p x => { x with state := if en p then 4 else 0 }) (port_powered en) l hn d
  exact ⟨_, rfl, devOnly_each _ _ (fun e p => devOnly_upPort e p _) _, fun p hp => congrArg Port.state (hin p (hmem p hp))⟩

/-- R31: what follows the loss of the shell, in a device `d`: the host ports and the regulators. -/
theorem hostPowered (d : Dev) : DevOnly [.hst, .pwr] d ((d.each (List.range 4) (fun d p => d.upHPort p (fun x => { x with
      state := if x.enable then 3 else 0 }))).upPwr (fun p => { p with
      quads := tmap PQuad.init (fun _ q => { q with setpoint := 0, droop := false, pulse := false, duty := 0, est := 0 }) p.quads })) := by
  have hE := devOnly_each (List.range 4) (fun d p => d.upHPort p (fun x => { x with state := if x.enable then 3 else 0 }))
    (fun e p => devOnly_upHPort e p _) d
  exact (hE.mono (by simp)).trans ((devOnly_upPwr _ _).mono (by simp))

/-- R31: the device without VMAIN. -/
theorem powerDown_loses (d : Dev) : ∃ D, d.powerDown = D ∧
    DevOnly [.cat, .mld, .que, .syn, .evc, .mem, .ports, .rte, .ldl, .hst, .twin, .pwr, .rst] d D ∧ D.rst.vmain = false ∧ D.rst.state = 0 ∧
    (∀ p, (D.part p).state = 0) ∧ D.mem.bytes = [] ∧ D.cat.runs = [] ∧
    ∀ p, p < 18 → (D.port p).state = if (d.port p).enable then 4 else 0 := by
  have hA := devOnly_resetShell d
  have hpart := resetShell_part d
  have hbytes := resetShell_bytes d
  have hruns := resetShell_runs d
  unfold Dev.powerDown
  dsimp only
  generalize d.resetShell = A at *
  obtain ⟨B, hB, hBo, hBv, hBs⟩ : ∃ B, A.upRst (fun r => { r with
      vmain := false, lostV := true, state := 0, step := min r.step 2, ops := r.ops.filter (fun o => o.level == 4) }) = B ∧
      DevOnly [.rst] A B ∧ B.rst.vmain = false ∧ B.rst.state = 0 := ⟨_, rfl, devOnly_upRst _ _, rfl, rfl⟩
  obtain ⟨C, hC, hCo, hCp⟩ := portsPowered (fun p => (d.port p).enable) B
  rw [hB, hC]
  have hE := hostPowered C
  generalize (C.each (List.range 4) _).upPwr _ = E at *
  have hAll : DevOnly [.rst, .ports, .hst, .pwr] A E := (hBo.mono (by simp)).trans ((hCo.mono (by simp)).trans (hE.mono (by simp)))
  have hrst : E.rst = B.rst := Eq.trans (hE .rst (by simp)) (hCo .rst (by simp))
  refine ⟨E, rfl, (hA.mono (by simp)).trans (hAll.mono (by simp)), by rw [hrst, hBv], by rw [hrst, hBs], fun p => ?_, ?_, ?_, fun p hp => ?_⟩
  · rw [part_same (hAll .mld (by simp))]
    exact hpart p
  · rw [show E.mem = A.mem from hAll .mem (by simp), hbytes]
  · rw [show E.cat = A.cat from hAll .cat (by simp), hruns]
  · rw [port_same (hE .ports (by simp)), hCp p hp]

theorem doVmainLoss_loses {d : Dev} (h : d.rst.vmain = true) : ∃ D, doVmainLoss d = D ∧
    DevOnly [.free, .cat, .mld, .que, .syn, .evc, .mem, .ports, .rte, .ldl, .hst, .pwr, .rst, .mgmt, .twin] d D ∧
    D.rst.vmain = false ∧ D.rst.state = 0 ∧ (∀ p, (D.part p).state = 0) ∧ D.mem.bytes = [] ∧ D.cat.runs = [] ∧
    (∀ p, p < 18 → (D.port p).state = if (d.port p).enable then 4 else 0) ∧
    D.mgmt.lossP = d.pwr.power ∧ D.mgmt.lossN = satAdd 16 d.mgmt.lossN 1 := by
  obtain ⟨A, hA, hAo, hAp, hAn⟩ : ∃ A, d.logLoss = A ∧ DevOnly [.mgmt] d A ∧ A.mgmt.lossP = d.pwr.power ∧
      A.mgmt.lossN = satAdd 16 d.mgmt.lossN 1 := ⟨_, rfl, devOnly_upMgmt _ _, rfl, rfl⟩
  obtain ⟨B, hB, hBo, h1, h2, h3, h4, h5, h6⟩ := powerDown_loses A
  have hR := devOnly_raiseAny B 0xD484
  have hmgmt : (B.raiseAny 0xD484).mgmt = A.mgmt := Eq.trans (hR .mgmt (by simp)) (hBo .mgmt (by simp))
  have hrst : (B.raiseAny 0xD484).rst = B.rst := hR .rst (by simp)
  have hmem : (B.raiseAny 0xD484).mem = B.mem := hR .mem (by simp)
  have hcat : (B.raiseAny 0xD484).cat = B.cat := hR .cat (by simp)
  refine ⟨B.raiseAny 0xD484, ?_, (hAo.mono (by simp)).trans ((hBo.mono (by simp)).trans (hR.mono (by simp))), by rw [hrst, h1], by rw [hrst, h2],
    fun p => ?_, by rw [hmem, h4], by rw [hcat, h5], fun p hp => ?_, by rw [hmgmt, hAp], by rw [hmgmt, hAn]⟩
  · unfold doVmainLoss
    rw [if_pos h, hA, hB]
  · rw [part_same (hR .mld (by simp)), h3]
  · rw [port_same (hR .ports (by simp)), h6 p hp, port_same (hAo .ports (by simp))]

/-! ### Losing VSTBY (R342, R437) -/

theorem devOnly_bind (d : Dev) (b : Option Binding) : DevOnly [.bind] d { d with bind := b } := fun b hb => by
  cases b with
  | bind => exact absurd (List.mem_singleton.mpr rfl) hb
  | _ => rfl

/-- R342, R437: BOR performs an L4 on a device without what VSTBY holds. -/
theorem doBor_l4 (w : OwnerFuses) (d : Dev) : ∃ D, doBor w d = D.l4 w 3 ∧ DevOnly [.bind, .rst, .thm, .mgmt] (d.countSource 3) D ∧ D.bind = none ∧
    D.rst = { (d.countSource 3).rst with vstby := false, backup := [], retained := [] } ∧ D.mgmt.straps = (d.countSource 3).mgmt.straps := by
  unfold doBor
  generalize d.countSource 3 = C
  exact ⟨_, rfl, ((devOnly_upRst C _).mono (by simp)).trans (((devOnly_bind _ none).mono (by simp)).trans
    (((devOnly_upThm _ _).mono (by simp)).trans ((devOnly_upMgmt _ _).mono (by simp)))), rfl, rfl, rfl⟩

/-! ### The return of VMAIN (R342, R349, R438) -/

section
variable {w : OwnerFuses} {d : Dev}

/-- R431, R438: VMAIN is valid while VSTBY is: the request to remove it is gone. -/
theorem vmainBack (d : Dev) : ∃ D, ((d.upRst (fun r => { r with vmain := true, vmainAt := d.now })).upMgmt (fun m => { m with
      vmHold := none })).upThm (fun t => { t with vmReq := false, noLeave := false, cycled := t.cycled || t.tripped }) = D ∧
    DevOnly [.rst, .mgmt, .thm] d D ∧ D.rst = { d.rst with vmain := true, vmainAt := d.now } ∧ D.mgmt.vmHold = none ∧ D.thm.hold = d.thm.hold :=
  ⟨_, rfl, ((devOnly_upRst _ _).mono (by simp)).trans (((devOnly_upMgmt _ _).mono (by simp)).trans ((devOnly_upThm _ _).mono (by simp))),
    rfl, rfl, rfl⟩

theorem reach_vmn (w : OwnerFuses) (d : Dev) : d.reach w 11 = 4 := rfl

/-- R342: after a loss VMN performs an L3. -/
theorem doVmainRestore_resets (hv : d.rst.vmain = false) (hb : d.rst.vstby = true) (hl : d.rst.lostV = true) (hm : d.mld.op = none)
    (hops : ∀ o ∈ d.rst.ops, o.level < 3) :
    ∃ D, doVmainRestore w d = D ∧ DevOnly [.free, .evc, .thm, .rst, .mgmt] d D ∧ D.rst.vmain = true ∧ D.rst.vmainAt = d.now ∧
      D.rst.lostV = false ∧ D.rst.state = 2 ∧ Counted 11 d D ∧
      D.rst.ops = [mkReset 3 11 0 0 false (d.rst.ops.flatMap (fun o => o.fences)) d.now] ∧ D.mgmt.vmHold = none := by
  obtain ⟨A, hA, hAo, hAr, hAm, -⟩ := vmainBack d
  obtain ⟨B, hB, hBo, hBr⟩ : ∃ B, A.upRst (fun r => { r with lostV := false }) = B ∧ DevOnly [.rst] A B ∧ B.rst = { A.rst with lostV := false } :=
    ⟨_, rfl, devOnly_upRst _ _, rfl⟩
  rw [hAr] at hBr
  have hmld : B.mld = d.mld := Eq.trans (hBo .mld (by simp)) (hAo .mld (by simp))
  have hnow : B.now = d.now := Eq.trans (hBo .now (by simp)) (hAo .now (by simp))
  obtain ⟨C, hC, hCo, hcount, a, b, hCr⟩ := sourceActs_l3 (w := w) (reach_vmn w B) (by rw [hmld]; exact hm) (by rw [hBr]; exact hops)
  have hR := devOnly_raiseAny C 0xD485
  have hrst : (C.raiseAny 0xD485).rst = C.rst := hR .rst (by simp)
  have hmgmt : (C.raiseAny 0xD485).mgmt = A.mgmt := Eq.trans (hR .mgmt (by simp)) (Eq.trans (hCo .mgmt (by simp)) (hBo .mgmt (by simp)))
  refine ⟨C.raiseAny 0xD485, ?_, (hAo.mono (by simp)).trans ((hBo.mono (by simp)).trans ((hCo.mono (by simp)).trans (hR.mono (by simp)))), ?_, ?_, ?_,
    ?_, ?_, ?_, by rw [hmgmt, hAm]⟩
  · have hvs : (d.upRst (fun r => { r with vmain := true, vmainAt := d.now })).rst.vstby = true := hb
    have hlost : A.rst.lostV = true := by rw [hAr]; exact hl
    unfold doVmainRestore
    simp only [hv, Bool.false_eq_true, if_false, hvs, Bool.not_true, hA, hlost, if_true, hB, hC]
  · rw [hrst, hCr, hBr]
  · rw [hrst, hCr, hBr]
  · rw [hrst, hCr, hBr]
  · rw [hrst, hCr]
  · unfold Counted at *
    rw [hrst]
    rw [hBr] at hcount
    exact hcount
  · rw [hrst, hCr, hBr, hnow]

/-- R349 step 4: the stacks of a memory in training. -/
def trained (t : Tab Stack) : Tab Stack := (List.range 16).foldl (fun t s => tset Stack.init t s { tget Stack.init t s with state := 3 }) t

theorem trained_state (t : Tab Stack) {k : Nat} (hk : k < 16) : (tget Stack.init (trained t) k).state = 3 := by
  have hmem := List.mem_range.mpr hk
  unfold trained
  generalize List.range 16 = l at *
  exact tget_foldl_set (P := fun x : Stack => x.state = 3) (F := fun x => { x with state := 3 }) (fun _ => rfl) l t (Or.inl hmem)

theorem stack_upHbm (d : Dev) (f : Tab Stack → Tab Stack) (k : Nat) :
    (d.upMem (fun m => { m with hbm := f m.hbm })).stack k = tget Stack.init (f d.mem.hbm) k := rfl

/-- R349 steps 3 and 4: the stacks train. -/
theorem stepThree_trains (h : d.thm.hold = false) : ∃ D, d.stepThree = D ∧ DevOnly [.rst, .mem] d D ∧ D.rst.vmain = d.rst.vmain ∧ D.rst.step = 3 ∧
    ∀ k, k < 16 → (D.stack k).state = 3 := by
  unfold Dev.stepThree
  dsimp only
  obtain ⟨A, hA, hAo, hAv, hAs, hAt⟩ : ∃ A, d.upRst (fun r => { r with
      step := 3, bringup := tset 0 (tset 0 r.bringup 2 ((d.now - r.vmainAt) / 100 % 2 ^ 32)) 4 0xFFFFFFFF }) = A ∧ DevOnly [.rst] d A ∧
      A.rst.vmain = d.rst.vmain ∧ A.rst.step = 3 ∧ A.thm = d.thm := ⟨_, rfl, devOnly_upRst _ _, rfl, rfl, rfl⟩
  rw [hA, hAt, h, if_neg Bool.false_ne_true]
  have hU := devOnly_upMem A (fun m => { m with hbm := trained m.hbm })
  refine ⟨A.upMem (fun m => { m with hbm := trained m.hbm }), by simp only [trained], (hAo.mono (by simp)).trans (hU.mono (by simp)), hAv, hAs,
    fun k hk => ?_⟩
  rw [stack_upHbm]
  exact trained_state _ hk

/-- R349: without a loss bring-up goes on. -/
theorem doVmainRestore_trains (hv : d.rst.vmain = false) (hb : d.rst.vstby = true) (hl : d.rst.lostV = false) (hboot : d.rst.booted = true)
    (hrec : d.upd.recovery = false) (hh : d.thm.hold = false) :
    ∃ D, doVmainRestore w d = D ∧ DevOnly [.thm, .rst, .mem, .mgmt] d D ∧ D.rst.vmain = true ∧ D.rst.step = 3 ∧
      ∀ k, k < 16 → (D.stack k).state = 3 := by
  obtain ⟨A, hA, hAo, hAr, -, hAh⟩ := vmainBack d
  obtain ⟨D, hD, hDo, h1, h2, h3⟩ := stepThree_trains (hAh.trans hh)
  refine ⟨D, ?_, (hAo.mono (by simp)).trans (hDo.mono (by simp)), by rw [h1, hAr], h2, h3⟩
  have hvs : (d.upRst (fun r => { r with vmain := true, vmainAt := d.now })).rst.vstby = true := hb
  have hlost : A.rst.lostV = false := by rw [hAr]; exact hl
  have hbooted : A.rst.booted = true := by rw [hAr]; exact hboot
  have hrecov : A.upd.recovery = false := by rw [show A.upd = d.upd from hAo .upd (by simp)]; exact hrec
  unfold doVmainRestore
  simp only [hv, Bool.false_eq_true, if_false, hvs, Bool.not_true, Bool.not_false, hA, hlost, hbooted, hrecov, Bool.and_self, if_true, hD]

end

end Sys2Proof.Machine
end

section
/-! PROOFS. The obligation about the sources of a reset. -/

open Sys2Proof Sys2Proof.Machine

/-- Settles O41. -/
theorem resetSourcesPerformTheirLevel : Obligations.ResetSourcesPerformTheirLevel := by
  refine ⟨fun s straps => ?_, fun s => ?_, fun s limit => ?_, fun s => ?_, fun s c i hc hclk => ?_, fun s => ⟨?_, ?_, ?_, ?_⟩,
    fun s => ⟨fun hv => ?_, fun hv hb => ⟨fun hl hm hops => ?_, fun hl hboot hrec hh => ?_⟩⟩⟩
  · obtain ⟨A, hA, hAo, hAm, hAr⟩ : ∃ A, (s.dev.upRst (fun r => { r with vstby := true })).upMgmt (fun m => { m with straps := straps % 512 }) = A ∧
        DevOnly [.rst, .mgmt] s.dev A ∧ A.mgmt.straps = straps % 512 ∧ A.rst = { s.dev.rst with vstby := true } :=
      ⟨_, rfl, ((devOnly_upRst _ _).mono (by simp)).trans ((devOnly_upMgmt _ _).mono (by simp)), rfl, rfl⟩
    have hC := devOnly_countSource A 2
    refine runs_l4 (F := fun d => doPor s.owner d straps) (D := A.countSource 2) rfl (by rw [← hA]; rfl)
      ((hAo.mono (by decide)).trans (hC.mono (by decide))) (List.Subset.refl _) fun e he hst => ?_
    obtain ⟨hafter, hcount⟩ := afterL4_counted (d := { s.dev with mgmt := { s.dev.mgmt with straps := straps % 512 } }) (hAo .flash (by simp)) hAm
      (by rw [hAr]) (by rw [hAr]) (by rw [hAr]) (by rw [hAr]) he
    refine ⟨hafter, hcount, ?_, ?_⟩
    · rw [hst, show (A.countSource 2).mgmt = A.mgmt from hC .mgmt (by simp), hAm]
    · obtain ⟨C, hCe, -, ⟨a, b, hCr⟩, -⟩ := countSource_counts A 2
      rw [show e.rst = ((A.countSource 2).l4State s.owner 2).rst from he .rst (by simp)]
      show (A.countSource 2).rst.vstby = true
      rw [hCe, hCr, hAr]
  · obtain ⟨C, hC, hCo, ⟨a, b, hCr⟩, hcount⟩ := countSource_counts s.dev 3
    obtain ⟨D, hD, hDo, hDb, hDr, hDm⟩ := doBor_l4 s.owner s.dev
    rw [hC] at hDo hDr hDm
    refine runs_l4 (F := fun d => doBor s.owner d) rfl hD ((hCo.mono (by decide)).trans (hDo.mono (by decide))) (List.subset_cons_self _ _)
      fun e he _ => ?_
    have her : e.rst = (D.l4State s.owner 3).rst := he .rst (by simp)
    have haudit : e.rst.audit = C.rst.audit := by
      rw [her]
      show D.rst.audit = _
      rw [hDr]
    refine ⟨afterL4_congr (afterL4_of he) ?_ ?_ ?_ ?_ ?_, ?_, ?_, ?_⟩
    · exact (Eq.trans (hDo .flash (by simp)) (hCo .flash (by simp))).symm
    · rw [hDm, show C.mgmt = s.dev.mgmt from hCo .mgmt (by simp)]
    · rw [hDr]
    · rw [hDr]
    · rw [hDr]
      exact haudit
    · unfold Counted at *
      rw [haudit]
      exact hcount
    · rw [her]
      show D.rst.vstby = false
      rw [hDr]
    · rw [show e.bind = (D.l4State s.owner 3).bind from he .bind (by simp)]
      exact hDb
  · obtain ⟨A, hA, hAo, hAr⟩ : ∃ A, (if s.dev.rst.state = 0 then s.dev.upUpd (fun u => { u with lastFail := if limit then 3 else 2 }) else s.dev) = A ∧
        DevOnly [.upd] s.dev A ∧ A.rst = s.dev.rst :=
      ⟨_, rfl, DevOnly.ite (devOnly_upUpd _ _) (DevOnly.refl _ _), by split <;> rfl⟩
    refine runs_l4 (F := fun d => doWdtExpiry s.owner d limit) rfl ?_ ((hAo.mono (by decide)).trans ((devOnly_countSource A 5).mono (by decide)))
      (List.Subset.refl _) fun e he _ => afterL4_counted (hAo .flash (by simp)) (congrArg Mgmt.straps (hAo .mgmt (by simp))) (by rw [hAr])
        (by rw [hAr]) (by rw [hAr]) (by rw [hAr]) he
    unfold doWdtExpiry
    dsimp only
    rw [hA]
    exact sourceActs_l4 rfl (by omega)
  · obtain ⟨A, hA, hAo, hAr⟩ : ∃ A, (if s.dev.rst.state = 0 then s.dev.upUpd (fun u => { u with lastFail := 2 }) else s.dev) = A ∧
        DevOnly [.upd] s.dev A ∧ A.rst = s.dev.rst :=
      ⟨_, rfl, DevOnly.ite (devOnly_upUpd _ _) (DevOnly.refl _ _), by split <;> rfl⟩
    refine runs_l4 (F := fun d => doLockUp s.owner d) rfl ?_ ((hAo.mono (by decide)).trans ((devOnly_countSource A 9).mono (by decide)))
      (List.Subset.refl _) fun e he _ => afterL4_counted (hAo .flash (by simp)) (congrArg Mgmt.straps (hAo .mgmt (by simp))) (by rw [hAr])
        (by rw [hAr]) (by rw [hAr]) (by rw [hAr]) he
    unfold doLockUp
    rw [hA]
    exact sourceActs_l4 rfl (by omega)
  · simp only [List.mem_cons, List.not_mem_nil, or_false, Prod.mk.injEq] at hc
    obtain ⟨rfl, rfl⟩ | ⟨rfl, rfl⟩ | ⟨rfl, rfl⟩ := hc
    · exact runs_source (F := fun d => doPinReset s.owner d) (d1 := s.dev.upRst (fun r => { r with pinHeld := true })) rfl rfl (by omega)
        (devOnly_upRst _ _) ⟨true, s.dev.rst.refclk, rfl⟩
    · exact runs_source (F := fun d => doJtagReset s.owner d) (d1 := s.dev) rfl rfl (by omega) (DevOnly.refl _ _)
        ⟨s.dev.rst.pinHeld, s.dev.rst.refclk, rfl⟩
    · exact runs_source (F := fun d => doRefclkFailure s.owner d) (d1 := s.dev.upRst (fun r => { r with refclk := false })) rfl (if_pos (hclk rfl))
        (by omega) (devOnly_upRst _ _) ⟨s.dev.rst.pinHeld, false, rfl⟩
  · exact runs_devE (F := fun d => doPinResetRelease d) rfl rfl ((devOnly_upRst _ _).mono (by simp)) (by simp) (by simp) fun e he => he .rst (by simp)
  · exact runs_devE (F := fun d => doRefclkReturn d) rfl rfl ((devOnly_upRst _ _).mono (by simp)) (by simp) (by simp) fun e he => he .rst (by simp)
  · exact runs_devE (F := fun d => doVbkpReturn d) rfl rfl ((devOnly_upRst _ _).mono (by simp)) (by simp) (by simp) fun e he => he .rst (by simp)
  · exact runs_devE (F := fun d => doVbkpLoss d) rfl rfl (((devOnly_upRst _ _).mono (by simp)).trans ((devOnly_upSec _ _).mono (by simp)))
      (by simp) (by simp) fun e he => ⟨he .rst (by simp), he .sec (by simp)⟩
  · obtain ⟨D, hD, ho, h1, h2, h3, h4, h5, h6, h7, h8⟩ := doVmainLoss_loses hv
    refine runs_devN (F := fun d => doVmainLoss d) rfl hD (ho.mono (by simp)) (by simp) (by simp) ?_
    rw [report_rst, report_mem, report_cat, report_mgmt Mgmt.lossP (fun _ _ _ => rfl), report_mgmt Mgmt.lossN (fun _ _ _ => rfl)]
    refine ⟨h1, h2, fun p => ?_, h4, h5, fun p hp => ?_, h7, h8⟩
    · rw [report_part, h3]
    · rw [report_port, h6 p hp]
  · obtain ⟨D, hD, ho, h1, h2, h3, h4, h5, h6, h7⟩ := doVmainRestore_resets (w := s.owner) hv hb hl hm hops
    refine runs_devN (F := fun d => doVmainRestore s.owner d) rfl hD (ho.mono (by simp)) (by simp) (by simp) ?_
    unfold Counted at *
    rw [report_rst, report_mgmt Mgmt.vmHold (fun _ _ _ => rfl)]
    exact ⟨h1, h2, h3, h4, h5, h6, h7⟩
  · obtain ⟨D, hD, ho, h1, h2, h3⟩ := doVmainRestore_trains (w := s.owner) hv hb hl hboot hrec hh
    refine runs_devE (F := fun d => doVmainRestore s.owner d) rfl hD (ho.mono (by simp)) (by simp) (by simp) fun e he => ?_
    rw [show e.rst = D.rst from he .rst (by simp)]
    exact ⟨h1, h2, fun k hk => by rw [stack_same (he .mem (by simp)), h3 k hk]⟩

end
